-- ==== Sys2Proof/Word.lean ====
section
/-! DEFINITION. The word types of the Zarup Z1: 64-bit registers, 32-bit instruction words and lanes, bytes,
56-bit virtual addresses (R13, R17, R46). -/

namespace Sys2Proof

/-- A general register or a doubleword of memory (R17). -/
abbrev W64 := BitVec 64
/-- An instruction word (R46), a predicate word or an FP32 pattern. -/
abbrev W32 := BitVec 32
/-- A byte of memory. -/
abbrev Byte := BitVec 8
/-- A virtual address: 56 bits (R13, R53). -/
abbrev VAddr := BitVec 56

/-- The key material of a key slot: the data key of 512 bits and the tag key of 128 bits (R361). -/
abbrev KeyMat := BitVec 512 × BitVec 128

/-- A general register number, g0 to g7 (R52). -/
abbrev Reg := BitVec 3
/-- A predicate number, p0 to p31 (R52). -/
abbrev Pred := BitVec 5

end Sys2Proof
end

