-- ==== Sys2Proof/Syntax.lean ====
section
/-! DEFINITION. The syntax of the Zarup Z1's steps: one constructor for every row of spec/opcode_table.json.  The first
200 are the instruction words of Folore (03_encoding R46-R67), each with its guard; the last 72 are the events of
95_what_each_step_holds, which have no encoding and name what they act on. -/

namespace Sys2Proof

/-- The guard of a word: sense GS and predicate GP (R46, R49). -/
structure Guard where
  gs : Bool
  gp : Pred
  deriving DecidableEq, Repr

/-- No guard: GS = 0, GP = 31 (R49, R72). -/
def Guard.always : Guard := ⟨false, 31#5⟩

/-- PCMP conditions (R111). -/
inductive PCond where
  | eq | ne | lt | le | ltz | lez | b | be
  deriving DecidableEq, Repr

/-- FCMP relations (R112). -/
inductive FRel where
  | eq | lt | le | un
  deriving DecidableEq, Repr

/-- Float lane formats of majors 0x03 and 0x11-0x13 (R61). -/
inductive FFmt where
  | f32 | bf | h
  deriving DecidableEq, Repr

/-- Short-vector lane shapes (R61, R105). -/
inductive Shape where
  | b8 | h16 | w32
  deriving DecidableEq, Repr

/-- CVT format codes (R61). -/
inductive CFmt where
  | f32 | bf | h | i32 | i16 | i8
  deriving DecidableEq, Repr

/-- Load sizes (R62). -/
inductive LdSize where
  | bz | hz | wz | d | bs | hs | ws
  deriving DecidableEq, Repr

/-- Store sizes (R62). -/
inductive StSize where
  | b | h | w | d
  deriving DecidableEq, Repr

/-- Reaches (R201). -/
inductive Reach where
  | self | unit | cluster | die | device | domain | system
  deriving DecidableEq, Repr

/-- Cache hints of a load or store: the evict value and the noalloc bit (R231, R232). -/
structure Hint where
  evict : BitVec 2
  noalloc : Bool
  deriving DecidableEq, Repr

/-- An arrival-log port: an IU's L2 slice or a stack controller (R215, R217). -/
inductive Port where
  | slice (iu : Nat)
  | stack (s : Nat)
  deriving DecidableEq, Repr

/-- What a write-back carries: a message under way, or a dirty line that the unit's data L1 evicts now (R214, R231). -/
inductive WbSource where
  | message (id : Nat)
  | evict (unit line : Nat)
  deriving DecidableEq, Repr

/-- How an element of a start came out: passed or not, and the detail of its record (R419, R421); for a link the version mask that the
other end advertises, and for a peer port its number, 64 for none (R401, R402). -/
structure StartOutcome where
  passed : Bool
  detail : Nat
  mask : BitVec 16
  number : Nat
  deriving DecidableEq, Repr

/-- The array of a line's bytes (R409): the data L1 or the L2 slice of a unit, or the memory-side cache of the line's stack. -/
inductive CacheArray where
  | dataL1 (unit : Nat)
  | slice (unit : Nat)
  | stackCache
  deriving DecidableEq, Repr

/-- A patrol read (R415): the stack, and the symbols of its DRAM that were altered before it, as (block, symbol, error) (R365; log 80). -/
structure Patrol where
  stack : Nat
  upsets : List (Nat × Nat × Byte)
  deriving DecidableEq, Repr

/-- What a peer device sends (R26, R27, R31, R200, R264, R285, R310, R316, R335, R374, R386, R392, R394; log 28): a load or a store of this
device's memory; a write of its own to memory that this device sees in its aperture; a full/empty access, a moonlet or a frame
update of a word at its home here, by the code of its operation; the cancel of such an access that waits here; a steal from a unit
here, with a tag for the answer; a line that arrives; a load or a store of a context line that is here; a debug instruction, by
its code, or an RTE, at such a line; a delivery to a line that arrived before it, or the answer to a message of this device; a rank
of a collective with its buffer; the result of a collective performed there.  ctx is the number to which the answer goes. -/
inductive PeerOp where
  | load (pa bytes ctx : Nat)
  | store (pa bytes : Nat) (words : List W64) (ctx : Nat)
  | own (pa bytes : Nat) (words : List W64)
  | sync (code pa : Nat) (v : W64) (ctx : Nat)
  | moonlet (code pa : Nat) (v : W64) (ctx : Nat)
  | frame (code pa : Nat) (v : W64) (ctx : Nat)
  | cancel (ctx : Nat)
  | steal (victim tag : Nat)
  | line (va dest : Nat) (words : List W64)
  | lineLoad (va bytes ctx : Nat)
  | lineStore (va bytes : Nat) (v : W64) (priv : Bool) (ctx : Nat)
  | debug (code va ctx : Nat)
  | rte (va : Nat) (pc : Option W64)
  | deliver (va code reg : Nat) (v w x : W64)
  | join (cmd : Nat) (bc : Bool) (words : List W64) (buffer : List W64)
  | result (cmd : Nat) (words : List W64)
  deriving DecidableEq, Repr

/-- A message of a peer device: the number of the device it is addressed to (R402), the peer and its unit, the tenant, and what it
asks. -/
structure PeerRequest where
  dest : Nat
  peer : Nat
  unit : Nat
  tenant : Nat
  op : PeerOp
  deriving DecidableEq, Repr

/-- One step of the machine: an instruction of the context whose turn it is, or an event. -/
inductive Instr where
  -- control and predicates (R59)
  | br (g : Guard) (off : BitVec 19)
  | call (g : Guard) (off : BitVec 19)
  | jmp (g : Guard) (a : Reg)
  | callr (g : Guard) (a : Reg)
  | ret (g : Guard)
  | pcmp (g : Guard) (pd : Pred) (a b : Reg) (c : PCond)
  | fcmp (g : Guard) (pd : Pred) (a b : Reg) (f : FFmt) (r : FRel)
  | pand (g : Guard) (pd qa qb : Pred)
  | por (g : Guard) (pd qa qb : Pred)
  | pxor (g : Guard) (pd qa qb : Pred)
  | pnot (g : Guard) (pd qa : Pred)
  | pmov (g : Guard) (pd qa : Pred)
  | pget (g : Guard) (d : Reg)
  | pset (g : Guard) (a : Reg)
  -- trap, return, registers, hints (R57, R67)
  | trap (g : Guard)
  | rte (g : Guard) (a : Reg)
  | rteNewPc (g : Guard) (a b : Reg)
  | bkpt (g : Guard)
  | csrr (g : Guard) (d : Reg) (n : BitVec 9)
  | csrw (g : Guard) (a : Reg) (n : BitVec 9)
  | nop
  | hint (g : Guard) (body : BitVec 20)
  -- integer (R60)
  | add (g : Guard) (d a b : Reg)
  | sub (g : Guard) (d a b : Reg)
  | and (g : Guard) (d a b : Reg)
  | or (g : Guard) (d a b : Reg)
  | xor (g : Guard) (d a b : Reg)
  | andn (g : Guard) (d a b : Reg)
  | shl (g : Guard) (d a b : Reg)
  | shrl (g : Guard) (d a b : Reg)
  | shra (g : Guard) (d a b : Reg)
  | rotl (g : Guard) (d a b : Reg)
  | min (g : Guard) (d a b : Reg)
  | mins (g : Guard) (d a b : Reg)
  | max (g : Guard) (d a b : Reg)
  | maxs (g : Guard) (d a b : Reg)
  | lea (g : Guard) (d a b : Reg) (sc : BitVec 2)
  | sel (g : Guard) (d a b : Reg) (p : Pred)
  | addi (g : Guard) (d a : Reg) (imm : BitVec 14)
  | andi (g : Guard) (d a : Reg) (imm : BitVec 12)
  | ori (g : Guard) (d a : Reg) (imm : BitVec 12)
  | xori (g : Guard) (d a : Reg) (imm : BitVec 12)
  | shli (g : Guard) (d a : Reg) (n : BitVec 6)
  | shrli (g : Guard) (d a : Reg) (n : BitVec 6)
  | shrai (g : Guard) (d a : Reg) (n : BitVec 6)
  | rotli (g : Guard) (d a : Reg) (n : BitVec 6)
  | lil (g : Guard) (d : Reg) (imm : BitVec 17)
  | lih (g : Guard) (d : Reg) (imm : BitVec 17)
  | mul (g : Guard) (d a b : Reg)
  | mulh (g : Guard) (d a b : Reg)
  | mulhs (g : Guard) (d a b : Reg)
  | div (g : Guard) (d a b : Reg)
  | divs (g : Guard) (d a b : Reg)
  | rem (g : Guard) (d a b : Reg)
  | rems (g : Guard) (d a b : Reg)
  | clz (g : Guard) (d a : Reg)
  | ctz (g : Guard) (d a : Reg)
  | popc (g : Guard) (d a : Reg)
  | bswap (g : Guard) (d a : Reg)
  | bext (g : Guard) (d a b : Reg)
  | bins (g : Guard) (d a b : Reg)
  -- short vector, float, conversion, permute (R61)
  | vadd (g : Guard) (d a b : Reg) (h : Shape)
  | vsub (g : Guard) (d a b : Reg) (h : Shape)
  | vmul (g : Guard) (d a b : Reg) (h : Shape)
  | vmin (g : Guard) (d a b : Reg) (sg : Bool) (h : Shape)
  | vmax (g : Guard) (d a b : Reg) (sg : Bool) (h : Shape)
  | vadds (g : Guard) (d a b : Reg) (sg : Bool) (h : Shape)
  | vsubs (g : Guard) (d a b : Reg) (sg : Bool) (h : Shape)
  | vdot (g : Guard) (d a b : Reg) (sg : Bool)
  | vred (g : Guard) (d a : Reg) (sg : Bool) (h : Shape)
  | fadd (g : Guard) (d a b : Reg) (f : FFmt)
  | fsub (g : Guard) (d a b : Reg) (f : FFmt)
  | fmul (g : Guard) (d a b : Reg) (f : FFmt)
  | fmin (g : Guard) (d a b : Reg) (f : FFmt)
  | fmax (g : Guard) (d a b : Reg) (f : FFmt)
  | fabs (g : Guard) (d a : Reg) (f : FFmt)
  | fneg (g : Guard) (d a : Reg) (f : FFmt)
  | fdiv (g : Guard) (d a b : Reg) (f : FFmt)
  | fsqrt (g : Guard) (d a : Reg) (f : FFmt)
  | ffma (g : Guard) (d a b : Reg) (f : FFmt)
  | frcp (g : Guard) (d a : Reg) (f : FFmt)
  | fexp2 (g : Guard) (d a : Reg) (f : FFmt)
  | flog2 (g : Guard) (d a : Reg) (f : FFmt)
  | cvt (g : Guard) (d a : Reg) (dst src : CFmt)
  | vshuf (g : Guard) (d a b : Reg) (h : Shape)
  | vpack (g : Guard) (d a b : Reg) (h : Shape)
  | vbcast (g : Guard) (d a : Reg) (h : Shape)
  -- memory and synchronisation (R62)
  | ld (g : Guard) (d base : Reg) (sz : LdSize) (hint : Hint) (disp : BitVec 8)
  | st (g : Guard) (d base : Reg) (sz : StSize) (hint : Hint) (disp : BitVec 8)
  | ldx (g : Guard) (d a b : Reg) (sz : LdSize) (hint : Hint)
  | stx (g : Guard) (d a b : Reg) (sz : StSize) (hint : Hint)
  | pref (g : Guard) (a : Reg)
  | cpf (g : Guard) (a : Reg)
  | cdrop (g : Guard) (a : Reg)
  | recon (g : Guard) (r : Reach)
  | pin (g : Guard) (a v : Reg)
  | unpin (g : Guard) (a : Reg)
  | take (g : Guard) (d a : Reg) (r : Reach)
  | put (g : Guard) (a v : Reg) (r : Reach)
  | peek (g : Guard) (d a : Reg) (r : Reach)
  | fill (g : Guard) (a v : Reg) (r : Reach)
  | empty (g : Guard) (d a : Reg) (r : Reach)
  | festat (g : Guard) (d a : Reg) (r : Reach)
  | amoAdd (g : Guard) (d a v : Reg) (r : Reach)
  | amoMin (g : Guard) (d a v : Reg) (r : Reach)
  | amoMax (g : Guard) (d a v : Reg) (r : Reach)
  | amoAnd (g : Guard) (d a v : Reg) (r : Reach)
  | amoOr (g : Guard) (d a v : Reg) (r : Reach)
  | amoXor (g : Guard) (d a v : Reg) (r : Reach)
  | amoSwap (g : Guard) (d a v : Reg) (r : Reach)
  | amoCas (g : Guard) (d a v : Reg) (r : Reach)
  | amoFadd (g : Guard) (d a v : Reg) (r : Reach)
  | moonAdd (g : Guard) (a v : Reg)
  | moonMin (g : Guard) (a v : Reg)
  | moonMax (g : Guard) (a v : Reg)
  | moonOr (g : Guard) (a v : Reg)
  | moonFadd (g : Guard) (a v : Reg)
  -- tiles, matrix, accumulator, rings, handles, attention, quantise (R63)
  | tadd (g : Guard) (d a b : Reg)
  | tsub (g : Guard) (d a b : Reg)
  | tmul (g : Guard) (d a b : Reg)
  | tmax (g : Guard) (d a b : Reg)
  | tscale (g : Guard) (d a b : Reg)
  | tscaleRdiv (g : Guard) (d a b : Reg)
  | texp (g : Guard) (d a : Reg)
  | trsum (g : Guard) (d a : Reg) (acc col : Bool)
  | trmax (g : Guard) (d a : Reg) (acc col : Bool)
  | tcvt (g : Guard) (d a : Reg)
  | ttrans (g : Guard) (d a : Reg)
  | tfill (g : Guard) (d a : Reg)
  | tget (g : Guard) (d a b : Reg)
  | tset (g : Guard) (d a b : Reg)
  | tmma (g : Guard) (a b : Reg) (k : BitVec 2)
  | tmmaZ (g : Guard) (a b : Reg) (k : BitVec 2)
  | accSt (g : Guard) (d : Reg) (ints : Bool) (q : BitVec 2)
  | accStRaw (g : Guard) (a : Reg)
  | accLd (g : Guard) (a : Reg) (q : BitVec 2)
  | accLdRaw (g : Guard) (a : Reg)
  | accZ (g : Guard)
  | accOwn (g : Guard) (d : Reg)
  | accOwnSet (g : Guard) (a : Reg)
  | ringPush (g : Guard) (d a : Reg)
  | ringPop (g : Guard) (d a : Reg)
  | ringStat (g : Guard) (d a : Reg)
  | hndNew (g : Guard) (d a b : Reg)
  | hndNewPair (g : Guard) (d a b : Reg)
  | hndFree (g : Guard) (a : Reg)
  | hndInfo (g : Guard) (d a : Reg)
  | attnQk (g : Guard) (a b : Reg)
  | attnSm (g : Guard) (d a b : Reg) (j : BitVec 4)
  | attnPv (g : Guard) (d a b : Reg)
  | attnClose (g : Guard) (d a : Reg) (n : BitVec 4)
  | kvMap (g : Guard) (d a b : Reg)
  | kvEvict (g : Guard) (d a b : Reg)
  | kvMass (g : Guard) (d a : Reg) (j : BitVec 4)
  | tq (g : Guard) (d a : Reg)
  | tqAuto (g : Guard) (d a : Reg)
  | tdq (g : Guard) (d a : Reg)
  -- engines (R64, R65); q1 is the queue bit of COPY and COPY.T, tri the .try form
  | copy (g : Guard) (a b c d : Reg) (q1 tri : Bool)
  | copyT (g : Guard) (a b c d : Reg) (q1 tri : Bool)
  | gath (g : Guard) (a b c d : Reg) (tri : Bool)
  | gathii (g : Guard) (a b c d : Reg) (tri : Bool)
  | scat (g : Guard) (a b c d : Reg) (tri : Bool)
  | graphLoad (g : Guard) (a b c d : Reg) (tri : Bool)
  | graphLoadF (g : Guard) (a b c d : Reg) (tri : Bool)
  | streamOpen (g : Guard) (a b c d : Reg) (tri : Bool)
  | streamClose (g : Guard) (a b c d : Reg) (tri : Bool)
  | collAr (g : Guard) (a b c d : Reg) (tri : Bool)
  | collBc (g : Guard) (a b c d : Reg) (tri : Bool)
  | qfence (g : Guard) (mask : BitVec 7)
  | waitc (g : Guard) (a : Reg)
  | wlim (g : Guard) (a : Reg)
  -- tasks (R66)
  | spawn (g : Guard) (off : BitVec 12)
  | spawnr (g : Guard) (a : Reg)
  | await (g : Guard) (d : Reg)
  | done (g : Guard)
  | frame (g : Guard) (a b : Reg)
  | yield (g : Guard)
  | migrate (g : Guard) (a : Reg)
  | dqPushRange (g : Guard) (d a b : Reg)
  | dqPushTask (g : Guard) (d a b : Reg)
  | dqPop (g : Guard) (d a : Reg)
  | dqSteal (g : Guard) (d a b : Reg)
  | dqSplit (g : Guard) (d a b : Reg)
  | dqCfg (g : Guard) (a : Reg)
  | dqCfgThaw (g : Guard)
  | dqCfgGet (g : Guard) (d : Reg)
  | stgPush (g : Guard) (a b : Reg) (r : Reach)
  | stgPop (g : Guard) (d a : Reg) (r : Reach)
  | stgStat (g : Guard) (d a : Reg)
  -- privileged system and debug (R67)
  | tlbW (g : Guard) (d a b : Reg)
  | tlbI (g : Guard) (d a b : Reg)
  | keyLd (g : Guard) (d a b : Reg)
  | keyClr (g : Guard) (d a : Reg)
  | slotSet (g : Guard) (d a b : Reg)
  | qwtSet (g : Guard) (a b : Reg)
  | arenaSet (g : Guard) (d a b : Reg)
  | halt (g : Guard) (d a : Reg)
  | haltQ (g : Guard) (d a : Reg)
  | resume (g : Guard) (d a : Reg)
  | step (g : Guard) (d a : Reg)
  -- what may take a place under way: stores that a replay port holds and changes of page ownership
  | hostStore (tag tenant : Nat) (payload : List W64)
  | peerAccess (req : PeerRequest)
  | biasFlip (tag tenant : Nat) (payload : List W64)
  | pageMove (pa dest dclu : Nat)
  -- events of an issue unit
  | slotTurn (unit : Nat)
  | rotationBoundary (unit : Nat)
  | matrixPeriod (unit : Nat)
  | matrixStepComplete (unit : Nat)
  | tileOpComplete (id : Nat)
  -- messages under way, by number
  | loadDelivery (id : Nat)
  | errorDelivery (id : Nat)
  | storeAcknowledge (id : Nat)
  | writeBackArrival (src : WbSource)
  | syncAccessAtHome (id : Nat)
  | deferredResend (id : Nat)
  | waitCancel (id : Nat)
  | waitLimitExpiry (ctx : Nat)
  | moonletPerform (id : Nat)
  | frameIncrement (id : Nat)
  | frameDecrement (id : Nat)
  | awaitAtHome (id : Nat)
  | awaitResend (id : Nat)
  | ringOpAtHome (id : Nat)
  | stageOpAtHome (id : Nat)
  | stealAtVictim (id : Nat)
  | stealResultDelivery (id : Nat) (w0 w1 : W64)
  | orreryClaim (id : Nat)
  | cometArrival (id : Nat)
  -- engines and the compactor, by command number
  | engineStart (id : Nat)
  | engineComplete (id : Nat)
  | engineHandBack (id : Nat)
  | collectivePerform (id : Nat)
  | attnClosePerform (id : Nat)
  | kvEvictPerform (id : Nat)
  | kvCompactMove (id : Nat)
  -- translation and keys
  | tsuMissMessage (id : Nat)
  | missResend (id : Nat)
  | tlbInvalidateComplete (id : Nat)
  | keySlotChange (id : Nat)
  | filled (id : Nat) (image : List W64)
  | contextLineArrival (id : Nat)
  | replayAbandon (port : Port)
  | contextL2Evict (cluster ctx : Nat)
  | notPresent (id : Nat)
  | protection (id : Nat)
  | defer (id : Nat)
  | openMessageLimit (unit slot : Nat)
  | hardwareThrottle (unit level : Nat)
  | patrolRead (read : Patrol)
  -- the host, peers and the management core
  | rootSpawn (tag tenant : Nat) (payload : List W64)
  | hostLoad (tag tenant : Nat) (payload : List W64)
  | invalidMessage (header : W64) (payload : List W64)
  | hello (tag : Nat) (payload : List W64)
  | attestation (tag : Nat) (payload : List W64)
  | keyStore (tag : Nat) (payload : List W64)
  | trackerReport (tag : Nat) (payload : List W64)
  | raiseMinimumVersion (tag : Nat) (payload : List W64)
  | unknownSubkind (tag : Nat) (payload : List W64)
  -- rows without encoding: register writes with an effect of their own (R311, R366, R378)
  | lnkTxw (g : Guard) (a : Reg)
  | lnkTxe (g : Guard) (a : Reg)
  | mieQclr (g : Guard) (a : Reg)
  | dqCfgPrivWrite (g : Guard) (a : Reg)
  -- start and soft errors
  | start (outcomes : List StartOutcome) (newFirmware : Bool)
  | deviceFault (code unit : Nat)
  | correctedSoftError (code die : Nat)
  | accumulatorUncorrectable (unit : Nat)
  | poisonWriteBack (array : CacheArray) (line : Nat)
  | contextLineUncorrectable (ctx : Nat) (lost : BitVec 16)
  | tileUncorrectable (tenant index : Nat)
  | dequeEntryUncorrectable (unit entry : Nat) (tenantLost : Bool)
  | tlbParityError (unit entry : Nat)
  | peerMessageForward (dest : Nat) (words : List W64)
  deriving DecidableEq, Repr

end Sys2Proof
end

