-- ==== Sys2Proof/WellFormed.lean ====
section
/-! DEFINITION. When an instruction has an encoding (R54, R57, R61, R67, R111, R330).  The fields' types hold every
other bound.  Events have no encoding and no check. -/

namespace Sys2Proof

/-- The CSR numbers that R378 assigns (R67: every other number is illegal). -/
def csrAssigned (n : BitVec 9) : Bool :=
  let k := n.toNat
  decide (k ≤ 0x007) || (decide (0x010 ≤ k) && decide (k ≤ 0x013)) || k == 0x018 ||
  (decide (0x040 ≤ k) && decide (k ≤ 0x048)) || (decide (0x04C ≤ k) && decide (k ≤ 0x04F)) || k == 0x060 ||
  (decide (0x080 ≤ k) && decide (k ≤ 0x083)) || (decide (0x0C0 ≤ k) && decide (k ≤ 0x0C5)) ||
  (decide (0x0E0 ≤ k) && decide (k ≤ 0x0E2)) || k == 0x100 || k == 0x101

/-- Whether an instruction's fields are ones its encoding admits: PCMP.LTZ and .LEZ have b = 0 (R111), CVT's formats
differ (R61), a CSR number is assigned (R67), the NOP word is not another hint (R57), and the deque instructions that
write two registers name two (R330). -/
def Instr.wellFormed : Instr → Bool
  | .pcmp _ _ _ b c => match c with
    | .ltz => b == 0#3
    | .lez => b == 0#3
    | _ => true
  | .cvt _ _ _ dst src => decide (dst ≠ src)
  | .csrr _ _ n => csrAssigned n
  | .csrw _ _ n => csrAssigned n
  | .hint g body => decide (g ≠ Guard.always) || body != 0#20
  | .dqPop _ d a => d != a
  | .dqSteal _ d a _ => d != a
  | .dqSplit _ d a _ => d != a
  | _ => true

/-- Whether an instruction is one of the 200 rows that have an encoding (R46). -/
def Instr.isEvent : Instr → Bool
  | .lnkTxw .. | .lnkTxe .. | .mieQclr .. | .dqCfgPrivWrite .. | .slotTurn .. | .openMessageLimit ..
  | .rotationBoundary .. | .hardwareThrottle .. | .matrixPeriod .. | .matrixStepComplete .. | .tileOpComplete ..
  | .loadDelivery .. | .errorDelivery .. | .storeAcknowledge .. | .writeBackArrival .. | .replayAbandon ..
  | .syncAccessAtHome .. | .deferredResend .. | .waitCancel .. | .waitLimitExpiry .. | .moonletPerform ..
  | .frameIncrement .. | .frameDecrement .. | .awaitAtHome .. | .awaitResend .. | .ringOpAtHome .. | .stageOpAtHome ..
  | .stealAtVictim .. | .stealResultDelivery .. | .orreryClaim .. | .contextL2Evict .. | .cometArrival ..
  | .engineStart .. | .engineComplete .. | .engineHandBack .. | .collectivePerform .. | .attnClosePerform ..
  | .kvEvictPerform .. | .kvCompactMove .. | .tsuMissMessage .. | .missResend .. | .filled .. | .notPresent ..
  | .protection .. | .defer .. | .tlbInvalidateComplete .. | .keySlotChange .. | .patrolRead .. | .rootSpawn ..
  | .hostLoad .. | .hostStore .. | .invalidMessage .. | .biasFlip .. | .peerAccess .. | .hello .. | .attestation ..
  | .keyStore .. | .trackerReport .. | .raiseMinimumVersion .. | .unknownSubkind .. | .pageMove .. | .start ..
  | .deviceFault .. | .correctedSoftError .. | .accumulatorUncorrectable .. | .poisonWriteBack ..
  | .contextLineUncorrectable .. | .tileUncorrectable .. | .dequeEntryUncorrectable .. | .tlbParityError ..
  | .contextLineArrival .. | .peerMessageForward .. => true
  | _ => false

end Sys2Proof
end

