-- ==== Sys2Proof/Decode.lean ====
section
/-! DEFINITION. Decoding and encoding of the 32-bit instruction words (03_encoding R46-R67, with the field tables of the
chapters those rules name).  decode answers none exactly for the words that R51 step 3 traps with cause 0x01. -/

namespace Sys2Proof

/-! ## Fields (R46, R52) -/

/-- MAJOR, bits [31:26]. -/
def wMajor (w : W32) : BitVec 6 := w.extractLsb' 26 6
/-- GS and GP, bits [25] and [24:20]. -/
def wGuard (w : W32) : Guard := ⟨w.extractLsb' 25 1 == 1#1, w.extractLsb' 20 5⟩
/-- Bits [19:17]. -/
def wFd (w : W32) : Reg := w.extractLsb' 17 3
/-- Bits [16:14]. -/
def wFa (w : W32) : Reg := w.extractLsb' 14 3
/-- Bits [13:11]. -/
def wFb (w : W32) : Reg := w.extractLsb' 11 3
/-- Bits [10:8]: the fourth register of the E format, the reach of the S format, x of the K format. -/
def wFx (w : W32) : Reg := w.extractLsb' 8 3

/-! ## Suffix codes -/

def PCond.code : PCond → BitVec 5
  | .eq => 0 | .ne => 1 | .lt => 2 | .le => 3 | .ltz => 4 | .lez => 5 | .b => 6 | .be => 7
def PCond.ofCode (c : BitVec 5) : Option PCond :=
  match c.toNat with
  | 0 => some .eq | 1 => some .ne | 2 => some .lt | 3 => some .le | 4 => some .ltz | 5 => some .lez
  | 6 => some .b | 7 => some .be | _ => none
def FRel.code : FRel → BitVec 3
  | .eq => 0 | .lt => 1 | .le => 2 | .un => 3
def FRel.ofCode (c : BitVec 3) : Option FRel :=
  match c.toNat with
  | 0 => some .eq | 1 => some .lt | 2 => some .le | 3 => some .un | _ => none
def FFmt.code : FFmt → BitVec 2
  | .f32 => 0 | .bf => 1 | .h => 2
def FFmt.ofCode (c : BitVec 2) : Option FFmt :=
  match c.toNat with
  | 0 => some .f32 | 1 => some .bf | 2 => some .h | _ => none
def Shape.code : Shape → BitVec 2
  | .b8 => 0 | .h16 => 1 | .w32 => 2
def Shape.ofCode (c : BitVec 2) : Option Shape :=
  match c.toNat with
  | 0 => some .b8 | 1 => some .h16 | 2 => some .w32 | _ => none
def CFmt.code : CFmt → BitVec 3
  | .f32 => 0 | .bf => 1 | .h => 2 | .i32 => 3 | .i16 => 4 | .i8 => 5
def CFmt.ofCode (c : BitVec 3) : Option CFmt :=
  match c.toNat with
  | 0 => some .f32 | 1 => some .bf | 2 => some .h | 3 => some .i32 | 4 => some .i16 | 5 => some .i8 | _ => none
def LdSize.code : LdSize → BitVec 3
  | .bz => 0 | .hz => 1 | .wz => 2 | .d => 3 | .bs => 4 | .hs => 5 | .ws => 6
def LdSize.ofCode (c : BitVec 3) : Option LdSize :=
  match c.toNat with
  | 0 => some .bz | 1 => some .hz | 2 => some .wz | 3 => some .d | 4 => some .bs | 5 => some .hs | 6 => some .ws
  | _ => none
def StSize.code : StSize → BitVec 3
  | .b => 0 | .h => 1 | .w => 2 | .d => 3
def StSize.ofCode (c : BitVec 3) : Option StSize :=
  match c.toNat with
  | 0 => some .b | 1 => some .h | 2 => some .w | 3 => some .d | _ => none
def Reach.code : Reach → BitVec 3
  | .self => 0 | .unit => 1 | .cluster => 2 | .die => 3 | .device => 4 | .domain => 5 | .system => 6
def Reach.ofCode (c : BitVec 3) : Option Reach :=
  match c.toNat with
  | 0 => some .self | 1 => some .unit | 2 => some .cluster | 3 => some .die | 4 => some .device | 5 => some .domain
  | 6 => some .system | _ => none

/-! ## Decoding, one function a major -/

/-- Accepts an instruction whose unused fields are zero (R54). -/
def accept (ok : Bool) (i : Instr) : Option Instr := if ok then some i else none

/-- Majors 0x01 and 0x02 (R59, R108, R109). -/
def decodeControl (w : W32) (g : Guard) : Option Instr :=
  if (wMajor w) = 0x01#6 then
    if w.extractLsb' 0 1 = 0#1 then some (.br g (w.extractLsb' 1 19)) else some (.call g (w.extractLsb' 1 19))
  else
    match (w.extractLsb' 0 11).toNat with
    | 0 => accept ((wFd w) == 0#3 && (wFb w) == 0#3) (.jmp g (wFa w))
    | 1 => accept ((wFd w) == 0#3 && (wFb w) == 0#3) (.callr g (wFa w))
    | 2 => accept ((wFd w) == 0#3 && (wFa w) == 0#3 && (wFb w) == 0#3) (.ret g)
    | _ => none

/-- Major 0x03 (R59, R111-R114). -/
def decodePred (w : W32) (g : Guard) : Option Instr :=
  let pd : Pred := w.extractLsb' 15 5
  let a : Reg := w.extractLsb' 12 3
  let b : Reg := w.extractLsb' 9 3
  let qa : Pred := w.extractLsb' 10 5
  let qb : Pred := w.extractLsb' 4 5
  match (w.extractLsb' 0 4).toNat with
  | 0 => match PCond.ofCode (w.extractLsb' 4 5) with
    | some c => accept (Instr.pcmp g pd a b c).wellFormed (.pcmp g pd a b c)
    | none => none
  | 1 => match FFmt.ofCode (w.extractLsb' 7 2), FRel.ofCode (w.extractLsb' 4 3) with
    | some f, some r => some (.fcmp g pd a b f r)
    | _, _ => none
  | 2 => accept (w.extractLsb' 9 1 == 0#1) (.pand g pd qa qb)
  | 3 => accept (w.extractLsb' 9 1 == 0#1) (.por g pd qa qb)
  | 4 => accept (w.extractLsb' 9 1 == 0#1) (.pxor g pd qa qb)
  | 5 => accept (w.extractLsb' 9 1 == 0#1 && qb == 0#5) (.pnot g pd qa)
  | 6 => accept (w.extractLsb' 9 1 == 0#1 && qb == 0#5) (.pmov g pd qa)
  | 7 => accept (pd == 0#5 && w.extractLsb' 4 8 == 0#8) (.pget g a)
  | 8 => accept (pd == 0#5 && w.extractLsb' 4 8 == 0#8) (.pset g a)
  | _ => none

/-- Major 0x04 (R67, R373, R375). -/
def decodeSystem (w : W32) (g : Guard) : Option Instr :=
  let n : BitVec 9 := w.extractLsb' 0 9
  if w.extractLsb' 10 1 = 1#1 then
    if w.extractLsb' 9 1 = 0#1 then accept ((wFa w) == 0#3 && (wFb w) == 0#3 && csrAssigned n) (.csrr g (wFd w) n)
    else accept ((wFd w) == 0#3 && (wFb w) == 0#3 && csrAssigned n) (.csrw g (wFa w) n)
  else
    match (w.extractLsb' 0 11).toNat with
    | 0 => accept ((wFd w) == 0#3 && (wFa w) == 0#3 && (wFb w) == 0#3) (.trap g)
    | 1 => accept ((wFd w) == 0#3 && (wFb w) == 0#3) (.rte g (wFa w))
    | 2 => accept ((wFd w) == 0#3) (.rteNewPc g (wFa w) (wFb w))
    | 3 => accept ((wFd w) == 0#3 && (wFa w) == 0#3 && (wFb w) == 0#3) (.bkpt g)
    | _ => none

/-- Major 0x08 (R60, R115). -/
def decodeInt (w : W32) (g : Guard) : Option Instr :=
  match (w.extractLsb' 0 11).toNat with
  | 0x000 => some (.add g (wFd w) (wFa w) (wFb w))
  | 0x001 => some (.sub g (wFd w) (wFa w) (wFb w))
  | 0x002 => some (.and g (wFd w) (wFa w) (wFb w))
  | 0x003 => some (.or g (wFd w) (wFa w) (wFb w))
  | 0x004 => some (.xor g (wFd w) (wFa w) (wFb w))
  | 0x005 => some (.andn g (wFd w) (wFa w) (wFb w))
  | 0x006 => some (.shl g (wFd w) (wFa w) (wFb w))
  | 0x007 => some (.shrl g (wFd w) (wFa w) (wFb w))
  | 0x008 => some (.shra g (wFd w) (wFa w) (wFb w))
  | 0x009 => some (.rotl g (wFd w) (wFa w) (wFb w))
  | 0x00A => some (.min g (wFd w) (wFa w) (wFb w))
  | 0x00B => some (.mins g (wFd w) (wFa w) (wFb w))
  | 0x00C => some (.max g (wFd w) (wFa w) (wFb w))
  | 0x00D => some (.maxs g (wFd w) (wFa w) (wFb w))
  | _ =>
    if w.extractLsb' 2 9 = 0x004#9 then some (.lea g (wFd w) (wFa w) (wFb w) (w.extractLsb' 0 2))
    else if w.extractLsb' 5 6 = 0x01#6 then some (.sel g (wFd w) (wFa w) (wFb w) (w.extractLsb' 0 5))
    else none

/-- Majors 0x0A and 0x0B (R60, R116, R117). -/
def decodeImm (w : W32) (g : Guard) : Option Instr :=
  if (wMajor w) = 0x0A#6 then
    match (w.extractLsb' 12 2).toNat with
    | 0 => some (.andi g (wFd w) (wFa w) (w.extractLsb' 0 12))
    | 1 => some (.ori g (wFd w) (wFa w) (w.extractLsb' 0 12))
    | 2 => some (.xori g (wFd w) (wFa w) (w.extractLsb' 0 12))
    | _ => none
  else if w.extractLsb' 6 6 ≠ 0#6 then none
  else
    match (w.extractLsb' 12 2).toNat with
    | 0 => some (.shli g (wFd w) (wFa w) (w.extractLsb' 0 6))
    | 1 => some (.shrli g (wFd w) (wFa w) (w.extractLsb' 0 6))
    | 2 => some (.shrai g (wFd w) (wFa w) (w.extractLsb' 0 6))
    | _ => some (.rotli g (wFd w) (wFa w) (w.extractLsb' 0 6))

/-- Majors 0x0E and 0x0F (R60, R119, R121, R122). -/
def decodeMulBits (w : W32) (g : Guard) : Option Instr :=
  if (wMajor w) = 0x0E#6 then
    match (w.extractLsb' 0 11).toNat with
    | 0 => some (.mul g (wFd w) (wFa w) (wFb w))
    | 1 => some (.mulh g (wFd w) (wFa w) (wFb w))
    | 2 => some (.mulhs g (wFd w) (wFa w) (wFb w))
    | 3 => some (.div g (wFd w) (wFa w) (wFb w))
    | 4 => some (.divs g (wFd w) (wFa w) (wFb w))
    | 5 => some (.rem g (wFd w) (wFa w) (wFb w))
    | 6 => some (.rems g (wFd w) (wFa w) (wFb w))
    | _ => none
  else
    match (w.extractLsb' 0 11).toNat with
    | 0 => accept ((wFb w) == 0#3) (.clz g (wFd w) (wFa w))
    | 1 => accept ((wFb w) == 0#3) (.ctz g (wFd w) (wFa w))
    | 2 => accept ((wFb w) == 0#3) (.popc g (wFd w) (wFa w))
    | 3 => accept ((wFb w) == 0#3) (.bswap g (wFd w) (wFa w))
    | 4 => some (.bext g (wFd w) (wFa w) (wFb w))
    | 5 => some (.bins g (wFd w) (wFa w) (wFb w))
    | _ => none

/-- Major 0x10 (R61, R123). -/
def decodeVec (w : W32) (g : Guard) : Option Instr :=
  let sg : Bool := w.extractLsb' 2 1 == 1#1
  match Shape.ofCode (w.extractLsb' 0 2) with
  | none => none
  | some h =>
    match (w.extractLsb' 3 8).toNat with
    | 0 => accept (!sg) (.vadd g (wFd w) (wFa w) (wFb w) h)
    | 1 => accept (!sg) (.vsub g (wFd w) (wFa w) (wFb w) h)
    | 2 => accept (!sg) (.vmul g (wFd w) (wFa w) (wFb w) h)
    | 3 => some (.vmin g (wFd w) (wFa w) (wFb w) sg h)
    | 4 => some (.vmax g (wFd w) (wFa w) (wFb w) sg h)
    | 5 => some (.vadds g (wFd w) (wFa w) (wFb w) sg h)
    | 6 => some (.vsubs g (wFd w) (wFa w) (wFb w) sg h)
    | 7 => accept (decide (h = .b8)) (.vdot g (wFd w) (wFa w) (wFb w) sg)
    | 8 => accept ((wFb w) == 0#3) (.vred g (wFd w) (wFa w) sg h)
    | _ => none

/-- Majors 0x11, 0x12 and 0x13 (R61, R127, R128, R131, R132). -/
def decodeFloat (w : W32) (g : Guard) : Option Instr :=
  match FFmt.ofCode (w.extractLsb' 0 2) with
  | none => none
  | some f =>
    let op := (w.extractLsb' 2 9).toNat
    if (wMajor w) = 0x11#6 then
      match op with
      | 0 => some (.fadd g (wFd w) (wFa w) (wFb w) f)
      | 1 => some (.fsub g (wFd w) (wFa w) (wFb w) f)
      | 2 => some (.fmul g (wFd w) (wFa w) (wFb w) f)
      | 3 => some (.fmin g (wFd w) (wFa w) (wFb w) f)
      | 4 => some (.fmax g (wFd w) (wFa w) (wFb w) f)
      | 5 => accept ((wFb w) == 0#3) (.fabs g (wFd w) (wFa w) f)
      | 6 => accept ((wFb w) == 0#3) (.fneg g (wFd w) (wFa w) f)
      | 7 => some (.fdiv g (wFd w) (wFa w) (wFb w) f)
      | 8 => accept ((wFb w) == 0#3) (.fsqrt g (wFd w) (wFa w) f)
      | _ => none
    else if (wMajor w) = 0x12#6 then
      accept (op == 0) (.ffma g (wFd w) (wFa w) (wFb w) f)
    else
      match op with
      | 0 => accept ((wFb w) == 0#3) (.frcp g (wFd w) (wFa w) f)
      | 1 => accept ((wFb w) == 0#3) (.fexp2 g (wFd w) (wFa w) f)
      | 2 => accept ((wFb w) == 0#3) (.flog2 g (wFd w) (wFa w) f)
      | _ => none

/-- Majors 0x14 and 0x15 (R61, R133, R135). -/
def decodeCvtPermute (w : W32) (g : Guard) : Option Instr :=
  if (wMajor w) = 0x14#6 then
    match CFmt.ofCode (w.extractLsb' 4 3), CFmt.ofCode (w.extractLsb' 0 3) with
    | some dst, some src =>
      accept ((wFb w) == 0#3 && w.extractLsb' 7 4 == 0#4 && w.extractLsb' 3 1 == 0#1 && decide (dst ≠ src))
        (.cvt g (wFd w) (wFa w) dst src)
    | _, _ => none
  else
    match Shape.ofCode (w.extractLsb' 0 2) with
    | none => none
    | some h =>
      match (w.extractLsb' 2 9).toNat with
      | 0 => some (.vshuf g (wFd w) (wFa w) (wFb w) h)
      | 1 => some (.vpack g (wFd w) (wFa w) (wFb w) h)
      | 2 => accept ((wFb w) == 0#3) (.vbcast g (wFd w) (wFa w) h)
      | _ => none

/-- Majors 0x18 to 0x1B (R62, R249, R252). -/
def decodeLoadStore (w : W32) (g : Guard) : Option Instr :=
  let hintM : Hint := ⟨w.extractLsb' 9 2, w.extractLsb' 8 1 == 1#1⟩
  let hintX : Hint := ⟨w.extractLsb' 1 2, w.extractLsb' 0 1 == 1#1⟩
  if (wMajor w) = 0x18#6 then
    (LdSize.ofCode (wFb w)).map fun sz => .ld g (wFd w) (wFa w) sz hintM (w.extractLsb' 0 8)
  else if (wMajor w) = 0x19#6 then
    (StSize.ofCode (wFb w)).map fun sz => .st g (wFd w) (wFa w) sz hintM (w.extractLsb' 0 8)
  else if w.extractLsb' 6 5 ≠ 0#5 then none
  else if (wMajor w) = 0x1A#6 then
    (LdSize.ofCode (w.extractLsb' 3 3)).map fun sz => .ldx g (wFd w) (wFa w) (wFb w) sz hintX
  else
    (StSize.ofCode (w.extractLsb' 3 3)).map fun sz => .stx g (wFd w) (wFa w) (wFb w) sz hintX

/-- Majors 0x1C, 0x20, 0x21 and 0x22 (R62, R254, R260, R266, R269). -/
def decodeSync (w : W32) (g : Guard) : Option Instr :=
  let f := (w.extractLsb' 0 8).toNat
  if (wMajor w) = 0x1C#6 then
    match f with
    | 0 => accept ((wFd w) == 0#3 && (wFb w) == 0#3 && (wFx w) == 0#3) (.pref g (wFa w))
    | 1 => accept ((wFd w) == 0#3 && (wFb w) == 0#3 && (wFx w) == 0#3) (.cpf g (wFa w))
    | 2 => accept ((wFd w) == 0#3 && (wFb w) == 0#3 && (wFx w) == 0#3) (.cdrop g (wFa w))
    | 3 => match Reach.ofCode (wFx w) with
      | some r => accept ((wFd w) == 0#3 && (wFa w) == 0#3 && (wFb w) == 0#3) (.recon g r)
      | none => none
    | 4 => accept ((wFd w) == 0#3 && (wFx w) == 0#3) (.pin g (wFa w) (wFb w))
    | 5 => accept ((wFd w) == 0#3 && (wFb w) == 0#3 && (wFx w) == 0#3) (.unpin g (wFa w))
    | _ => none
  else if (wMajor w) = 0x22#6 then
    if (wFd w) == 0#3 && (wFx w) == 0#3 then
      match f with
      | 0 => some (.moonAdd g (wFa w) (wFb w))
      | 1 => some (.moonMin g (wFa w) (wFb w))
      | 2 => some (.moonMax g (wFa w) (wFb w))
      | 3 => some (.moonOr g (wFa w) (wFb w))
      | 4 => some (.moonFadd g (wFa w) (wFb w))
      | _ => none
    else none
  else
    match Reach.ofCode (wFx w) with
    | none => none
    | some r =>
      if (wMajor w) = 0x20#6 then
        match f with
        | 0 => accept ((wFb w) == 0#3) (.take g (wFd w) (wFa w) r)
        | 1 => accept ((wFd w) == 0#3) (.put g (wFa w) (wFb w) r)
        | 2 => accept ((wFb w) == 0#3) (.peek g (wFd w) (wFa w) r)
        | 3 => accept ((wFd w) == 0#3) (.fill g (wFa w) (wFb w) r)
        | 4 => accept ((wFb w) == 0#3) (.empty g (wFd w) (wFa w) r)
        | 5 => accept ((wFb w) == 0#3) (.festat g (wFd w) (wFa w) r)
        | _ => none
      else
        match f with
        | 0 => some (.amoAdd g (wFd w) (wFa w) (wFb w) r)
        | 1 => some (.amoMin g (wFd w) (wFa w) (wFb w) r)
        | 2 => some (.amoMax g (wFd w) (wFa w) (wFb w) r)
        | 3 => some (.amoAnd g (wFd w) (wFa w) (wFb w) r)
        | 4 => some (.amoOr g (wFd w) (wFa w) (wFb w) r)
        | 5 => some (.amoXor g (wFd w) (wFa w) (wFb w) r)
        | 6 => some (.amoSwap g (wFd w) (wFa w) (wFb w) r)
        | 7 => some (.amoCas g (wFd w) (wFa w) (wFb w) r)
        | 8 => some (.amoFadd g (wFd w) (wFa w) (wFb w) r)
        | _ => none

/-- Majors 0x28 and 0x29 (R63, R147, R157). -/
def decodeTile (w : W32) (g : Guard) : Option Instr :=
  let sel := w.extractLsb' 7 4
  let f := (w.extractLsb' 0 7).toNat
  if (wMajor w) = 0x28#6 then
    match f with
    | 0x0 => accept (sel == 0#4) (.tadd g (wFd w) (wFa w) (wFb w))
    | 0x1 => accept (sel == 0#4) (.tsub g (wFd w) (wFa w) (wFb w))
    | 0x2 => accept (sel == 0#4) (.tmul g (wFd w) (wFa w) (wFb w))
    | 0x3 => accept (sel == 0#4) (.tmax g (wFd w) (wFa w) (wFb w))
    | 0x4 => if sel = 0#4 then some (.tscale g (wFd w) (wFa w) (wFb w))
             else accept (sel == 1#4) (.tscaleRdiv g (wFd w) (wFa w) (wFb w))
    | 0x5 => accept (sel == 0#4 && (wFb w) == 0#3) (.texp g (wFd w) (wFa w))
    | 0x6 => accept (w.extractLsb' 9 2 == 0#2 && (wFb w) == 0#3)
               (.trsum g (wFd w) (wFa w) (w.extractLsb' 8 1 == 1#1) (w.extractLsb' 7 1 == 1#1))
    | 0x7 => accept (w.extractLsb' 9 2 == 0#2 && (wFb w) == 0#3)
               (.trmax g (wFd w) (wFa w) (w.extractLsb' 8 1 == 1#1) (w.extractLsb' 7 1 == 1#1))
    | 0x8 => accept (sel == 0#4 && (wFb w) == 0#3) (.tcvt g (wFd w) (wFa w))
    | 0x9 => accept (sel == 0#4 && (wFb w) == 0#3) (.ttrans g (wFd w) (wFa w))
    | 0xA => accept (sel == 0#4 && (wFb w) == 0#3) (.tfill g (wFd w) (wFa w))
    | 0xB => accept (sel == 0#4) (.tget g (wFd w) (wFa w) (wFb w))
    | 0xC => accept (sel == 0#4) (.tset g (wFd w) (wFa w) (wFb w))
    | _ => none
  else
    match f with
    | 0 => accept ((wFd w) == 0#3 && w.extractLsb' 9 2 == 0#2) (.tmma g (wFa w) (wFb w) (w.extractLsb' 7 2))
    | 1 => accept ((wFd w) == 0#3 && w.extractLsb' 9 2 == 0#2) (.tmmaZ g (wFa w) (wFb w) (w.extractLsb' 7 2))
    | _ => none

/-- Majors 0x2A and 0x2B (R63, R162, R168). -/
def decodeAccRing (w : W32) (g : Guard) : Option Instr :=
  let sel := w.extractLsb' 7 4
  let f := (w.extractLsb' 0 7).toNat
  if (wMajor w) = 0x2A#6 then
    match f with
    | 0 => if w.extractLsb' 10 1 = 1#1 then accept (sel == 8#4 && (wFd w) == 0#3 && (wFb w) == 0#3) (.accStRaw g (wFa w))
           else accept ((wFa w) == 0#3 && (wFb w) == 0#3) (.accSt g (wFd w) (w.extractLsb' 9 1 == 1#1) (w.extractLsb' 7 2))
    | 1 => if w.extractLsb' 10 1 = 1#1 then accept (sel == 8#4 && (wFd w) == 0#3 && (wFb w) == 0#3) (.accLdRaw g (wFa w))
           else accept (w.extractLsb' 9 1 == 0#1 && (wFd w) == 0#3 && (wFb w) == 0#3) (.accLd g (wFa w) (w.extractLsb' 7 2))
    | 2 => accept (sel == 0#4 && (wFd w) == 0#3 && (wFa w) == 0#3 && (wFb w) == 0#3) (.accZ g)
    | 3 => if sel = 0#4 then accept ((wFa w) == 0#3 && (wFb w) == 0#3) (.accOwn g (wFd w))
           else accept (sel == 1#4 && (wFd w) == 0#3 && (wFb w) == 0#3) (.accOwnSet g (wFa w))
    | _ => none
  else
    match f with
    | 0 => accept (sel == 0#4 && (wFb w) == 0#3) (.ringPush g (wFd w) (wFa w))
    | 1 => accept (sel == 0#4 && (wFb w) == 0#3) (.ringPop g (wFd w) (wFa w))
    | 2 => accept (sel == 0#4 && (wFb w) == 0#3) (.ringStat g (wFd w) (wFa w))
    | 3 => if sel = 0#4 then some (.hndNew g (wFd w) (wFa w) (wFb w))
           else accept (sel == 1#4) (.hndNewPair g (wFd w) (wFa w) (wFb w))
    | 4 => accept (sel == 0#4 && (wFd w) == 0#3 && (wFb w) == 0#3) (.hndFree g (wFa w))
    | 5 => accept (sel == 0#4 && (wFb w) == 0#3) (.hndInfo g (wFd w) (wFa w))
    | _ => none

/-- Majors 0x2C and 0x2D (R63, R155, R177). -/
def decodeAttnQuant (w : W32) (g : Guard) : Option Instr :=
  let sel := w.extractLsb' 7 4
  let f := (w.extractLsb' 0 7).toNat
  if (wMajor w) = 0x2C#6 then
    match f with
    | 0 => accept (sel == 0#4 && (wFd w) == 0#3) (.attnQk g (wFa w) (wFb w))
    | 1 => some (.attnSm g (wFd w) (wFa w) (wFb w) sel)
    | 2 => accept (sel == 0#4) (.attnPv g (wFd w) (wFa w) (wFb w))
    | 3 => accept ((wFb w) == 0#3) (.attnClose g (wFd w) (wFa w) sel)
    | 4 => accept (sel == 0#4) (.kvMap g (wFd w) (wFa w) (wFb w))
    | 5 => accept (sel == 0#4) (.kvEvict g (wFd w) (wFa w) (wFb w))
    | 6 => accept ((wFb w) == 0#3) (.kvMass g (wFd w) (wFa w) sel)
    | _ => none
  else
    match f with
    | 0 => if sel = 0#4 then accept ((wFb w) == 0#3) (.tq g (wFd w) (wFa w))
           else accept (sel == 1#4 && (wFb w) == 0#3) (.tqAuto g (wFd w) (wFa w))
    | 1 => accept (sel == 0#4 && (wFb w) == 0#3) (.tdq g (wFd w) (wFa w))
    | _ => none

/-- Majors 0x30 to 0x33 (R64). -/
def decodeEngine (w : W32) (g : Guard) : Option Instr :=
  let q := (w.extractLsb' 5 3).toNat
  let tri : Bool := w.extractLsb' 4 1 == 1#1
  let f := (w.extractLsb' 0 4).toNat
  let q1 : Bool := w.extractLsb' 5 1 == 1#1
  if (wMajor w) = 0x30#6 then
    if w.extractLsb' 6 2 ≠ 0#2 then none else
    match f with
    | 0 => some (.copy g (wFd w) (wFa w) (wFb w) (wFx w) q1 tri)
    | 1 => some (.copyT g (wFd w) (wFa w) (wFb w) (wFx w) q1 tri)
    | _ => none
  else if (wMajor w) = 0x31#6 then
    match f with
    | 0 => accept (q == 2) (.gath g (wFd w) (wFa w) (wFb w) (wFx w) tri)
    | 1 => accept (q == 2) (.gathii g (wFd w) (wFa w) (wFb w) (wFx w) tri)
    | 2 => accept (q == 2) (.scat g (wFd w) (wFa w) (wFb w) (wFx w) tri)
    | _ => none
  else if (wMajor w) = 0x32#6 then
    match f with
    | 0 => accept (q == 3) (.graphLoad g (wFd w) (wFa w) (wFb w) (wFx w) tri)
    | 1 => accept (q == 3) (.graphLoadF g (wFd w) (wFa w) (wFb w) (wFx w) tri)
    | 2 => accept (q == 3) (.streamOpen g (wFd w) (wFa w) (wFb w) (wFx w) tri)
    | 3 => accept (q == 3) (.streamClose g (wFd w) (wFa w) (wFb w) (wFx w) tri)
    | _ => none
  else
    match f with
    | 0 => accept (q == 4) (.collAr g (wFd w) (wFa w) (wFb w) (wFx w) tri)
    | 1 => accept (q == 4) (.collBc g (wFd w) (wFa w) (wFb w) (wFx w) tri)
    | _ => none

/-- Major 0x34 (R65, R287). -/
def decodeFence (w : W32) (g : Guard) : Option Instr :=
  match (w.extractLsb' 8 3).toNat with
  | 0 => accept ((wFd w) == 0#3 && (wFa w) == 0#3 && (wFb w) == 0#3 && w.extractLsb' 7 1 == 0#1) (.qfence g (w.extractLsb' 0 7))
  | 1 => accept ((wFd w) == 0#3 && (wFb w) == 0#3 && w.extractLsb' 0 8 == 0#8) (.waitc g (wFa w))
  | 2 => accept ((wFd w) == 0#3 && (wFb w) == 0#3 && w.extractLsb' 0 8 == 0#8) (.wlim g (wFa w))
  | _ => none

/-- Majors 0x38, 0x39 and 0x3A (R66, R319, R330, R343). -/
def decodeTask (w : W32) (g : Guard) : Option Instr :=
  let f := (w.extractLsb' 0 8).toNat
  if (wMajor w) = 0x38#6 then
    match f with
    | 0 => some (.spawn g (w.extractLsb' 8 12))
    | 1 => accept ((wFd w) == 0#3 && (wFb w) == 0#3 && (wFx w) == 0#3) (.spawnr g (wFa w))
    | 2 => accept ((wFa w) == 0#3 && (wFb w) == 0#3 && (wFx w) == 0#3) (.await g (wFd w))
    | 3 => accept ((wFd w) == 0#3 && (wFa w) == 0#3 && (wFb w) == 0#3 && (wFx w) == 0#3) (.done g)
    | 4 => accept ((wFd w) == 0#3 && (wFx w) == 0#3) (.frame g (wFa w) (wFb w))
    | 5 => accept ((wFd w) == 0#3 && (wFa w) == 0#3 && (wFb w) == 0#3 && (wFx w) == 0#3) (.yield g)
    | 6 => accept ((wFd w) == 0#3 && (wFb w) == 0#3 && (wFx w) == 0#3) (.migrate g (wFa w))
    | _ => none
  else if (wMajor w) = 0x39#6 then
    match f with
    | 0 => if (wFx w) = 1#3 then some (.dqPushRange g (wFd w) (wFa w) (wFb w))
           else accept ((wFx w) == 2#3) (.dqPushTask g (wFd w) (wFa w) (wFb w))
    | 1 => accept ((wFb w) == 0#3 && (wFx w) == 0#3 && (wFd w) != (wFa w)) (.dqPop g (wFd w) (wFa w))
    | 2 => accept ((wFx w) == 0#3 && (wFd w) != (wFa w)) (.dqSteal g (wFd w) (wFa w) (wFb w))
    | 3 => accept ((wFx w) == 0#3 && (wFd w) != (wFa w)) (.dqSplit g (wFd w) (wFa w) (wFb w))
    | 4 => match (wFx w).toNat with
      | 0 => accept ((wFd w) == 0#3 && (wFb w) == 0#3) (.dqCfg g (wFa w))
      | 1 => accept ((wFd w) == 0#3 && (wFa w) == 0#3 && (wFb w) == 0#3) (.dqCfgThaw g)
      | 2 => accept ((wFa w) == 0#3 && (wFb w) == 0#3) (.dqCfgGet g (wFd w))
      | _ => none
    | _ => none
  else
    match f with
    | 0 => match Reach.ofCode (wFx w) with
      | some r => accept ((wFd w) == 0#3) (.stgPush g (wFa w) (wFb w) r)
      | none => none
    | 1 => match Reach.ofCode (wFx w) with
      | some r => accept ((wFb w) == 0#3) (.stgPop g (wFd w) (wFa w) r)
      | none => none
    | 2 => accept ((wFb w) == 0#3 && (wFx w) == 0#3) (.stgStat g (wFd w) (wFa w))
    | _ => none

/-- Majors 0x3C and 0x3D (R67, R380, R386). -/
def decodePriv (w : W32) (g : Guard) : Option Instr :=
  let f := (w.extractLsb' 0 11).toNat
  if (wMajor w) = 0x3C#6 then
    match f with
    | 0 => some (.tlbW g (wFd w) (wFa w) (wFb w))
    | 1 => some (.tlbI g (wFd w) (wFa w) (wFb w))
    | 2 => some (.keyLd g (wFd w) (wFa w) (wFb w))
    | 3 => accept ((wFb w) == 0#3) (.keyClr g (wFd w) (wFa w))
    | 4 => some (.slotSet g (wFd w) (wFa w) (wFb w))
    | 5 => accept ((wFd w) == 0#3) (.qwtSet g (wFa w) (wFb w))
    | 6 => some (.arenaSet g (wFd w) (wFa w) (wFb w))
    | _ => none
  else
    match f with
    | 0 => accept ((wFb w) == 0#3) (.halt g (wFd w) (wFa w))
    | 1 => accept ((wFb w) == 0#3) (.haltQ g (wFd w) (wFa w))
    | 2 => accept ((wFb w) == 0#3) (.resume g (wFd w) (wFa w))
    | 3 => accept ((wFb w) == 0#3) (.step g (wFd w) (wFa w))
    | _ => none

/-- The instruction a word holds, or none where it traps with cause 0x01 (R5, R54-R58). -/
def decode (w : W32) : Option Instr :=
  let g := (wGuard w)
  match (wMajor w).toNat with
  | 0x01 => decodeControl w g
  | 0x02 => decodeControl w g
  | 0x03 => decodePred w g
  | 0x04 => decodeSystem w g
  | 0x05 => if g = Guard.always ∧ w.extractLsb' 0 20 = 0#20 then some .nop else some (.hint g (w.extractLsb' 0 20))
  | 0x08 => decodeInt w g
  | 0x09 => some (.addi g (wFd w) (wFa w) (w.extractLsb' 0 14))
  | 0x0A => decodeImm w g
  | 0x0B => decodeImm w g
  | 0x0C => some (.lil g (wFd w) (w.extractLsb' 0 17))
  | 0x0D => some (.lih g (wFd w) (w.extractLsb' 0 17))
  | 0x0E => decodeMulBits w g
  | 0x0F => decodeMulBits w g
  | 0x10 => decodeVec w g
  | 0x11 => decodeFloat w g
  | 0x12 => decodeFloat w g
  | 0x13 => decodeFloat w g
  | 0x14 => decodeCvtPermute w g
  | 0x15 => decodeCvtPermute w g
  | 0x18 => decodeLoadStore w g
  | 0x19 => decodeLoadStore w g
  | 0x1A => decodeLoadStore w g
  | 0x1B => decodeLoadStore w g
  | 0x1C => decodeSync w g
  | 0x20 => decodeSync w g
  | 0x21 => decodeSync w g
  | 0x22 => decodeSync w g
  | 0x28 => decodeTile w g
  | 0x29 => decodeTile w g
  | 0x2A => decodeAccRing w g
  | 0x2B => decodeAccRing w g
  | 0x2C => decodeAttnQuant w g
  | 0x2D => decodeAttnQuant w g
  | 0x30 => decodeEngine w g
  | 0x31 => decodeEngine w g
  | 0x32 => decodeEngine w g
  | 0x33 => decodeEngine w g
  | 0x34 => decodeFence w g
  | 0x38 => decodeTask w g
  | 0x39 => decodeTask w g
  | 0x3A => decodeTask w g
  | 0x3C => decodePriv w g
  | 0x3D => decodePriv w g
  | _ => none

/-- A word from its four bytes, lowest address first (R6, R46). -/
def wordOfBytes (b0 b1 b2 b3 : Byte) : W32 := b3 ++ b2 ++ b1 ++ b0

/-- Byte k of a word, k from 0 (R6). -/
def byteOfWord (w : W32) (k : Nat) : Byte := w.extractLsb' (8 * k) 8

/-- Decodes the four bytes of a word as memory holds them. -/
def decodeBytes (b0 b1 b2 b3 : Byte) : Option Instr := decode (wordOfBytes b0 b1 b2 b3)

/-- What the decoder reads from an instruction of the opcode table whose bits are w: the word laid out as memory holds
it, its bits above nbits zero. -/
def decodeTableWord (nbits w : Nat) : Option Instr :=
  let v : W32 := BitVec.ofNat 32 (w % 2 ^ nbits)
  decodeBytes (byteOfWord v 0) (byteOfWord v 1) (byteOfWord v 2) (byteOfWord v 3)

/-! ## Encoding -/

/-- A guard's six bits. -/
def Guard.bits (g : Guard) : BitVec 6 := BitVec.ofBool g.gs ++ g.gp

/-- Formats R, T, K, S and M share three register fields and eleven bits (R52). -/
def encR (major : BitVec 6) (g : Guard) (d a b : Reg) (f : BitVec 11) : W32 := major ++ g.bits ++ d ++ a ++ b ++ f
/-- Format I (R52). -/
def encI (major : BitVec 6) (g : Guard) (d a : Reg) (imm : BitVec 14) : W32 := major ++ g.bits ++ d ++ a ++ imm
/-- Format L (R52). -/
def encL (major : BitVec 6) (g : Guard) (d : Reg) (imm : BitVec 17) : W32 := major ++ g.bits ++ d ++ imm
/-- Format J (R52). -/
def encJ (g : Guard) (off : BitVec 19) (l : BitVec 1) : W32 := 0x01#6 ++ g.bits ++ off ++ l
/-- Format P, compare layout (R52). -/
def encPC (g : Guard) (pd : Pred) (a b : Reg) (cond : BitVec 5) (f : BitVec 4) : W32 :=
  0x03#6 ++ g.bits ++ pd ++ a ++ b ++ cond ++ f
/-- Format P, logic layout (R52). -/
def encPL (g : Guard) (pd qa qb : Pred) (f : BitVec 4) : W32 := 0x03#6 ++ g.bits ++ pd ++ qa ++ 0#1 ++ qb ++ f
/-- Format T: sel and func in the low eleven bits. -/
def encT (major : BitVec 6) (g : Guard) (d a b : Reg) (sel : BitVec 4) (f : BitVec 7) : W32 :=
  encR major g d a b (sel ++ f)
/-- Formats S and K: reach or x and func in the low eleven bits. -/
def encS (major : BitVec 6) (g : Guard) (d a b : Reg) (x : BitVec 3) (f : BitVec 8) : W32 :=
  encR major g d a b (x ++ f)
/-- Format E (R52, R64): d, queue, the .try bit and the operation in the low eleven bits. -/
def encE (major : BitVec 6) (g : Guard) (a b c d : Reg) (q : BitVec 3) (tri : Bool) (op : BitVec 4) : W32 :=
  encR major g a b c (d ++ q ++ BitVec.ofBool tri ++ op)

/-- The word of an instruction, from the same tables; none for an event. -/
def encode : Instr → Option W32
  | .br g off => some (encJ g off 0)
  | .call g off => some (encJ g off 1)
  | .jmp g a => some (encR 0x02 g 0 a 0 0)
  | .callr g a => some (encR 0x02 g 0 a 0 1)
  | .ret g => some (encR 0x02 g 0 0 0 2)
  | .pcmp g pd a b c => some (encPC g pd a b c.code 0)
  | .fcmp g pd a b f r => some (encPC g pd a b (f.code ++ r.code) 1)
  | .pand g pd qa qb => some (encPL g pd qa qb 2)
  | .por g pd qa qb => some (encPL g pd qa qb 3)
  | .pxor g pd qa qb => some (encPL g pd qa qb 4)
  | .pnot g pd qa => some (encPL g pd qa 0 5)
  | .pmov g pd qa => some (encPL g pd qa 0 6)
  | .pget g d => some (encPC g 0 d 0 0 7)
  | .pset g a => some (encPC g 0 a 0 0 8)
  | .trap g => some (encR 0x04 g 0 0 0 0)
  | .rte g a => some (encR 0x04 g 0 a 0 1)
  | .rteNewPc g a b => some (encR 0x04 g 0 a b 2)
  | .bkpt g => some (encR 0x04 g 0 0 0 3)
  | .csrr g d n => some (encR 0x04 g d 0 0 (2#2 ++ n))
  | .csrw g a n => some (encR 0x04 g 0 a 0 (3#2 ++ n))
  | .nop => some 0x15F00000
  | .hint g body => some (0x05#6 ++ g.bits ++ body)
  | .add g d a b => some (encR 0x08 g d a b 0x000)
  | .sub g d a b => some (encR 0x08 g d a b 0x001)
  | .and g d a b => some (encR 0x08 g d a b 0x002)
  | .or g d a b => some (encR 0x08 g d a b 0x003)
  | .xor g d a b => some (encR 0x08 g d a b 0x004)
  | .andn g d a b => some (encR 0x08 g d a b 0x005)
  | .shl g d a b => some (encR 0x08 g d a b 0x006)
  | .shrl g d a b => some (encR 0x08 g d a b 0x007)
  | .shra g d a b => some (encR 0x08 g d a b 0x008)
  | .rotl g d a b => some (encR 0x08 g d a b 0x009)
  | .min g d a b => some (encR 0x08 g d a b 0x00A)
  | .mins g d a b => some (encR 0x08 g d a b 0x00B)
  | .max g d a b => some (encR 0x08 g d a b 0x00C)
  | .maxs g d a b => some (encR 0x08 g d a b 0x00D)
  | .lea g d a b sc => some (encR 0x08 g d a b (0x004#9 ++ sc))
  | .sel g d a b p => some (encR 0x08 g d a b (0x01#6 ++ p))
  | .addi g d a imm => some (encI 0x09 g d a imm)
  | .andi g d a imm => some (encI 0x0A g d a (0#2 ++ imm))
  | .ori g d a imm => some (encI 0x0A g d a (1#2 ++ imm))
  | .xori g d a imm => some (encI 0x0A g d a (2#2 ++ imm))
  | .shli g d a n => some (encI 0x0B g d a (0#2 ++ 0#6 ++ n))
  | .shrli g d a n => some (encI 0x0B g d a (1#2 ++ 0#6 ++ n))
  | .shrai g d a n => some (encI 0x0B g d a (2#2 ++ 0#6 ++ n))
  | .rotli g d a n => some (encI 0x0B g d a (3#2 ++ 0#6 ++ n))
  | .lil g d imm => some (encL 0x0C g d imm)
  | .lih g d imm => some (encL 0x0D g d imm)
  | .mul g d a b => some (encR 0x0E g d a b 0)
  | .mulh g d a b => some (encR 0x0E g d a b 1)
  | .mulhs g d a b => some (encR 0x0E g d a b 2)
  | .div g d a b => some (encR 0x0E g d a b 3)
  | .divs g d a b => some (encR 0x0E g d a b 4)
  | .rem g d a b => some (encR 0x0E g d a b 5)
  | .rems g d a b => some (encR 0x0E g d a b 6)
  | .clz g d a => some (encR 0x0F g d a 0 0)
  | .ctz g d a => some (encR 0x0F g d a 0 1)
  | .popc g d a => some (encR 0x0F g d a 0 2)
  | .bswap g d a => some (encR 0x0F g d a 0 3)
  | .bext g d a b => some (encR 0x0F g d a b 4)
  | .bins g d a b => some (encR 0x0F g d a b 5)
  | .vadd g d a b h => some (encR 0x10 g d a b (0#8 ++ 0#1 ++ h.code))
  | .vsub g d a b h => some (encR 0x10 g d a b (1#8 ++ 0#1 ++ h.code))
  | .vmul g d a b h => some (encR 0x10 g d a b (2#8 ++ 0#1 ++ h.code))
  | .vmin g d a b sg h => some (encR 0x10 g d a b (3#8 ++ BitVec.ofBool sg ++ h.code))
  | .vmax g d a b sg h => some (encR 0x10 g d a b (4#8 ++ BitVec.ofBool sg ++ h.code))
  | .vadds g d a b sg h => some (encR 0x10 g d a b (5#8 ++ BitVec.ofBool sg ++ h.code))
  | .vsubs g d a b sg h => some (encR 0x10 g d a b (6#8 ++ BitVec.ofBool sg ++ h.code))
  | .vdot g d a b sg => some (encR 0x10 g d a b (7#8 ++ BitVec.ofBool sg ++ 0#2))
  | .vred g d a sg h => some (encR 0x10 g d a 0 (8#8 ++ BitVec.ofBool sg ++ h.code))
  | .fadd g d a b f => some (encR 0x11 g d a b (0#9 ++ f.code))
  | .fsub g d a b f => some (encR 0x11 g d a b (1#9 ++ f.code))
  | .fmul g d a b f => some (encR 0x11 g d a b (2#9 ++ f.code))
  | .fmin g d a b f => some (encR 0x11 g d a b (3#9 ++ f.code))
  | .fmax g d a b f => some (encR 0x11 g d a b (4#9 ++ f.code))
  | .fabs g d a f => some (encR 0x11 g d a 0 (5#9 ++ f.code))
  | .fneg g d a f => some (encR 0x11 g d a 0 (6#9 ++ f.code))
  | .fdiv g d a b f => some (encR 0x11 g d a b (7#9 ++ f.code))
  | .fsqrt g d a f => some (encR 0x11 g d a 0 (8#9 ++ f.code))
  | .ffma g d a b f => some (encR 0x12 g d a b (0#9 ++ f.code))
  | .frcp g d a f => some (encR 0x13 g d a 0 (0#9 ++ f.code))
  | .fexp2 g d a f => some (encR 0x13 g d a 0 (1#9 ++ f.code))
  | .flog2 g d a f => some (encR 0x13 g d a 0 (2#9 ++ f.code))
  | .cvt g d a dst src => some (encR 0x14 g d a 0 (0#4 ++ dst.code ++ 0#1 ++ src.code))
  | .vshuf g d a b h => some (encR 0x15 g d a b (0#9 ++ h.code))
  | .vpack g d a b h => some (encR 0x15 g d a b (1#9 ++ h.code))
  | .vbcast g d a h => some (encR 0x15 g d a 0 (2#9 ++ h.code))
  | .ld g d base sz hint disp => some (encR 0x18 g d base sz.code (hint.evict ++ BitVec.ofBool hint.noalloc ++ disp))
  | .st g d base sz hint disp => some (encR 0x19 g d base sz.code (hint.evict ++ BitVec.ofBool hint.noalloc ++ disp))
  | .ldx g d a b sz hint => some (encR 0x1A g d a b (0#5 ++ sz.code ++ hint.evict ++ BitVec.ofBool hint.noalloc))
  | .stx g d a b sz hint => some (encR 0x1B g d a b (0#5 ++ sz.code ++ hint.evict ++ BitVec.ofBool hint.noalloc))
  | .pref g a => some (encS 0x1C g 0 a 0 0 0)
  | .cpf g a => some (encS 0x1C g 0 a 0 0 1)
  | .cdrop g a => some (encS 0x1C g 0 a 0 0 2)
  | .recon g r => some (encS 0x1C g 0 0 0 r.code 3)
  | .pin g a v => some (encS 0x1C g 0 a v 0 4)
  | .unpin g a => some (encS 0x1C g 0 a 0 0 5)
  | .take g d a r => some (encS 0x20 g d a 0 r.code 0)
  | .put g a v r => some (encS 0x20 g 0 a v r.code 1)
  | .peek g d a r => some (encS 0x20 g d a 0 r.code 2)
  | .fill g a v r => some (encS 0x20 g 0 a v r.code 3)
  | .empty g d a r => some (encS 0x20 g d a 0 r.code 4)
  | .festat g d a r => some (encS 0x20 g d a 0 r.code 5)
  | .amoAdd g d a v r => some (encS 0x21 g d a v r.code 0)
  | .amoMin g d a v r => some (encS 0x21 g d a v r.code 1)
  | .amoMax g d a v r => some (encS 0x21 g d a v r.code 2)
  | .amoAnd g d a v r => some (encS 0x21 g d a v r.code 3)
  | .amoOr g d a v r => some (encS 0x21 g d a v r.code 4)
  | .amoXor g d a v r => some (encS 0x21 g d a v r.code 5)
  | .amoSwap g d a v r => some (encS 0x21 g d a v r.code 6)
  | .amoCas g d a v r => some (encS 0x21 g d a v r.code 7)
  | .amoFadd g d a v r => some (encS 0x21 g d a v r.code 8)
  | .moonAdd g a v => some (encS 0x22 g 0 a v 0 0)
  | .moonMin g a v => some (encS 0x22 g 0 a v 0 1)
  | .moonMax g a v => some (encS 0x22 g 0 a v 0 2)
  | .moonOr g a v => some (encS 0x22 g 0 a v 0 3)
  | .moonFadd g a v => some (encS 0x22 g 0 a v 0 4)
  | .tadd g d a b => some (encT 0x28 g d a b 0 0x00)
  | .tsub g d a b => some (encT 0x28 g d a b 0 0x01)
  | .tmul g d a b => some (encT 0x28 g d a b 0 0x02)
  | .tmax g d a b => some (encT 0x28 g d a b 0 0x03)
  | .tscale g d a b => some (encT 0x28 g d a b 0 0x04)
  | .tscaleRdiv g d a b => some (encT 0x28 g d a b 1 0x04)
  | .texp g d a => some (encT 0x28 g d a 0 0 0x05)
  | .trsum g d a acc col => some (encT 0x28 g d a 0 (0#2 ++ BitVec.ofBool acc ++ BitVec.ofBool col) 0x06)
  | .trmax g d a acc col => some (encT 0x28 g d a 0 (0#2 ++ BitVec.ofBool acc ++ BitVec.ofBool col) 0x07)
  | .tcvt g d a => some (encT 0x28 g d a 0 0 0x08)
  | .ttrans g d a => some (encT 0x28 g d a 0 0 0x09)
  | .tfill g d a => some (encT 0x28 g d a 0 0 0x0A)
  | .tget g d a b => some (encT 0x28 g d a b 0 0x0B)
  | .tset g d a b => some (encT 0x28 g d a b 0 0x0C)
  | .tmma g a b k => some (encT 0x29 g 0 a b (0#2 ++ k) 0)
  | .tmmaZ g a b k => some (encT 0x29 g 0 a b (0#2 ++ k) 1)
  | .accSt g d i q => some (encT 0x2A g d 0 0 (0#1 ++ BitVec.ofBool i ++ q) 0)
  | .accStRaw g a => some (encT 0x2A g 0 a 0 8 0)
  | .accLd g a q => some (encT 0x2A g 0 a 0 (0#2 ++ q) 1)
  | .accLdRaw g a => some (encT 0x2A g 0 a 0 8 1)
  | .accZ g => some (encT 0x2A g 0 0 0 0 2)
  | .accOwn g d => some (encT 0x2A g d 0 0 0 3)
  | .accOwnSet g a => some (encT 0x2A g 0 a 0 1 3)
  | .ringPush g d a => some (encT 0x2B g d a 0 0 0)
  | .ringPop g d a => some (encT 0x2B g d a 0 0 1)
  | .ringStat g d a => some (encT 0x2B g d a 0 0 2)
  | .hndNew g d a b => some (encT 0x2B g d a b 0 3)
  | .hndNewPair g d a b => some (encT 0x2B g d a b 1 3)
  | .hndFree g a => some (encT 0x2B g 0 a 0 0 4)
  | .hndInfo g d a => some (encT 0x2B g d a 0 0 5)
  | .attnQk g a b => some (encT 0x2C g 0 a b 0 0)
  | .attnSm g d a b i => some (encT 0x2C g d a b i 1)
  | .attnPv g d a b => some (encT 0x2C g d a b 0 2)
  | .attnClose g d a n => some (encT 0x2C g d a 0 n 3)
  | .kvMap g d a b => some (encT 0x2C g d a b 0 4)
  | .kvEvict g d a b => some (encT 0x2C g d a b 0 5)
  | .kvMass g d a j => some (encT 0x2C g d a 0 j 6)
  | .tq g d a => some (encT 0x2D g d a 0 0 0)
  | .tqAuto g d a => some (encT 0x2D g d a 0 1 0)
  | .tdq g d a => some (encT 0x2D g d a 0 0 1)
  | .copy g a b c d q1 tri => some (encE 0x30 g a b c d (0#2 ++ BitVec.ofBool q1) tri 0)
  | .copyT g a b c d q1 tri => some (encE 0x30 g a b c d (0#2 ++ BitVec.ofBool q1) tri 1)
  | .gath g a b c d tri => some (encE 0x31 g a b c d 2 tri 0)
  | .gathii g a b c d tri => some (encE 0x31 g a b c d 2 tri 1)
  | .scat g a b c d tri => some (encE 0x31 g a b c d 2 tri 2)
  | .graphLoad g a b c d tri => some (encE 0x32 g a b c d 3 tri 0)
  | .graphLoadF g a b c d tri => some (encE 0x32 g a b c d 3 tri 1)
  | .streamOpen g a b c d tri => some (encE 0x32 g a b c d 3 tri 2)
  | .streamClose g a b c d tri => some (encE 0x32 g a b c d 3 tri 3)
  | .collAr g a b c d tri => some (encE 0x33 g a b c d 4 tri 0)
  | .collBc g a b c d tri => some (encE 0x33 g a b c d 4 tri 1)
  | .qfence g mask => some (encR 0x34 g 0 0 0 (0#3 ++ 0#1 ++ mask))
  | .waitc g a => some (encR 0x34 g 0 a 0 (1#3 ++ 0#8))
  | .wlim g a => some (encR 0x34 g 0 a 0 (2#3 ++ 0#8))
  | .spawn g off => some (0x38#6 ++ g.bits ++ off ++ 0#8)
  | .spawnr g a => some (encS 0x38 g 0 a 0 0 1)
  | .await g d => some (encS 0x38 g d 0 0 0 2)
  | .done g => some (encS 0x38 g 0 0 0 0 3)
  | .frame g a b => some (encS 0x38 g 0 a b 0 4)
  | .yield g => some (encS 0x38 g 0 0 0 0 5)
  | .migrate g a => some (encS 0x38 g 0 a 0 0 6)
  | .dqPushRange g d a b => some (encS 0x39 g d a b 1 0)
  | .dqPushTask g d a b => some (encS 0x39 g d a b 2 0)
  | .dqPop g d a => some (encS 0x39 g d a 0 0 1)
  | .dqSteal g d a b => some (encS 0x39 g d a b 0 2)
  | .dqSplit g d a b => some (encS 0x39 g d a b 0 3)
  | .dqCfg g a => some (encS 0x39 g 0 a 0 0 4)
  | .dqCfgThaw g => some (encS 0x39 g 0 0 0 1 4)
  | .dqCfgGet g d => some (encS 0x39 g d 0 0 2 4)
  | .stgPush g a b r => some (encS 0x3A g 0 a b r.code 0)
  | .stgPop g d a r => some (encS 0x3A g d a 0 r.code 1)
  | .stgStat g d a => some (encS 0x3A g d a 0 0 2)
  | .tlbW g d a b => some (encR 0x3C g d a b 0)
  | .tlbI g d a b => some (encR 0x3C g d a b 1)
  | .keyLd g d a b => some (encR 0x3C g d a b 2)
  | .keyClr g d a => some (encR 0x3C g d a 0 3)
  | .slotSet g d a b => some (encR 0x3C g d a b 4)
  | .qwtSet g a b => some (encR 0x3C g 0 a b 5)
  | .arenaSet g d a b => some (encR 0x3C g d a b 6)
  | .halt g d a => some (encR 0x3D g d a 0 0)
  | .haltQ g d a => some (encR 0x3D g d a 0 1)
  | .resume g d a => some (encR 0x3D g d a 0 2)
  | .step g d a => some (encR 0x3D g d a 0 3)
  | _ => none

end Sys2Proof
end

