-- ==== Sys2Proof/Machine/Assoc.lean ====
section
/-! DEFINITION. Finite maps from numbers, as lists of pairs with rising keys: the form in which the state holds lines,
units, memory and every other table. -/

namespace Sys2Proof.Machine

/-- The value at a key, if the key is listed. -/
def Assoc.get {α : Type} : List (Nat × α) → Nat → Option α
  | [], _ => none
  | (k, v) :: m, a => if a = k then some v else Assoc.get m a

/-- The map with the value at a key replaced or added. -/
def Assoc.set {α : Type} : List (Nat × α) → Nat → α → List (Nat × α)
  | [], a, x => [(a, x)]
  | (k, v) :: m, a, x =>
    if a = k then (a, x) :: m
    else if a < k then (a, x) :: (k, v) :: m
    else (k, v) :: Assoc.set m a x

/-- The map without a key. -/
def Assoc.erase {α : Type} : List (Nat × α) → Nat → List (Nat × α)
  | [], _ => []
  | (k, v) :: m, a => if a = k then Assoc.erase m a else (k, v) :: Assoc.erase m a

/-- Whether the keys rise strictly. -/
def Assoc.sorted {α : Type} : List (Nat × α) → Bool
  | [] => true
  | (k, _) :: m => (match m with | [] => true | (k', _) :: _ => decide (k < k')) && Assoc.sorted m

/-- A rising list of numbers with a number added. -/
def NatSet.insert : List Nat → Nat → List Nat
  | [], a => [a]
  | k :: m, a => if a = k then k :: m else if a < k then a :: k :: m else k :: NatSet.insert m a

/-- A list of numbers without a number. -/
def NatSet.erase : List Nat → Nat → List Nat
  | [], _ => []
  | k :: m, a => if a = k then NatSet.erase m a else k :: NatSet.erase m a

/-- The element of a list at an index, or a default. -/
def nth {α : Type} : List α → Nat → α → α
  | [], _, d => d
  | x :: _, 0, _ => x
  | _ :: m, n + 1, d => nth m n d

/-- The list with the element at an index replaced; unchanged where the index lies outside. -/
def setNth {α : Type} : List α → Nat → α → List α
  | [], _, _ => []
  | _ :: m, 0, v => v :: m
  | x :: m, n + 1, v => x :: setNth m n v

end Sys2Proof.Machine
end

