-- ==== Sys2Proof/Machine/State.lean ====
section
/-! DEFINITION. The state of one Zarup Z1: context lines, issue units, clusters, stacks, tenants, memory, scratchpads,
engine commands, tile operations and the messages under way, all plain data.  INVENTORY.md lists every field with its
rule and its reset value. -/

namespace Sys2Proof.Machine

/-- Why the machine stops. -/
inductive Fault where
  /-- Raised by an event whose occasion does not exist: the message, command or operation it names is not under way, or
  is not yet due.  Safe: no hardware step is left out, since no such step can take place there (log 3). -/
  | noOccasion (event : String)
  deriving DecidableEq, Repr

/-- Why an instruction has no meaning. -/
inductive Refusal where
  /-- Raised by an arm of exec without a meaning.  Safe: the machine stops. -/
  | notModelled (mnemonic : String)
  deriving DecidableEq, Repr

/-! ## Context lines (02_contexts) -/

/-- Context states (R22); the codes are those of STAT.STATE. -/
inductive CtxState where
  | free | ready | issuing | waiting | trapped | halted | transit | done
  deriving DecidableEq, Repr

/-- Rounding modes (R18, R91). -/
inductive Round where
  | rne | rtz | rdn | rup | rna | odd
  deriving DecidableEq, Repr

/-- The five sticky flags (R18, R94). -/
structure Flags where
  nv : Bool := false
  dz : Bool := false
  of : Bool := false
  uf : Bool := false
  nx : Bool := false
  deriving DecidableEq, Repr

/-- What a context waits for: the kind and the awaited object of CTX.WTAG (R25). -/
inductive Wait where
  | none
  | word (va : W64)
  | frame (va : W64)
  | ring (h : W64)
  | page (metaVa : W64)
  | queue (q : Nat)
  | regs (mask : BitVec 8)
  | counters (cond : W32)
  | translation (va : W64)
  | stage (h : W64)
  | transit (dev unit : Nat)
  | acc (iu : Nat)
  | debug
  deriving DecidableEq, Repr

/-- The 128-byte line of a context, field by field (R17-R21). -/
structure Line where
  g : Vector W64 8
  pc : VAddr
  pred : W32
  pend : BitVec 8
  cause : Byte
  stepOn : Bool
  openMsg : Bool
  flags : Flags
  st : CtxState
  priv : Bool
  round : Round
  wait : Wait
  frame : W64
  join : W64
  wlimit : BitVec 16
  tiles : Nat
  engs : Nat
  stores : Nat
  loads : Nat
  hdev : Nat
  hclu : Nat
  queue : Nat
  tenant : Nat
  haltReq : Bool
  oseq : Nat
  deriving DecidableEq, Repr

/-- The one owner of a line (R29): the context L1 of a unit, the context L2 of a cluster, or HBM, whose lines stay
assigned to a cluster (R304). -/
inductive Owner where
  | l1 (unit : Nat)
  | l2 (cluster : Nat)
  | hbm (cluster : Nat)
  deriving DecidableEq, Repr

/-- A trap delivered to a context and not yet taken (R405).  word is the instruction word of a wait that the trap ended
without performing it (R413, R364), and zero otherwise. -/
structure DTrap where
  cause : Byte
  fva : W64
  detail : W64
  word : W32
  deriving DecidableEq, Repr

/-- A status that a HALT.Q still owes (R386). -/
structure HaltDue where
  ctx : Nat
  reg : Reg
  deriving DecidableEq, Repr

/-- What the device keeps about a line beside its 128 bytes.  word is the instruction word it parked at; record the
record line that returns with a handler's line (R44); leaving says that a claim which evicts the line is placed (R29, R301);
parkedAt is the slot that the context last parked from, whose latch it may wait for (R160); fences the masks and commands of QFENCE, commands on other devices
under numbers of 2^48 and more, with mask 0 for those of no fence (R212; log 28); absent lists the pages of a pin window
that the TSU could not give to a PIN of the context, and found those that it gave, each with its physical page and its key slot
(R236, R259). -/
structure Book where
  owner : Owner
  lastUnit : Option Nat
  assigned : Option Nat
  stamp : Nat
  ranOn : Option Nat
  stepIssued : Bool
  msg : List W64
  msgStart : Nat
  traps : List DTrap
  fences : List (BitVec 7 × List Nat)
  take : Option Nat
  timer : Option (Nat × Nat)
  recPend : Bool
  wasted : Nat
  sent : Bool
  haltDue : List HaltDue
  word : W32
  record : Option Nat
  leaving : Bool
  parkedAt : Nat
  absent : List Nat
  found : List (Nat × Nat × Nat)
  deriving DecidableEq, Repr

/-- The homing that the last TLB.W of a stretch of physical memory gave it (R225). -/
structure Homing where
  pa : Nat
  size : Nat
  hsel : Nat
  group : Bool
  deriving DecidableEq, Repr

/-- A context: its line and its book. -/
structure Ctx where
  line : Line
  book : Book
  deriving DecidableEq, Repr

/-! ## Tiles, tile operations, engine commands -/

/-- A tile, ring or grouped pair that passed its check (R36): the handle, the physical address of its entry and its key
slot, and the fields of the entry, with the scratchpad as a device-wide IU number. -/
structure TileRef where
  handle : W64
  entry : Nat
  kslot : Nat
  kind : Nat
  dim : Nat
  fmt : Nat
  group : Nat
  slots : Nat
  iu : Nat
  off : Nat
  word10 : W64
  word18 : W64
  deriving DecidableEq, Repr

/-- TADD, TSUB, TMUL, TMAX (R148). -/
inductive TBin where
  | add | sub | mul | max
  deriving DecidableEq, Repr

/-- Classes of a matrix step (R158). -/
inductive MClass where
  | f16 | f32 | int | grouped
  deriving DecidableEq, Repr

/-- What the page of an access fixes for its home: the tenant, the key slot, the home selector and its mode, and whether
arrivals are logged (R215, R224, R354, R362). -/
structure PageAttr where
  tenant : Nat
  kslot : Nat
  hsel : Nat
  group : Bool
  trace : Bool
  deriving DecidableEq, Repr

/-- A stretch of memory translated for an operation: its virtual and physical address, its length and its page (R143). -/
structure Span where
  va : Nat
  pa : Nat
  len : Nat
  attr : PageAttr
  deriving DecidableEq, Repr

/-- A tile operation with the operands captured at issue (R143). -/
inductive TileKind where
  | bin (o : TBin) (d a b : TileRef)
  | scale (d a : TileRef) (st : W64)
  | rdiv (d a b : TileRef)
  | exp (d a : TileRef)
  | reduce (mx acc col : Bool) (d a : TileRef)
  | cvt (d a : TileRef)
  | trans (d a : TileRef)
  | fill (d : TileRef) (v : W64)
  | get (r : Reg) (a : TileRef) (idx : Nat)
  | set (a : TileRef) (idx : Nat) (v : W64)
  | quant (auto : Bool) (data sz a : TileRef)
  | dequant (d data sz : TileRef)
  | mma (z : Bool) (cls : MClass) (k : Nat) (as bs szs : List TileRef)
  | accSt (d : TileRef) (int : Bool) (q : Nat)
  | accStRaw (m : List Span)
  | accLd (a : TileRef) (q : Nat)
  | accLdRaw (m : List Span)
  | accZ
  | ringStat (r : Reg) (ring : TileRef)
  | hndNew (r : Reg) (h : W64)
  | hndFree (h : TileRef)
  | hndInfo (r : Reg) (v : W64)
  | attnQk (q : List TileRef) (page : W64) (m : List Span)
  | attnSm (stats : List TileRef) (stage : TileRef) (page : W64) (i : Nat)
  | attnPv (o stats : List TileRef) (page : W64) (m : List Span)
  | attnClose (stage : TileRef) (stats : List TileRef) (n : Nat) (next : Nat)
  | kvMap (r : Reg) (desc : W64) (v : W64)
  | kvMass (r : Reg) (page : W64) (m : List Span)
  deriving DecidableEq, Repr

/-- A tile operation issued and not completed (R143); pairs holds the physical addresses of the entries of the grouped pairs that
it named (R38). -/
structure TileOp where
  id : Nat
  ctx : Nat
  unit : Nat
  slot : Nat
  tenant : Nat
  round : Round
  kind : TileKind
  pairs : List Nat
  deriving DecidableEq, Repr

/-- Engine operations (R64, R184, R256, R259). -/
inductive EngOp where
  | copy | copyT | gath | gathii | scat
  | graphLoad (force : Bool) | streamOpen | streamClose
  | collAr | collBc | kvEvict | cpf | pinFetch
  deriving DecidableEq, Repr

/-- How far a command has come: queued, or under way and taken up again by ENGINE_START; waiting at a ring's home, for the
last stream of a slot to close, or in a group; with writes still to make or pages marked (marked); moving tokens.  ended
carries its completion word; handed the completion word, the faulting VA and the detail of the trap (R275). -/
inductive CmdPhase where
  | queued
  | ringWait
  | draining
  | grouped
  | marked
  | moving
  | ended (word : W64)
  | handed (word fva detail : W64)
  deriving DecidableEq, Repr

/-- An engine command (R270).  plan holds writes still to be performed, as (VA, bytes), and the rows of a COPY.T that waits
to push; skip counts the blocks of an interrupted group of a stream window that are already written, and for a KV.EVICT that has reached
its compactor is one more than the compactor's channel die (R185); closed says that its stream was closed since it began (R283). -/
structure Cmd where
  id : Nat
  op : EngOp
  ctx : Nat
  unit : Nat
  queue : Nat
  tenant : Nat
  a : W64
  b : W64
  c : W64
  d : W64
  desc : List W64
  deps : List Nat
  phase : CmdPhase
  elem : Nat
  bounds : Bool
  tile : Option TileRef
  plan : List (Nat × List Byte)
  skip : Nat
  closed : Bool
  deriving DecidableEq, Repr

/-! ## Messages under way -/

/-- Full/empty accesses (R260). -/
inductive SyncOp where
  | take | put | peek | fill | empty | festat
  deriving DecidableEq, Repr

/-- Moonlet operations (R269). -/
inductive MoonOp where
  | add | min | max | or | fadd
  deriving DecidableEq, Repr

/-- A full/empty access on its way to its home or in a deferred list (R261, R262); seq is its place among the numbers of messages
(R360). -/
structure SyncReq where
  ctx : Nat
  unit : Nat
  attr : PageAttr
  op : SyncOp
  va : W64
  pa : Nat
  reg : Reg
  v : W64
  reach : Reach
  seq : Nat
  deriving DecidableEq, Repr

/-- A deque entry (R327). -/
structure DqEntry where
  w0 : W64
  w1 : W64
  deriving DecidableEq, Repr

/-- Who issued a ring operation or a miss: a context, an engine command, a tile operation, or the deque controller of a unit that
writes the fault record of a context (R341). -/
inductive Who where
  | ctx (va : Nat)
  | cmd (id : Nat)
  | tile (id : Nat)
  | record (va frame : Nat) (h : DqEntry) (cause : Byte)
  deriving DecidableEq, Repr

/-- A ring or stage-ring operation (R169, R344); seq is its place among the numbers of messages and operations (R38). -/
structure RingReq where
  who : Who
  unit : Nat
  push : Bool
  stage : Bool
  ring : TileRef
  tile : Option TileRef
  word : W64
  reg : Reg
  reach : Reach
  seq : Nat
  deriving DecidableEq, Repr

/-- A miss message (R357); access is 0 read, 1 write, 2 execute, 3 read-modify-write; tag is its request tag, for a context the
stamp of the wait that it serves. -/
structure MissReq where
  who : Who
  unit : Nat
  cluster : Nat
  tenant : Nat
  va : W64
  access : Nat
  tag : Nat
  deriving DecidableEq, Repr

/-- A walk in a TSU: the message it started with and the messages joined to it (R358). -/
structure Walk where
  id : Nat
  reqs : List MissReq
  deriving DecidableEq, Repr

/-- A steal under way (R335, R338): the thief, the registers of a DQ.STEAL, and the victims still to try. -/
structure StealReq where
  unit : Nat
  tenant : Nat
  ctx : Option (Nat × Reg × Reg)
  queue : Option Nat
  victims : List (Nat × Nat)
  frozen : Bool
  deriving DecidableEq, Repr

/-- Why a claim is placed: a refill, a take of a continuation, or an eviction (R29, R301, R303, R304, R309, R431). -/
inductive ClaimWhy where
  | refill | take | evict
  deriving DecidableEq, Repr

/-- A QWT entry (R295). -/
structure Qwt where
  quant : Nat
  cls : Nat
  weight : Nat
  deriving DecidableEq, Repr

/-- A message under way (R26, R27, R190).  stamp names the wait that a cancel is to end (R264).  gone lists, for TLB.I, the unit, the
first physical address and the length of every entry removed; key is the identifier of a KEY.LD, or none for KEY.CLR; inbound is a
store of the host or of a peer that is held (R220, R396), or a change of page ownership in its place in the order (R396, R399);
qwtSet names the queue, its entry before, and the units that have not yet taken up the new one (R384).  loadReq is a load that is not
performed at its issue, with the bytes that the unit's own stores show it; statusReq a debug instruction, and lineStore a store to a
context line, whose line is on another device (R31, R386, R392, R396). -/
inductive Msg where
  | load (ctx : Nat) (r : Reg) (v : W64) (inval : Bool)
  | loadReq (ctx unit : Nat) (r : Reg) (z : LdSize) (attr : PageAttr) (hint : Hint) (va : W64) (pa : Nat) (cached : Bool)
      (own : List Host.Cell)
  | statusReq (ctx : Nat) (r : Reg)
  | lineStore (ctx : Nat) (va : W64)
  | error (ctx : Nat) (r : Reg) (cause : Byte) (va : W64) (inval : Bool)
  | ack (ctx : Nat)
  | qwtSet (ctx q : Nat) (old : Qwt) (units : List Nat)
  | served (ctx : Nat) (r : Option Reg) (v : W64) (inval : Bool)
  | dropped (ctx : Nat) (t : DTrap)
  | ustore (ctx unit : Nat) (attr : PageAttr) (hint : Hint) (va : W64) (pa : Nat) (bytes : List Byte)
  | frameInit (ctx unit : Nat) (attr : PageAttr) (va : W64) (pa : Nat) (ptr : W64)
  | writeBack (unit : Nat) (ctx : Option Nat) (attr : PageAttr) (hint : Hint) (cells : List (Nat × Byte))
  | sync (rq : SyncReq)
  | syncRefused (rq : SyncReq) (due : Nat)
  | cancel (ctx : Nat) (wait : Wait) (stamp : Nat)
  | moonlet (ctx unit : Nat) (attr : PageAttr) (op : MoonOp) (va : W64) (pa : Nat) (v : W64)
  | frameInc (ctx unit : Nat) (attr : PageAttr) (va : W64) (pa : Nat)
  | frameDec (ctx unit : Nat) (attr : PageAttr) (va : W64) (pa : Nat) (remote : Bool)
  | await (ctx unit : Nat) (attr : PageAttr) (va : W64) (pa : Nat) (r : Reg)
  | awaitRefused (ctx unit : Nat) (attr : PageAttr) (va : W64) (pa : Nat) (r : Reg) (due : Nat)
  | ringOp (rq : RingReq)
  | steal (rq : StealReq)
  | stealResult (ctx unit : Nat) (d a : Reg) (w0 w1 : W64) (taken : Option DqEntry)
  | claim (line : Nat) (dest : Owner) (why : ClaimWhy) (oseq : Nat)
  | comet (line dev : Nat) (dest : Owner)
  | lineMove (line unit : Nat) (src : Option Nat)
  | miss (rq : MissReq)
  | missRefused (rq : MissReq) (due : Nat)
  | tlbInv (ctx : Nat) (r : Reg) (tenant : Nat) (gone : List (Nat × Nat × Nat))
  | keyChange (ctx : Nat) (r : Reg) (slot : Nat) (key : Option Nat)
  | inbound (event : Instr)
  deriving DecidableEq, Repr

/-! ## Issue units -/

/-- A translation entry (R354).  va and pa are the page's base addresses; size is its length in bytes. -/
structure TlbEntry where
  tenant : Nat
  size : Nat
  va : Nat
  pa : Nat
  kslot : Nat
  hsel : Nat
  cls : Nat
  group : Bool
  peerpin : Bool
  bias : Bool
  transformed : Bool
  trace : Bool
  x : Bool
  w : Bool
  r : Bool
  deriving DecidableEq, Repr

/-- One byte in a data L1 (R195, R223). -/
structure L1Byte where
  v : Byte
  dirty : Bool
  attr : PageAttr
  hint : Hint
  deriving DecidableEq, Repr

/-- A barrel slot (R298, R299). -/
structure Slot where
  owner : Option Nat
  occ : Option Nat
  tenure : Nat
  deriving DecidableEq, Repr

/-- A tenant's row of DQ_CFG; COUNT is computed (R329). -/
structure DqCfg where
  frozen : Bool
  g : Nat
  minChunk : Nat
  deriving DecidableEq, Repr

/-- An arrival-log port (R217, R220): the four registers, the numbers of the messages held in replay, oldest first, and
the port's cycle at its last match.  edge says that the last record written took the last place of the ring (R218). -/
structure ALog where
  base : Nat
  log2n : Nat
  seq : Nat
  index : Nat
  lost : Bool
  diverged : Bool
  ovf : Bool
  mode : Nat
  held : List Nat
  since : Nat
  edge : Bool
  deriving DecidableEq, Repr

/-- A SLOT.SET value waiting for a unit's next boundary, with the context and register its status is owed (R383). -/
structure TableSet where
  table : Nat
  value : W64
  ctx : Nat
  reg : Reg
  deriving DecidableEq, Repr

/-- A matrix step in a slot's latch: the tile operation and the steps still to start (R159, R160). -/
structure Latched where
  op : Nat
  left : Nat
  deriving DecidableEq, Repr

/-- A line of an L2 slice, most recently used first (R221, R226, R231, R362): its page's tenant and key slot, the hints in force,
its dirty bytes, and those whose dirty mark a CDROP cleared (R257), each with the byte that the memory-side cache or DRAM
holds below it; storeHint are the hints of the store that dirtied it last, which go on with its dirty bytes.  Its data are the bytes
that memory shows. -/
structure L2Line where
  line : Nat
  kslot : Nat
  tenant : Nat
  hint : Hint
  dirty : List (Nat × Byte)
  dropped : List (Nat × Byte)
  storeHint : Hint
  deriving DecidableEq, Repr

/-- An IU (0-1535) or CIU (1536-1631).  dl1Lru lists the lines of the data L1, most recently used first, with their eviction
values (R231); step is the number of the matrix step that runs (R159); l2 is the unit's L2 slice (R226); qwt is QWT as the unit's last rotation boundary saw it (R295). -/
structure Unit where
  cycle : Nat
  boundaryDone : Bool
  periodDone : Bool
  rot : W64
  mrot : W64
  mrotv : BitVec 16
  level : Nat
  fwLevel : Nat
  hwLevel : Nat
  slots : List Slot
  pass : List (Nat × Nat)
  dl1 : List (Nat × L1Byte)
  dl1Lru : List (Nat × BitVec 2)
  l2 : List L2Line
  qwt : List (Nat × Qwt)
  tlb : List TlbEntry
  accOwn : Nat
  acc : List (Nat × W32)
  latch : List (Nat × Latched)
  running : Option (Nat × Nat)
  step : Nat
  accHold : List Nat
  deque : List DqEntry
  dqcfg : List (Nat × DqCfg)
  holding : List (Nat × DqEntry)
  stealRounds : Nat
  stealSearch : Nat
  stealTry : List (Nat × Nat)
  alog : ALog
  tableSets : List TableSet
  lastCtx : Option Nat
  deriving DecidableEq, Repr

/-! ## Clusters, stacks, dies, tenants -/

/-- A governor entry (R313, R314). -/
structure Gov where
  ring : Nat
  cons : Nat
  prod : Nat
  aph : Nat
  per : Nat
  adj : Int
  ops : Nat
  deriving DecidableEq, Repr

/-- A cluster: its allocator, governor and TSU (R40, R43, R313, R358). -/
structure Cluster where
  cache : List (Nat × List Nat)
  reserve : List Nat
  gov : List Gov
  tsu : List Walk
  deriving DecidableEq, Repr

/-- A line of a memory-side cache set, most recently used first (R230, R231, R237).  Its data and metadata are those that memory
shows where no L2 slice holds the line dirty; dirty lists its dirty bytes, each with the byte that DRAM holds. -/
structure MscLine where
  way : Nat
  line : Nat
  evict : BitVec 2
  pinned : Bool
  kslot : Nat
  dirty : List (Nat × Byte)
  deriving DecidableEq, Repr

/-- A graph slot (R240, R245).  held is the image that waits for the last stream to close, with its tenant and command. -/
structure GraphSlot where
  loaded : Bool
  draining : Bool
  owner : Option Nat
  gen : Nat
  image : List W64
  held : Option (List W64 × Nat × Nat)
  deriving DecidableEq, Repr

/-- An open stream (R246, R282): its number, opener, slot, captured generation, direction, region length in bytes and the
physical addresses of its 64-byte blocks' pages (64 KiB each), with the offset of the region in the first. -/
structure Stream where
  k : Nat
  tenant : Nat
  slot : Nat
  gen : Nat
  write : Bool
  len : Nat
  first : Nat
  pages : List (Nat × PageAttr)
  deriving DecidableEq, Repr

/-- A stack controller (R200, R217, R230, R233, R240).  patrol is the block that its next patrol read takes, and patrolAt the cycle at which
that read is due (R415). -/
structure Stack where
  alog : ALog
  duel : Bool
  psel : List (Nat × (Nat × Nat))
  msc : List (Nat × List MscLine)
  pinDenied : Nat
  refusals : Nat
  graphs : List (Nat × GraphSlot)
  streams : List Stream
  patrol : Nat
  patrolAt : Nat
  deriving DecidableEq, Repr

/-- A pin window (R235, R237): its number, base, length, way mask and the pages translated at PIN, each
as its virtual and its physical page number. -/
structure PinWin where
  num : Nat
  base : Nat
  len : Nat
  mask : BitVec 12
  pages : List (Nat × Nat)
  deriving DecidableEq, Repr

/-- The registers and resources of a tenant (R349, R379). -/
structure Tenant where
  vec : VAddr
  vecEn : Bool
  ptb : VAddr
  htab : VAddr
  hlen : Nat
  hfree : Nat
  qset : W64
  pinq : Nat
  kshrV : BitVec 4
  kshrS : W32
  bk : List (VAddr × Bool)
  arena : Option (Nat × Nat)
  pins : List PinWin
  deriving DecidableEq, Repr

/-- A page ownership record (R393). -/
structure PageRec where
  kslot : Nat
  tenant : Nat
  cls : Nat
  dest : Nat
  dclu : Nat
  moved : Bool
  valid : Bool
  bias : Bool
  transformed : Bool
  peerpin : Bool
  w : Bool
  r : Bool
  deriving DecidableEq, Repr

/-- A group of a collective (R285): the first command's parameters and the ranks present, with their commands; guests are the ranks of
commands on other devices, with their device and command and the words of their buffers (log 28). -/
structure Group where
  id : Nat
  tenant : Nat
  key : W64
  epoch : W64
  p : Nat
  n : Nat
  fmt : Nat
  op : Nat
  root : Nat
  bc : Bool
  members : List (Nat × Nat)
  guests : List (Nat × (Nat × Nat) × List W64)
  deriving DecidableEq, Repr

/-- A message to the host (R389, R390). -/
structure HostMsg where
  kind : Nat
  tag : Nat
  tenant : Nat
  status : Nat
  payload : List W64
  deriving DecidableEq, Repr

/-- What the start in force brought up, and its log (R419-R423).  reserved lists the regions that firmware reserved, as
(first PA, length) (R418; log 13); versions the version in use on each link that trained, the host link being 0 and peer port p being
p + 1, and partners the number that the partner of each peer port advertised (R401, R402). -/
structure StartInfo where
  number : Nat
  fails : List Nat
  log : List W64
  prevLog : List W64
  hstacks : BitVec 12
  clusters : BitVec 16
  slow : BitVec 12
  ports : BitVec 18
  orSlow : Bool
  lnkHalf : Bool
  host8 : Bool
  reserved : List (Nat × Nat)
  versions : List (Nat × Nat)
  partners : List (Nat × Nat)
  deriving DecidableEq, Repr

/-- What a start has brought up so far, with its records and its counts; stopped says that it has stopped (R420). -/
structure Starting where
  info : StartInfo
  fails : List Nat
  log : List W64
  stopped : Bool
  deriving DecidableEq, Repr

/-- A start that step 10 holds until a hello arrives (R402): what it has brought up, and how its remaining elements come out. -/
structure HeldStart where
  so : Starting
  outcomes : List StartOutcome
  deriving DecidableEq, Repr

/-! ## The machine -/

/-- The machine.  passedOver lists the lines that a context L2 passed over because their page could not be translated, as they were
reported to the management core (R39); spaceDue the freed tiles and rings whose space is not yet known to be free (R173);
abroad the lines that were sent to another device, with its number (R27, R310), and starting is a start that waits for its hello (R402), fwVersion and
fwDigest those of the images that run, imageVersion and imageDigest those of the images in the store (R370), asked the messages under way that were sent on to
another device, which performs and answers them (R392); mapped the pages that software last gave the device and
did not take back, whichever TLBs still hold them (R39, R353). -/
structure State where
  lines : List (Nat × Ctx)
  records : List (Nat × List W64)
  units : List (Nat × Unit)
  clusters : List (Nat × Cluster)
  hstacks : List (Nat × Stack)
  corr : List (Nat × Nat)
  tenants : List (Nat × Tenant)
  qwt : List (Nat × Qwt)
  mem : List Host.Cell
  feEmpty : List Nat
  blockTag : List (Nat × (Nat × KeyMat))
  damage : List (Nat × List (Nat × Byte))
  quarantine : List (Nat × (Nat × Bool))
  pageRecs : List (Nat × PageRec)
  homing : List Homing
  mapped : List TlbEntry
  keys : List (Nat × KeyMat)
  keyStore : List (Nat × KeyMat)
  scratch : List Host.Cell
  scratchUsed : List (Nat × List (Nat × Nat))
  spaceDue : List TileRef
  ringLists : List (Nat × List RingReq)
  deferred : List (Nat × List SyncReq)
  armed : List (Nat × (Nat × Nat × Reg × Nat))
  pagesUnder : List (Nat × Nat)
  wire : List (Nat × Msg)
  nextId : Nat
  cmds : List Cmd
  tileOps : List TileOp
  groups : List Group
  hostOut : List HostMsg
  kept : List HostMsg
  peerOut : List (Nat × List W64)
  linkUp : Bool
  corrected : List (Nat × Nat)
  faulted : Bool
  device : Nat
  deviceSet : Bool
  start : StartInfo
  starting : Option HeldStart
  minVersion : Nat
  fwDigest : List W64
  fwVersion : Nat
  imageDigest : List W64
  imageVersion : Nat
  moved : Nat
  skipped : Nat
  passedOver : List Nat
  abroad : List (Nat × Nat)
  asked : List Nat
  stamp : Nat
  agenda : List Instr
  focus : Nat
  wireTurn : Bool
  turnUnit : Nat
  turnSlot : Nat
  fetched : Option W32
  deriving DecidableEq, Repr

/-! ## Reset -/

/-- A slot without owner or occupant. -/
def Slot.reset : Slot := ⟨none, none, 0⟩

/-- An arrival-log port after reset: LOG2N 8, everything else 0 (R217). -/
def ALog.reset : ALog := ⟨0, 8, 0, 0, false, false, false, 0, [], 0, false⟩

/-- An issue unit after reset: the tables of R292 and R379, nothing held. -/
def Unit.reset : Unit where
  cycle := 0
  boundaryDone := false
  periodDone := false
  rot := 0xFEDCBA9876543210
  mrot := 0xFEDCBA9876543210
  mrotv := 0xFFFF
  level := 0
  fwLevel := 0
  hwLevel := 0
  slots := List.replicate 16 Slot.reset
  pass := []
  dl1 := []
  dl1Lru := []
  l2 := []
  qwt := []
  tlb := []
  accOwn := 0
  acc := []
  latch := []
  running := none
  step := 0
  accHold := []
  deque := []
  dqcfg := []
  holding := []
  stealRounds := 0
  stealSearch := 0
  stealTry := []
  alog := ALog.reset
  tableSets := []
  lastCtx := none

/-- A governor entry after reset (R313). -/
def Gov.reset : Gov := ⟨0, 0, 0, 16, 0, 0, 0⟩

/-- A cluster after reset (R424). -/
def Cluster.reset : Cluster := ⟨[], [], List.replicate 8 Gov.reset, []⟩

/-- A stack controller after reset: set duelling enabled (R379), every graph slot Free (R424). -/
def Stack.reset : Stack := ⟨ALog.reset, true, [], [], 0, 0, [], [], 0, 0⟩

/-- A tenant's registers after reset (R379). -/
def Tenant.reset : Tenant where
  vec := 0
  vecEn := false
  ptb := 0
  htab := 0
  hlen := 0
  hfree := 0
  qset := 0
  pinq := 0
  kshrV := 0
  kshrS := 0
  bk := List.replicate 4 (0, false)
  arena := none
  pins := []

/-- A QWT entry after reset (R295). -/
def Qwt.reset : Qwt := ⟨0, 0, 1⟩

/-- A page ownership record after a start: zero (R393). -/
def PageRec.reset : PageRec := ⟨0, 0, 0, 0, 0, false, false, false, false, false, false, false⟩

/-- The elements of a start in order, as (step, element) (R418). -/
def startElements : List (Nat × Nat) :=
  [(1, 0), (2, 0), (3, 0), (4, 0)] ++ (List.range 12).map (fun e => (5, e)) ++ (List.range 15).map (fun e => (6, e)) ++
  [(7, 0)] ++ (List.range 28).map (fun e => (8, e)) ++ [(9, 0)] ++ (List.range 19).map (fun e => (10, e)) ++ [(11, 0)]

/-- A start record (R421): METHOD 0, RESULT 0, FAILS 0 where the element passed by its primary method. -/
def startRecord (number step elem detail fails method result : Nat) : W64 :=
  BitVec.ofNat 16 number ++ BitVec.ofNat 8 step ++ BitVec.ofNat 8 elem ++ 0#8 ++ BitVec.ofNat 8 detail ++
  BitVec.ofNat 8 fails ++ BitVec.ofNat 4 method ++ BitVec.ofNat 4 result

/-- The regions that firmware reserves at a start, as (first PA, length), at the top of their stacks (R263, R304, R366, R393, R418): each
started stack's deferred entries and page records, and in the lowest of them the ready lists, the quarantine tables and the
key store.  The spec gives their stacks, and neither their places there nor the sizes of their entries (DESIGN CHOICE, log
13). -/
def reservedRegions (started : BitVec 12) : List (Nat × Nat) :=
  let ks := (List.range 12).filter (fun k => started.getLsbD k)
  let top (k : Nat) : Nat := (k + 1) * 51539607552 - 274726912
  ks.map (fun k => (top k, 274726912)) ++ (ks.take 1).map (fun k => (top k - 134283264, 134283264))

/-- The start that reset stands after: every element passed by its primary method (log 8). -/
def StartInfo.reset : StartInfo where
  number := 0
  fails := List.replicate 81 0
  log := startElements.map (fun e => startRecord 0 e.1 e.2 0 0 0 0)
  prevLog := []
  hstacks := 0xFFF
  clusters := 0xFFFF
  slow := 0
  ports := 0x3FFFF
  orSlow := false
  lnkHalf := false
  host8 := false
  reserved := reservedRegions 0xFFF
  versions := (List.range 19).map (fun e => (e, 2))
  partners := []

/-- The machine right after a full start (R423, R424): no context, no translation, no key, memory listing nothing. -/
def State.reset : State where
  lines := []
  records := []
  units := []
  clusters := []
  hstacks := []
  corr := []
  tenants := []
  qwt := []
  mem := []
  feEmpty := []
  blockTag := []
  damage := []
  quarantine := []
  pageRecs := []
  homing := []
  mapped := []
  keys := []
  keyStore := []
  scratch := []
  scratchUsed := []
  spaceDue := []
  ringLists := []
  deferred := []
  armed := []
  pagesUnder := []
  wire := []
  nextId := 0
  cmds := []
  tileOps := []
  groups := []
  hostOut := []
  kept := []
  peerOut := []
  linkUp := true
  corrected := []
  faulted := false
  device := 0
  deviceSet := true
  start := StartInfo.reset
  starting := none
  minVersion := 0
  fwDigest := [0, 0, 0, 0, 0, 0]
  fwVersion := 0
  imageDigest := [0, 0, 0, 0, 0, 0]
  imageVersion := 0
  moved := 0
  skipped := 0
  passedOver := []
  abroad := []
  asked := []
  stamp := 0
  agenda := []
  focus := 0
  wireTurn := false
  turnUnit := 0
  turnSlot := 0
  fetched := none

end Sys2Proof.Machine
end

