-- ==== Sys2Proof/Machine/Bits.lean ====
section
/-! DEFINITION. Bit fields, byte order and sign extension, and the 128 bytes of a context line (R6, R17-R21, R25). -/

namespace Sys2Proof.Machine

/-- The field of len bits from bit lo. -/
def bits (w : W64) (lo len : Nat) : Nat := (w.toNat / 2 ^ lo) % 2 ^ len
/-- A single bit. -/
def bit (w : W64) (i : Nat) : Bool := w.getLsbD i
/-- A doubleword from a number. -/
def w64 (n : Nat) : W64 := BitVec.ofNat 64 n
/-- The number a bit pattern of n bits stands for in two's complement (R86). -/
def signed (n v : Nat) : Int := if v < 2 ^ (n - 1) then (v : Int) else (v : Int) - 2 ^ n
/-- A field of a descriptor word. -/
def natBits (w lo len : Nat) : Nat := (w / 2 ^ lo) % 2 ^ len
/-- One bit as a number. -/
def b2n (b : Bool) : Nat := if b then 1 else 0
/-- An address modulo 2^56 (R53). -/
def va56 (w : W64) : Nat := w.toNat % 2 ^ 56
/-- Sum of two addresses modulo 2^56 (R53). -/
def addVa (a b : Nat) : Nat := (a + b) % 2 ^ 56

/-- Byte k of a number (R6). -/
def byteOf (n k : Nat) : Byte := BitVec.ofNat 8 (n / 256 ^ k)
/-- The n low bytes of a number, lowest first (R6). -/
def bytesOf (v : Nat) : Nat → List Byte
  | 0 => []
  | n + 1 => BitVec.ofNat 8 v :: bytesOf (v / 256) n
/-- The number of a list of bytes, lowest first (R6). -/
def ofBytes : List Byte → Nat
  | [] => 0
  | b :: m => b.toNat + 256 * ofBytes m

/-- Groups of k elements of a list, in order; fuel bounds their number. -/
def chunks {α : Type} (k : Nat) : Nat → List α → List (List α)
  | 0, _ => []
  | n + 1, l => match l with
    | [] => []
    | _ => l.take k :: chunks k n (l.drop k)

/-- The first n words of a list, zero where it has fewer. -/
def fixed (n : Nat) (ws : List W64) : List W64 := (List.range n).map (fun i => nth ws i 0)

/-! ## Registers of a line -/

/-- gN of a line (R17). -/
def Line.reg (l : Line) (r : Reg) : W64 := l.g[r.toNat]'(r.isLt)
/-- A line with gN written. -/
def Line.setReg (l : Line) (r : Reg) (v : W64) : Line := { l with g := l.g.set r.toNat v r.isLt }
/-- pN of a line; p31 reads 1 (R17). -/
def Line.p (l : Line) (q : Pred) : Bool := q == 31#5 || l.pred.getLsbD q.toNat
/-- A line with pN written; a write to p31 is ignored (R17). -/
def Line.setP (l : Line) (q : Pred) (b : Bool) : Line :=
  if q = 31#5 then l
  else { l with pred := if b then l.pred ||| (1#32 <<< q.toNat) else l.pred &&& ~~~(1#32 <<< q.toNat) }
/-- Bit N of PEND (R18). -/
def Line.pending (l : Line) (r : Reg) : Bool := l.pend.getLsbD r.toNat
/-- PEND with bit N set. -/
def Line.setPend (l : Line) (r : Reg) : Line := { l with pend := l.pend ||| (1#8 <<< r.toNat) }
/-- PEND with bit N clear. -/
def Line.clearPend (l : Line) (r : Reg) : Line := { l with pend := l.pend &&& ~~~(1#8 <<< r.toNat) }
/-- CTX.PC moved on by one word (R50). -/
def Line.advance (l : Line) : Line := { l with pc := l.pc + 4 }

/-! ## The doublewords of a line (R17-R21) -/

/-- The code of a state (R22). -/
def CtxState.code : CtxState → Nat
  | .free => 0 | .ready => 1 | .issuing => 2 | .waiting => 3 | .trapped => 4 | .halted => 5 | .transit => 6 | .done => 7
/-- The code of a rounding mode (R18). -/
def Round.code : Round → Nat
  | .rne => 0 | .rtz => 1 | .rdn => 2 | .rup => 3 | .rna => 4 | .odd => 5
/-- The rounding mode of a code; 6 and 7 leave the mode as it was (R18). -/
def Round.ofCode (old : Round) : Nat → Round
  | 0 => .rne | 1 => .rtz | 2 => .rdn | 3 => .rup | 4 => .rna | 5 => .odd | _ => old

/-- CTX.WTAG (R25, R276). -/
def Wait.tag : Wait → W64
  | .none => 0
  | .word va => w64 (1 * 2 ^ 56 + va56 va / 8 * 8)
  | .frame va => w64 (2 * 2 ^ 56 + va56 va / 8 * 8)
  | .ring h => w64 (3 * 2 ^ 56 + h.toNat % 2 ^ 40 * 2 ^ 16)
  | .page va => w64 (3 * 2 ^ 56 + va56 va / 256 * 256 + 8)
  | .queue q => w64 (4 * 2 ^ 56 + q * 8)
  | .regs mask => w64 (5 * 2 ^ 56 + mask.toNat * 8)
  | .counters cond => w64 (5 * 2 ^ 56 + 2 ^ 55 + cond.toNat * 8)
  | .translation va => w64 (6 * 2 ^ 56 + va56 va / 65536 * 65536)
  | .stage h => w64 (7 * 2 ^ 56 + h.toNat % 2 ^ 40 * 2 ^ 16)
  | .transit dev unit => w64 (8 * 2 ^ 56 + dev * 2 ^ 32 + unit * 2 ^ 16)
  | .acc iu => w64 (9 * 2 ^ 56 + iu * 2 ^ 16)
  | .debug => w64 (10 * 2 ^ 56)

/-- The faulting field of a wait-limit trap (R45). -/
def Wait.object : Wait → W64
  | .word va => w64 (va56 va)
  | .frame va => w64 (va56 va)
  | .ring h => h
  | .page va => w64 (va56 va)
  | .translation va => w64 (va56 va)
  | .stage h => h
  | _ => 0

/-- CTX.STAT (R18). -/
def Line.stat (l : Line) : Nat :=
  l.pend.toNat * 2 ^ 24 + l.cause.toNat * 2 ^ 16 + b2n l.stepOn * 2 ^ 14 + b2n l.openMsg * 2 ^ 13 +
  b2n l.flags.nv * 2 ^ 12 + b2n l.flags.dz * 2 ^ 11 + b2n l.flags.of * 2 ^ 10 + b2n l.flags.uf * 2 ^ 9 +
  b2n l.flags.nx * 2 ^ 8 + l.st.code * 2 ^ 4 + b2n l.priv * 2 ^ 3 + l.round.code
/-- CTX.CNT (R19). -/
def Line.cnt (l : Line) : Nat :=
  l.wlimit.toNat * 2 ^ 24 + l.tiles * 2 ^ 18 + l.engs * 2 ^ 12 + l.stores * 2 ^ 6 + l.loads
/-- CTX.SPACE (R21). -/
def Line.space (l : Line) : Nat := l.hdev * 2 ^ 40 + l.hclu * 2 ^ 32 + l.queue * 2 ^ 16 + l.tenant
/-- CTX.AUX (R21). -/
def Line.aux (l : Line) : Nat := b2n l.haltReq * 2 ^ 16 + l.oseq

/-- The sixteen doublewords of a line (R17). -/
def Line.words (l : Line) : List W64 :=
  l.g.toList ++
  [w64 l.pc.toNat, w64 ((l.pred ||| 0x80000000#32).toNat + l.stat * 2 ^ 32), l.wait.tag, l.frame, w64 l.cnt,
   w64 l.space, l.join, w64 l.aux]

/-- The 128 bytes of sixteen doublewords. -/
def wordsBytes (ws : List W64) : List Byte := ws.foldr (fun w m => bytesOf w.toNat 8 ++ m) []

/-- The doublewords with bytes from an offset replaced. -/
def patchWords (ws : List W64) (off : Nat) (bs : List Byte) : List W64 :=
  let all := wordsBytes ws
  (chunks 8 ws.length (all.take off ++ bs ++ all.drop (off + bs.length))).map (fun c => w64 (ofBytes c))

/-- The line that sixteen doublewords stand for, READY or HALTED and waiting for nothing (R17 to R21, R310). -/
def lineOf (ws : List W64) : Line :=
  let stat := natBits (nth ws 9 0).toNat 32 32
  let cnt := (nth ws 12 0).toNat
  let space := (nth ws 13 0).toNat
  let aux := (nth ws 15 0).toNat
  { g := #v[nth ws 0 0, nth ws 1 0, nth ws 2 0, nth ws 3 0, nth ws 4 0, nth ws 5 0, nth ws 6 0, nth ws 7 0]
    pc := BitVec.ofNat 56 (nth ws 8 0).toNat
    pred := BitVec.ofNat 32 (nth ws 9 0).toNat ||| 0x80000000#32
    pend := BitVec.ofNat 8 (natBits stat 24 8)
    cause := BitVec.ofNat 8 (natBits stat 16 8)
    stepOn := natBits stat 14 1 == 1
    openMsg := natBits stat 13 1 == 1
    flags := ⟨natBits stat 12 1 == 1, natBits stat 11 1 == 1, natBits stat 10 1 == 1, natBits stat 9 1 == 1,
      natBits stat 8 1 == 1⟩
    st := if natBits stat 4 3 = 5 then .halted else .ready
    priv := natBits stat 3 1 == 1
    round := Round.ofCode .rne (stat % 8)
    wait := .none
    frame := nth ws 11 0
    join := nth ws 14 0
    wlimit := BitVec.ofNat 16 (natBits cnt 24 16)
    tiles := natBits cnt 18 6
    engs := natBits cnt 12 6
    stores := natBits cnt 6 6
    loads := natBits cnt 0 6
    hdev := natBits space 40 8
    hclu := natBits space 32 8
    queue := natBits space 16 6
    tenant := natBits space 0 8
    haltReq := natBits aux 16 1 == 1
    oseq := natBits aux 0 16 }

/-- A line after a store that its sixteen doublewords show as ws: unprivileged stores write g0-g7, CTX.PC, CTX.PRED and
the RW fields, privileged ones also STEP, PRIV, QUEUE, HDEV, HCLU, CTX.FRAME and CTX.JOIN (R32). -/
def Line.stored (l : Line) (ws : List W64) (priv : Bool) : Line :=
  let stat := natBits (nth ws 9 0).toNat 32 32
  let r (i : Reg) : W64 := if l.pending i then l.reg i else nth ws i.toNat 0
  let l1 : Line := { l with
    g := #v[r 0, r 1, r 2, r 3, r 4, r 5, r 6, r 7]
    pc := BitVec.ofNat 56 (natBits (nth ws 8 0).toNat 2 54 * 4)
    pred := BitVec.ofNat 32 (nth ws 9 0).toNat ||| 0x80000000#32
    flags := ⟨natBits stat 12 1 == 1, natBits stat 11 1 == 1, natBits stat 10 1 == 1, natBits stat 9 1 == 1,
      natBits stat 8 1 == 1⟩
    round := Round.ofCode l.round (stat % 8)
    wlimit := BitVec.ofNat 16 (natBits (nth ws 12 0).toNat 24 16) }
  if priv then
    { l1 with
      stepOn := natBits stat 14 1 == 1
      priv := natBits stat 3 1 == 1
      frame := nth ws 11 0
      join := nth ws 14 0
      queue := natBits (nth ws 13 0).toNat 16 6
      hclu := natBits (nth ws 13 0).toNat 32 8
      hdev := natBits (nth ws 13 0).toNat 40 8 }
  else l1

end Sys2Proof.Machine
end

