-- ==== Sys2Proof/Machine/Flags.lean ====
section
/-! DEFINITION. The five sticky flags and how operations set them (R18, R94, R95). -/

namespace Sys2Proof.Machine

/-- The OR of two sets of flags: flags are only ever set by arithmetic (R94, R95). -/
def Flags.or (a b : Flags) : Flags := ⟨a.nv || b.nv, a.dz || b.dz, a.of || b.of, a.uf || b.uf, a.nx || b.nx⟩
/-- No flag. -/
def Flags.none : Flags := ⟨false, false, false, false, false⟩
/-- NV alone, where a condition holds. -/
def Flags.invalid (b : Bool) : Flags := ⟨b, false, false, false, false⟩
/-- DZ alone. -/
def Flags.divZero : Flags := ⟨false, true, false, false, false⟩
/-- NX alone, where a condition holds. -/
def Flags.inexact (b : Bool) : Flags := ⟨false, false, false, false, b⟩
/-- A line with flags added. -/
def Line.addFlags (l : Line) (f : Flags) : Line := { l with flags := l.flags.or f }

end Sys2Proof.Machine
end

