-- ==== Sys2Proof/Machine/Float.lean ====
section
/-! DEFINITION. Floating-point values, rounding and the operations on one lane (R82-R99, R103, R127-R134).  Every
operation forms an exact value and rounds it once; a value that is irrational is bounded until its rounding is decided. -/

namespace Sys2Proof.Machine

/-- A floating-point format: exponent bits and fraction bits (R82). -/
structure FFormat where
  ebits : Nat
  fbits : Nat
  deriving DecidableEq, Repr

def fp32 : FFormat := ⟨8, 23⟩
def bf16 : FFormat := ⟨8, 7⟩
def fp16 : FFormat := ⟨5, 10⟩

/-- Width in bits. -/
def FFormat.width (f : FFormat) : Nat := 1 + f.ebits + f.fbits
/-- Exponent bias. -/
def FFormat.bias (f : FFormat) : Nat := 2 ^ (f.ebits - 1) - 1
/-- The pattern of +infinity. -/
def FFormat.inf (f : FFormat) : Nat := (2 ^ f.ebits - 1) * 2 ^ f.fbits
/-- The canonical NaN (R83). -/
def FFormat.qnan (f : FFormat) : Nat := f.inf + 2 ^ (f.fbits - 1)
/-- A pattern with its sign. -/
def FFormat.signed (f : FFormat) (neg : Bool) (p : Nat) : Nat := if neg then p + 2 ^ (f.ebits + f.fbits) else p

/-- A value: a NaN, signalling or quiet; an infinity; or (-1)^neg times m times 2^e, zero included (R82, R84). -/
inductive FV where
  | nan (signalling : Bool)
  | inf (neg : Bool)
  | fin (neg : Bool) (m : Nat) (e : Int)
  deriving DecidableEq, Repr

/-- The value of a pattern (R82). -/
def FFormat.unpack (f : FFormat) (p : Nat) : FV :=
  let neg := p / 2 ^ (f.ebits + f.fbits) % 2 == 1
  let ex := p / 2 ^ f.fbits % 2 ^ f.ebits
  let fr := p % 2 ^ f.fbits
  if ex = 2 ^ f.ebits - 1 then
    if fr = 0 then .inf neg else .nan (fr < 2 ^ (f.fbits - 1))
  else if ex = 0 then .fin neg fr (1 - (f.bias : Int) - f.fbits)
  else .fin neg (2 ^ f.fbits + fr) ((ex : Int) - f.bias - f.fbits)

/-- Number of bits of a number. -/
def bitLen (n : Nat) : Nat := if n = 0 then 0 else Nat.log2 n + 1

/-- Whether a magnitude truncated to n goes up by one: half tells how the discarded part compares with a half (R91). -/
def roundUp (mode : Round) (neg : Bool) (n : Nat) (inexact : Bool) (half : Ordering) : Bool :=
  inexact && match mode with
    | .rne => half == .gt || (half == .eq && n % 2 == 1)
    | .rtz => false
    | .rdn => neg
    | .rup => !neg
    | .rna => half != .lt
    | .odd => n % 2 == 0

/-- A magnitude q times 2^e, with more below the last bit where sticky, rounded to a multiple of 2^lsb: the multiple and
whether it is inexact. -/
def roundAt (mode : Round) (neg : Bool) (q : Nat) (e : Int) (sticky : Bool) (lsb : Int) : Nat × Bool :=
  if lsb ≤ e then
    let n := q * 2 ^ (e - lsb).toNat
    (if roundUp mode neg n sticky .lt then n + 1 else n, sticky)
  else
    let sh := (lsb - e).toNat
    let n := q / 2 ^ sh
    let r := q % 2 ^ sh
    let h := 2 ^ (sh - 1)
    let inexact := sticky || r != 0
    let half : Ordering := if r < h then .lt else if r = h ∧ sticky = false then .eq else .gt
    (if roundUp mode neg n inexact half then n + 1 else n, inexact)

/-- The pattern that overflow delivers (R91). -/
def FFormat.overflow (f : FFormat) (mode : Round) (neg : Bool) : Nat :=
  let toInf := match mode with
    | .rne | .rna => true
    | .rtz | .odd => false
    | .rdn => neg
    | .rup => !neg
  f.signed neg (if toInf then f.inf else f.inf - 1)

/-- A nonzero magnitude rounded to a format, with its flags (R91, R94). -/
def FFormat.pack (f : FFormat) (mode : Round) (neg : Bool) (q : Nat) (e : Int) (sticky : Bool) : Nat × Flags :=
  let top : Int := (bitLen q : Int) - 1 + e
  let emin : Int := 1 - (f.bias : Int)
  let free := top - f.fbits
  let lsb := max free (emin - f.fbits)
  let r := roundAt mode neg q e sticky lsb
  let p := ((lsb + f.fbits + f.bias).toNat - 1) * 2 ^ f.fbits + r.1
  if f.inf ≤ p then (f.overflow mode neg, ⟨false, false, true, false, true⟩)
  else
    let unbounded := (roundAt mode neg q e sticky free).1
    let tiny := decide (top < emin) && !(decide (top = emin - 1) && unbounded == 2 ^ (f.fbits + 1))
    (f.signed neg p, ⟨false, false, false, tiny && r.2, r.2⟩)

/-- An exact number n times 2^e, its zero given a sign, rounded to a format. -/
def FFormat.ofExact (f : FFormat) (mode : Round) (n : Int) (e : Int) (zeroNeg : Bool) : Nat × Flags :=
  if n = 0 then (f.signed zeroNeg 0, .none) else f.pack mode (decide (n < 0)) n.natAbs e false

/-- A finite value as an integer times 2^e. -/
def signedMag (neg : Bool) (m : Nat) : Int := if neg then -(m : Int) else m

/-- The sum of two exact numbers, as an integer and an exponent. -/
def addExact (n1 : Int) (e1 : Int) (n2 : Int) (e2 : Int) : Int × Int :=
  let e := min e1 e2
  (n1 * 2 ^ (e1 - e).toNat + n2 * 2 ^ (e2 - e).toNat, e)

/-- A NaN result and its flag (R84, R94). -/
def FFormat.nanResult (f : FFormat) (nv : Bool) : Nat × Flags := (f.qnan, .invalid nv)

/-- Whether a value is a signalling NaN. -/
def FV.snan : FV → Bool
  | .nan s => s
  | _ => false

/-- Addition of two values into a format (R93, R128).  The zero rule is taken of the two values added, which for a difference are a
and -b and for a fused operation the product and the addend (DEDUCED, log 91). -/
def FFormat.addV (f : FFormat) (mode : Round) (a b : FV) : Nat × Flags :=
  match a, b with
  | .nan _, _ => f.nanResult (a.snan || b.snan)
  | _, .nan _ => f.nanResult (a.snan || b.snan)
  | .inf s, .inf t => if s = t then (f.signed s f.inf, .none) else f.nanResult true
  | .inf s, .fin _ _ _ => (f.signed s f.inf, .none)
  | .fin _ _ _, .inf t => (f.signed t f.inf, .none)
  | .fin s m e, .fin t n g =>
    let r := addExact (signedMag s m) e (signedMag t n) g
    f.ofExact mode r.1 r.2 (if m = 0 ∧ n = 0 ∧ s = t then s else decide (mode = .rdn))

/-- A value with its sign inverted; a NaN stays. -/
def FV.neg : FV → FV
  | .nan s => .nan s
  | .inf s => .inf (!s)
  | .fin s m e => .fin (!s) m e

/-- Multiplication (R128). -/
def FFormat.mulV (f : FFormat) (mode : Round) (a b : FV) : Nat × Flags :=
  match a, b with
  | .nan _, _ => f.nanResult (a.snan || b.snan)
  | _, .nan _ => f.nanResult (a.snan || b.snan)
  | .inf s, .inf t => (f.signed (s != t) f.inf, .none)
  | .inf s, .fin t n _ => if n = 0 then f.nanResult true else (f.signed (s != t) f.inf, .none)
  | .fin s m _, .inf t => if m = 0 then f.nanResult true else (f.signed (s != t) f.inf, .none)
  | .fin s m e, .fin t n g => f.ofExact mode (signedMag (s != t) (m * n)) (e + g) (s != t)

/-- Multiplication and addition with one rounding (R131). -/
def FFormat.fmaV (f : FFormat) (mode : Round) (a b c : FV) : Nat × Flags :=
  let zeroInf := match a, b with
    | .inf _, .fin _ n _ => n == 0
    | .fin _ m _, .inf _ => m == 0
    | _, _ => false
  if zeroInf then f.nanResult true
  else
    match a, b, c with
    | .nan _, _, _ => f.nanResult (a.snan || b.snan || c.snan)
    | _, .nan _, _ => f.nanResult (a.snan || b.snan || c.snan)
    | _, _, .nan _ => f.nanResult (a.snan || b.snan || c.snan)
    | .fin s m e, .fin t n g, .fin r k h =>
      let x := addExact (signedMag (s != t) (m * n)) (e + g) (signedMag r k) h
      f.ofExact mode x.1 x.2 (if m * n = 0 ∧ k = 0 ∧ (s != t) = r then r else decide (mode = .rdn))
    | .fin _ _ _, .fin _ _ _, .inf r => (f.signed r f.inf, .none)
    | a, b, c =>
      let sign := match a, b with
        | .inf s, .inf t => s != t
        | .inf s, .fin t _ _ => s != t
        | .fin s _ _, .inf t => s != t
        | _, _ => false
      match c with
      | .inf r => if r = sign then (f.signed r f.inf, .none) else f.nanResult true
      | _ => (f.signed sign f.inf, .none)

/-- Division (R128). -/
def FFormat.divV (f : FFormat) (mode : Round) (a b : FV) : Nat × Flags :=
  match a, b with
  | .nan _, _ => f.nanResult (a.snan || b.snan)
  | _, .nan _ => f.nanResult (a.snan || b.snan)
  | .inf _, .inf _ => f.nanResult true
  | .inf s, .fin t _ _ => (f.signed (s != t) f.inf, .none)
  | .fin s _ _, .inf t => (f.signed (s != t) 0, .none)
  | .fin s m e, .fin t n g =>
    if n = 0 then (if m = 0 then f.nanResult true else (f.signed (s != t) f.inf, .divZero))
    else if m = 0 then (f.signed (s != t) 0, .none)
    else
      let k := f.fbits + 4 + bitLen n
      let q := m * 2 ^ k / n
      f.pack mode (s != t) q (e - g - k) (m * 2 ^ k % n != 0)

/-- Integer square root: the bits of r from bit k - 1 down. -/
def isqrtFrom (n : Nat) : Nat → Nat → Nat
  | 0, r => r
  | k + 1, r => if (r + 2 ^ k) * (r + 2 ^ k) ≤ n then isqrtFrom n k (r + 2 ^ k) else isqrtFrom n k r
/-- Integer square root. -/
def isqrt (n : Nat) : Nat := isqrtFrom n (bitLen n / 2 + 1) 0

/-- Square root (R128). -/
def FFormat.sqrtV (f : FFormat) (mode : Round) (a : FV) : Nat × Flags :=
  match a with
  | .nan s => f.nanResult s
  | .inf s => if s then f.nanResult true else (f.inf, .none)
  | .fin s m e =>
    if m = 0 then (f.signed s 0, .none)
    else if s then f.nanResult true
    else
      let odd := e % 2 != 0
      let m1 := if odd then 2 * m else m
      let e1 := if odd then e - 1 else e
      let k := f.fbits + 4
      let n := m1 * 2 ^ (2 * k)
      let r := isqrt n
      f.pack mode false r (e1 / 2 - k) (r * r != n)

/-! ## Comparison, minimum and maximum (R112, R129) -/

/-- Whether a is below b, both being numbers; zeros of either sign are equal. -/
def FV.lt (a b : FV) : Bool :=
  match a, b with
  | .inf s, .inf t => s && !t
  | .inf s, .fin _ _ _ => s
  | .fin _ _ _, .inf t => !t
  | .fin s m e, .fin t n g =>
    let x := addExact (signedMag s m) e (-(signedMag t n)) g
    decide (x.1 < 0)
  | _, _ => false
/-- Whether two numbers are equal. -/
def FV.eqv (a b : FV) : Bool :=
  match a, b with
  | .inf s, .inf t => s == t
  | .fin s m e, .fin t n g => decide ((addExact (signedMag s m) e (-(signedMag t n)) g).1 = 0)
  | _, _ => false
/-- Whether a value is a NaN. -/
def FV.isNan : FV → Bool
  | .nan _ => true
  | _ => false
/-- The sign bit of a value. -/
def FV.sign : FV → Bool
  | .nan _ => false
  | .inf s => s
  | .fin s _ _ => s

/-- FMIN and FMAX of two patterns (R129). -/
def FFormat.minMax (f : FFormat) (mx : Bool) (p q : Nat) : Nat × Flags :=
  let a := f.unpack p
  let b := f.unpack q
  let fl := Flags.invalid (a.snan || b.snan)
  if a.isNan && b.isNan then (f.qnan, fl)
  else if a.isNan then (q, fl)
  else if b.isNan then (p, fl)
  else
    let below := a.lt b || (a.eqv b && a.sign && !b.sign)
    (if mx then (if below then q else p) else (if below then p else q), fl)

/-- FCMP of two patterns: the relation and NV (R112). -/
def FFormat.compare (f : FFormat) (r : FRel) (p q : Nat) : Bool × Flags :=
  let a := f.unpack p
  let b := f.unpack q
  let nan := a.isNan || b.isNan
  let snan := a.snan || b.snan
  match r with
  | .eq => (!nan && a.eqv b, .invalid snan)
  | .lt => (!nan && a.lt b, .invalid nan)
  | .le => (!nan && (a.lt b || a.eqv b), .invalid nan)
  | .un => (nan, .invalid snan)

/-! ## Special functions (R132) -/

/-- ln 2 in units of 2^-p, rounded down: the sum of floor(2^p / (k 2^k)) for k from 1 to n, at most n below the truth. -/
def ln2Sum (p : Nat) : Nat → Nat
  | 0 => 0
  | k + 1 => ln2Sum p k + 2 ^ p / ((k + 1) * 2 ^ (k + 1))
/-- Bounds of ln 2 in units of 2^-p. -/
def ln2 (p : Nat) : Nat × Nat := (ln2Sum p p, ln2Sum p p + p + 2)

/-- Bounds of exp(y) in units of 2^-p, for y between ylo and yhi in the same units and below 1: n terms from term k, with
the last terms and the sums so far. -/
def expTerms (p ylo yhi : Nat) : Nat → Nat → Nat → Nat → Nat → Nat → Nat × Nat
  | 0, _, _, thi, slo, shi => (slo, shi + 2 * thi + 2)
  | n + 1, k, tlo, thi, slo, shi =>
    let tlo' := tlo * ylo / (k * 2 ^ p)
    let thi' := thi * yhi / (k * 2 ^ p) + 1
    expTerms p ylo yhi n (k + 1) tlo' thi' (slo + tlo') (shi + thi')

/-- Bounds of 2^(m / 2^d), 0 <= m < 2^d, in units of 2^-p. -/
def exp2Bounds (p m d : Nat) : Nat × Nat :=
  let l := ln2 p
  expTerms p (m * l.1 / 2 ^ d) (m * l.2 / 2 ^ d + 1) (p / 3 + 8) 1 (2 ^ p) (2 ^ p) (2 ^ p) (2 ^ p)

/-- Bounds of atanh(a / b) for 3 a <= b, in units of 2^-p: n terms from z^k / k. -/
def atanhTerms (p a b : Nat) : Nat → Nat → Nat → Nat → Nat → Nat → Nat × Nat
  | 0, _, _, zhi, slo, shi => (slo, shi + 2 * zhi + 2)
  | n + 1, k, zlo, zhi, slo, shi =>
    atanhTerms p a b n (k + 2) (zlo * a * a / (b * b)) (zhi * a * a / (b * b) + 1) (slo + zlo / k) (shi + zhi / k + 1)

/-- Bounds of log2(a / b) for b <= a < 2 b, in units of 2^-p. -/
def log2Bounds (p a b : Nat) : Nat × Nat :=
  let x := a - b
  let y := a + b
  let z := x * 2 ^ p / y
  let t := atanhTerms p x y (p / 3 + 8) 1 z (z + 1) 0 0
  let l := ln2 p
  (2 * t.1 * 2 ^ p / l.2, 2 * t.2 * 2 ^ p / l.1 + 1)

/-- The first of a list of precisions at which two bounds agree in the k bits kept, as the magnitude kept, in units of
2^-p'; the last one's lower bound where none does (log 6). -/
def settle (k : Nat) (bounds : Nat → Nat × Nat) : List Nat → Nat × Int
  | [] => (1, 0)
  | p :: ps =>
    let b := bounds p
    let sh := bitLen b.1 - k
    if k ≤ bitLen b.1 ∧ b.1 / 2 ^ sh = b.2 / 2 ^ sh then (b.1 / 2 ^ sh, (sh : Int) - p)
    else match ps with
      | [] => (max 1 (b.1 / 2 ^ sh), (sh : Int) - p)
      | _ => settle k bounds ps

/-- Working precisions tried in turn. -/
def precisions : List Nat := [72, 200, 400, 800]

/-- 2^a (R132). -/
def FFormat.exp2V (f : FFormat) (mode : Round) (a : FV) : Nat × Flags :=
  match a with
  | .nan s => f.nanResult s
  | .inf s => (if s then 0 else f.inf, .none)
  | .fin s m e =>
    if m = 0 then f.pack mode false 1 0 false
    else if (11 : Int) ≤ (bitLen m : Int) + e then f.pack mode false 1 (if s then -4000 else 4000) true
    else if 0 ≤ e then
      f.pack mode false 1 (if s then -(m * 2 ^ e.toNat : Int) else (m * 2 ^ e.toNat : Int)) false
    else
      let d := (-e).toNat
      let x := signedMag s m
      let n := x / (2 ^ d : Int)
      let fr := (x % (2 ^ d : Int)).toNat
      if fr = 0 then f.pack mode false 1 n false
      else
        let r := settle (f.fbits + 6) (fun p => exp2Bounds p fr d) precisions
        f.pack mode false r.1 (r.2 + n) true

/-- log2 a (R132). -/
def FFormat.log2V (f : FFormat) (mode : Round) (a : FV) : Nat × Flags :=
  match a with
  | .nan s => f.nanResult s
  | .inf s => if s then f.nanResult true else (f.inf, .none)
  | .fin s m e =>
    if m = 0 then (f.signed true f.inf, .divZero)
    else if s then f.nanResult true
    else
      let k := bitLen m - 1
      let ex : Int := e + k
      if m = 2 ^ k then f.ofExact mode ex 0 false
      else if 0 ≤ ex then
        let r := settle (f.fbits + 6) (fun p => let b := log2Bounds p m (2 ^ k)
          (ex.toNat * 2 ^ p + b.1, ex.toNat * 2 ^ p + b.2)) precisions
        f.pack mode false r.1 r.2 true
      else
        let n := (-ex).toNat
        let r := settle (f.fbits + 6) (fun p => let b := log2Bounds p m (2 ^ k)
          (n * 2 ^ p - b.2, n * 2 ^ p - b.1)) precisions
        f.pack mode true r.1 r.2 true

/-! ## Conversions (R96, R97) -/

/-- A value rounded to another format. -/
def FFormat.convert (f : FFormat) (mode : Round) (a : FV) : Nat × Flags :=
  match a with
  | .nan s => f.nanResult s
  | .inf s => (f.signed s f.inf, .none)
  | .fin s m e => if m = 0 then (f.signed s 0, .none) else f.pack mode s m e false

/-- A quotient of magnitudes rounded to an integer, and whether it is inexact. -/
def roundRat (mode : Round) (neg : Bool) (num den : Nat) : Nat × Bool :=
  let n := num / den
  let r := num % den
  let half : Ordering := compare (2 * r) den
  (if roundUp mode neg n (r != 0) half then n + 1 else n, r != 0)

/-- An integer saturated to a range. -/
def clampInt (lo hi x : Int) : Int := if x < lo then lo else if hi < x then hi else x

/-- A float rounded to an integer of w bits and saturated (R97): the pattern and its flags. -/
def toInt (mode : Round) (w : Nat) (a : FV) : Nat × Flags :=
  let lo : Int := -(2 ^ (w - 1))
  let hi : Int := 2 ^ (w - 1) - 1
  let pat (x : Int) : Nat := (x % (2 ^ w : Int)).toNat
  match a with
  | .nan _ => (0, .invalid true)
  | .inf s => (pat (if s then lo else hi), .invalid true)
  | .fin s m e =>
    if m = 0 then (0, .none)
    else if (70 : Int) ≤ (bitLen m : Int) + e then (pat (if s then lo else hi), .invalid true)
    else
      let r := roundAt mode s m e false 0
      let x := signedMag s r.1
      if lo ≤ x ∧ x ≤ hi then (pat x, .inexact r.2) else (pat (clampInt lo hi x), .invalid true)

/-- An integer rounded to a float format. -/
def FFormat.ofInt (f : FFormat) (mode : Round) (x : Int) : Nat × Flags := f.ofExact mode x 0 false

/-! ## Sums of many terms (R98, R99, R103) -/

/-- What a sum has met so far: NaNs, infinities, whether every term was a negative zero, a nonzero term, and the exact
sum. -/
structure FSum where
  nan : Bool
  posInf : Bool
  negInf : Bool
  allNegZero : Bool
  n : Int
  e : Int

/-- The empty sum. -/
def FSum.start : FSum := ⟨false, false, false, true, 0, 0⟩
/-- A term added exactly. -/
def FSum.add (s : FSum) (a : FV) : FSum :=
  match a with
  | .nan _ => { s with nan := true }
  | .inf neg => if neg then { s with negInf := true, allNegZero := false }
                else { s with posInf := true, allNegZero := false }
  | .fin neg m e =>
    if m = 0 then { s with allNegZero := s.allNegZero && neg }
    else
      let r := if s.n = 0 then (signedMag neg m, e) else addExact s.n s.e (signedMag neg m) e
      { s with allNegZero := false, n := r.1, e := r.2 }
/-- The exact product of two values as a term; 0 times infinity is a NaN (R99). -/
def FV.mul (a b : FV) : FV :=
  match a, b with
  | .nan _, _ => .nan false
  | _, .nan _ => .nan false
  | .inf s, .inf t => .inf (s != t)
  | .inf s, .fin t n _ => if n = 0 then .nan false else .inf (s != t)
  | .fin s m _, .inf t => if m = 0 then .nan false else .inf (s != t)
  | .fin s m e, .fin t n g => .fin (s != t) (m * n) (e + g)
/-- The sum rounded once to FP32 by RNE (R98, R99). -/
def FSum.round (s : FSum) : Nat :=
  if s.nan || (s.posInf && s.negInf) then fp32.qnan
  else if s.posInf then fp32.inf
  else if s.negInf then fp32.signed true fp32.inf
  else if s.n = 0 then (if s.allNegZero then fp32.signed true 0 else 0)
  else (fp32.ofExact .rne s.n s.e false).1

/-- Two FP32 patterns added by RNE (R103 step 2). -/
def addRne (p q : Nat) : Nat := (fp32.addV .rne (fp32.unpack p) (fp32.unpack q)).1

/-- The left fold of R103: 64 fixed slices of the terms, then the partial sums of the slices that are not empty. -/
def mergeSlices {α : Type} (add : α → α → α) (ts : List α) : Option α :=
  let fold (l : List α) : Option α := match l with | [] => none | t :: m => some (m.foldl add t)
  let n := ts.length
  fold ((List.range 64).filterMap (fun k =>
    fold ((ts.drop (k * n / 64)).take ((k + 1) * n / 64 - k * n / 64))))

end Sys2Proof.Machine
end

