-- ==== Sys2Proof/Machine/Operands.lean ====
section
/-! DEFINITION. Operand forms: immediates, branch targets, effective addresses, lanes and access sizes (R53, R61, R62, R105,
R250, R252). -/

namespace Sys2Proof

/-! ## Suffixes (R61, R62, R133, R250) -/

/-- Lane width of a shape. -/
def Shape.width : Shape → Nat
  | .b8 => 8 | .h16 => 16 | .w32 => 32
/-- Lanes of a shape. -/
def Shape.lanes (h : Shape) : Nat := 64 / h.width
/-- The format of a float suffix. -/
def FFmt.format : FFmt → Machine.FFormat
  | .f32 => Machine.fp32 | .bf => Machine.bf16 | .h => Machine.fp16
/-- Lane width of a float suffix. -/
def FFmt.width : FFmt → Nat
  | .f32 => 32 | .bf => 16 | .h => 16
/-- Width of a CVT format (R133). -/
def CFmt.width : CFmt → Nat
  | .f32 => 32 | .bf => 16 | .h => 16 | .i32 => 32 | .i16 => 16 | .i8 => 8
/-- The float format of a CVT format, if it is one. -/
def CFmt.float : CFmt → Option Machine.FFormat
  | .f32 => some Machine.fp32 | .bf => some Machine.bf16 | .h => some Machine.fp16 | _ => none

/-- Bytes of a load size. -/
def LdSize.bytes : LdSize → Nat
  | .bz => 1 | .hz => 2 | .wz => 4 | .d => 8 | .bs => 1 | .hs => 2 | .ws => 4
/-- Whether a load size sign-extends. -/
def LdSize.signed : LdSize → Bool
  | .bs | .hs | .ws => true
  | _ => false
/-- Bytes of a store size. -/
def StSize.bytes : StSize → Nat
  | .b => 1 | .h => 2 | .w => 4 | .d => 8
/-- A loaded value extended to a doubleword (R250). -/
def LdSize.extend (z : LdSize) (v : Nat) : W64 :=
  if z.signed then BitVec.ofInt 64 (Machine.signed (8 * z.bytes) v) else Machine.w64 v
end Sys2Proof

namespace Sys2Proof.Machine

/-- A signed immediate as a doubleword (R53). -/
def imm64 {n : Nat} (i : BitVec n) : W64 := i.signExtend 64
/-- The target of a word offset (R53). -/
def branchTarget {n : Nat} (pc : VAddr) (off : BitVec n) : VAddr := pc + 4#56 * off.signExtend 56
/-- The low 56 bits of a register as an address. -/
def regVa (v : W64) : VAddr := v.setWidth 56
/-- The return address that CALL and CALLR write (R108). -/
def returnAddress (pc : VAddr) : W64 := (pc + 4).setWidth 64

/-! ## Lanes (R105) -/

/-- Lane i of width w. -/
def lane (x : W64) (w i : Nat) : Nat := x.toNat / 2 ^ (w * i) % 2 ^ w
/-- Lane i as two's complement. -/
def slane (x : W64) (w i : Nat) : Int := signed w (lane x w i)
/-- A doubleword of lanes given by their index, from lane 0. -/
def ofLanes (w n : Nat) (f : Nat → Nat) : W64 :=
  w64 ((List.range n).foldl (fun acc i => acc + f i % 2 ^ w * 2 ^ (w * i)) 0)
/-- The pattern of an integer in w bits. -/
def patOf (w : Nat) (x : Int) : Nat := (x % (2 ^ w : Int)).toNat

/-- Lane results with the OR of their flags (R95). -/
def floatLanes (w n : Nat) (f : Nat → Nat × Flags) : W64 × Flags :=
  (ofLanes w n (fun i => (f i).1), (List.range n).foldl (fun acc i => acc.or (f i).2) .none)

/-! ## Memory operands (R250, R252) -/

/-- The effective address of LD and ST (R250). -/
def eaDisp (l : Line) (base : Reg) (disp : BitVec 8) (n : Nat) : Nat :=
  (l.reg base + imm64 disp * BitVec.ofNat 64 n).toNat % 2 ^ 56
/-- The effective address of LDX and STX (R252). -/
def eaIndex (l : Line) (a b : Reg) (n : Nat) : Nat :=
  (l.reg a + l.reg b * BitVec.ofNat 64 n).toNat % 2 ^ 56

/-- Every general register, as SPAWN reads them (R320). -/
def allRegs : List Reg := [0, 1, 2, 3, 4, 5, 6, 7]

end Sys2Proof.Machine
end

