-- ==== Sys2Proof/Machine/Crypto.lean ====
section
/-! DEFINITION. The cryptographic functions that the spec names, from the standards it names: AES (FIPS 197), XTS (IEEE 1619), CMAC (RFC
4493) and SHA-384 (R16, R361-R363, R365, R371). -/

namespace Sys2Proof.Machine

/-! ## AES (FIPS 197) -/

/-- The S-box as one number: the byte for x stands at bits [8x + 7 : 8x]. -/
def aesSbox : Nat :=
  0x16BB54B00F2D99416842E6BF0D89A18CDF2855CEE9871E9B948ED9691198F8E19E1DC186B95735610EF6034866B53E708A8BBD4B1F74DDE8C6B4A61C2E2578BA08AE7A65EAF4566CA94ED58D6D37C8E779E4959162ACD3C25C2406490A3A32E0DB0B5EDE14B8EE4688902A22DC4F816073195D643D7EA7C41744975FEC130CCDD2F3FF1021DAB6BCF5389D928F40A351A89F3C507F02F94585334D43FBAAEFD0CF584C4A39BECB6A5BB1FC20ED00D153842FE329B3D63B52A05A6E1B1A2C830975B227EBE28012079A059618C323C7041531D871F1E5A534CCF73F362693FDB7C072A49CAFA2D4ADF04759FA7DC982CA76ABD7FE2B670130C56F6BF27B777C63
/-- The inverse S-box, laid out in the same way. -/
def aesInvSbox : Nat :=
  0x7D0C2155631469E126D677BA7E042B17619953833CBBEBC8B0F52AAE4D3BE0A0EF9CC9939F7AE52D0D4AB519A97F51605FEC8027591012B131C7078833A8DD1FF45ACD78FEC0DB9A2079D2C64B3E56FC1BBE18AA0E62B76F89C5291D711AF1476EDF751CE837F9E28535ADE72274AC9673E6B4F0CECFF297EADC674F4111913A6B8A130103BDAFC1020F3FCA8F1E2CD00645B3B80558E4F70AD3BC8C00ABD890849D8DA75746155EDAB9EDFD5048706C92B6655DCC5CA4D41698688664F6F87225D18B6D49A25B76B224D92866A12E084EC3FA420B954CEE3D23C2A632947B54CBE9DEC444438E3487FF2F9B8239E37CFBD7F3819EA340BF38A53630D56A0952
/-- The byte of a table for a byte. -/
def tableByte (table : Nat) (b : Byte) : Byte := BitVec.ofNat 8 (table / 2 ^ (8 * b.toNat))

/-- Twice a byte in the field of AES. -/
def xtime (b : Byte) : Byte := if b.getLsbD 7 then (b <<< 1) ^^^ 0x1B#8 else b <<< 1
/-- A byte times a number below 16 in the field of AES. -/
def gmul (b : Byte) (n : Nat) : Byte :=
  (if n.testBit 0 then b else 0) ^^^ (if n.testBit 1 then xtime b else 0) ^^^ (if n.testBit 2 then xtime (xtime b) else 0) ^^^
  (if n.testBit 3 then xtime (xtime (xtime b)) else 0)

/-- Two lists of bytes, byte by byte. -/
def xorBytes (a b : List Byte) : List Byte := a.zipWith (fun x y => x ^^^ y) b

/-- The round constants. -/
def aesRcon : List Byte := [0x01, 0x02, 0x04, 0x08, 0x10, 0x20, 0x40, 0x80, 0x1B, 0x36]

/-- The next word of a key schedule from the words so far, last first: nk words of key, i words done. -/
def nextWord (nk i : Nat) (ws : List (List Byte)) : List Byte :=
  let temp := nth ws 0 []
  let sub (w : List Byte) : List Byte := w.map (tableByte aesSbox)
  let t := if i % nk = 0 then xorBytes (sub (temp.drop 1 ++ temp.take 1)) [nth aesRcon (i / nk - 1) 0, 0, 0, 0]
    else if 6 < nk ∧ i % nk = 4 then sub temp else temp
  xorBytes (nth ws (nk - 1) []) t

/-- The words of a key schedule, last first: n words more after i. -/
def expandKey (nk : Nat) : Nat → Nat → List (List Byte) → List (List Byte)
  | 0, _, ws => ws
  | n + 1, i, ws => expandKey nk n (i + 1) (nextWord nk i ws :: ws)

/-- The round keys of a key of 16 or 32 bytes, first to last: 11 or 15 keys of 16 bytes. -/
def roundKeys (key : List Byte) : List (List Byte) :=
  let nk := key.length / 4
  let ws := (expandKey nk (4 * (nk + 7) - nk) nk (chunks 4 nk key).reverse).reverse
  (chunks 4 (nk + 7) ws).map List.flatten

/-- ShiftRows: byte i of a state stands in row i mod 4 and column i / 4. -/
def shiftRows (s : List Byte) : List Byte := (List.range 16).map (fun i => nth s ((i + 4 * (i % 4)) % 16) 0)
/-- InvShiftRows. -/
def invShiftRows (s : List Byte) : List Byte := (List.range 16).map (fun i => nth s ((i + 16 - 4 * (i % 4)) % 16) 0)
/-- MixColumns with the first row of its matrix. -/
def mixColumns (row : List Nat) (s : List Byte) : List Byte :=
  (List.range 16).map (fun i =>
    (List.range 4).foldl (fun b r => b ^^^ gmul (nth s (i / 4 * 4 + r) 0) (nth row ((r + 4 - i % 4) % 4) 0)) 0)

/-- The rounds of the cipher after the first key. -/
def aesRounds : List (List Byte) → List Byte → List Byte
  | [], s => s
  | [k], s => xorBytes (shiftRows (s.map (tableByte aesSbox))) k
  | k :: ks, s => aesRounds ks (xorBytes (mixColumns [2, 3, 1, 1] (shiftRows (s.map (tableByte aesSbox)))) k)

/-- AES encryption of a block of 16 bytes. -/
def aesEncrypt (keys : List (List Byte)) (s : List Byte) : List Byte :=
  match keys with
  | [] => s
  | k :: ks => aesRounds ks (xorBytes s k)

/-- The rounds of the inverse cipher after its first key. -/
def aesInvRounds : List (List Byte) → List Byte → List Byte
  | [], s => s
  | [k], s => xorBytes ((invShiftRows s).map (tableByte aesInvSbox)) k
  | k :: ks, s => aesInvRounds ks (mixColumns [14, 11, 13, 9] (xorBytes ((invShiftRows s).map (tableByte aesInvSbox)) k))

/-- AES decryption of a block of 16 bytes. -/
def aesDecrypt (keys : List (List Byte)) (s : List Byte) : List Byte :=
  match keys.reverse with
  | [] => s
  | k :: ks => aesInvRounds ks (xorBytes s k)

/-! ## XTS (IEEE 1619) and CMAC (RFC 4493) -/

/-- A tweak of 16 bytes times alpha: the bytes lowest first, the reduction 0x87. -/
def tweakNext (t : List Byte) : List Byte :=
  let n := 2 * ofBytes t
  bytesOf (if n < 2 ^ 128 then n else n ^^^ (2 ^ 128 + 0x87)) 16

/-- Blocks of one data unit under tweaks that go on from one. -/
def xtsBlocks (f : List Byte → List Byte) : List (List Byte) → List Byte → List Byte
  | [], _ => []
  | b :: m, t => xorBytes (f (xorBytes b t)) t ++ xtsBlocks f m (tweakNext t)

/-- Bytes of a data key's two AES-256 keys: byte i of the key is bits [8i + 7 : 8i] (log 5). -/
def dataKeys (k : KeyMat) : List (List Byte) × List (List Byte) :=
  (roundKeys (bytesOf (k.1.toNat % 2 ^ 256) 32), roundKeys (bytesOf (k.1.toNat / 2 ^ 256) 32))

/-- AES-256-XTS of the data unit of a number: a block of DRAM (R362). -/
def xtsEncrypt (k : KeyMat) (unit : Nat) (data : List Byte) : List Byte :=
  let ks := dataKeys k
  xtsBlocks (aesEncrypt ks.1) (chunks 16 4 data) (aesEncrypt ks.2 (bytesOf unit 16))
/-- Its inverse. -/
def xtsDecrypt (k : KeyMat) (unit : Nat) (data : List Byte) : List Byte :=
  let ks := dataKeys k
  xtsBlocks (aesDecrypt ks.1) (chunks 16 4 data) (aesEncrypt ks.2 (bytesOf unit 16))

/-- The first subkey of CMAC for messages of whole blocks: L doubled, bytes highest first. -/
def cmacKey (ks : List (List Byte)) : List Byte :=
  let n := 2 * ofBytes (aesEncrypt ks (List.replicate 16 0)).reverse
  (bytesOf (if n < 2 ^ 128 then n else n ^^^ (2 ^ 128 + 0x87)) 16).reverse

/-- CMAC over the blocks of a message from a chaining value on. -/
def cmacBlocks (ks : List (List Byte)) : List (List Byte) → List Byte → List Byte
  | [], x => x
  | [b], x => aesEncrypt ks (xorBytes (xorBytes b (cmacKey ks)) x)
  | b :: m, x => cmacBlocks ks m (aesEncrypt ks (xorBytes b x))

/-- AES-CMAC of a message of n whole blocks of 16 bytes. -/
def cmac (key : List Byte) (n : Nat) (m : List Byte) : List Byte :=
  cmacBlocks (roundKeys key) (chunks 16 n m) (List.replicate 16 0)

/-- The seven tag bytes of a block (R363): of its ciphertext, its number PA[51:6], its full/empty bits and the key slot. -/
def blockMac (k : KeyMat) (block kslot : Nat) (cipher : List Byte) (fe : Byte) : List Byte :=
  (cmac (bytesOf k.2.toNat 16) 5 (cipher ++ bytesOf block 8 ++ [fe, BitVec.ofNat 8 kslot] ++ List.replicate 6 0)).take 7

/-! ## SHA-384 (FIPS 180) -/

/-- The constants of the rounds. -/
def shaConstants : List W64 := [
  0x428A2F98D728AE22, 0x7137449123EF65CD, 0xB5C0FBCFEC4D3B2F, 0xE9B5DBA58189DBBC,
  0x3956C25BF348B538, 0x59F111F1B605D019, 0x923F82A4AF194F9B, 0xAB1C5ED5DA6D8118,
  0xD807AA98A3030242, 0x12835B0145706FBE, 0x243185BE4EE4B28C, 0x550C7DC3D5FFB4E2,
  0x72BE5D74F27B896F, 0x80DEB1FE3B1696B1, 0x9BDC06A725C71235, 0xC19BF174CF692694,
  0xE49B69C19EF14AD2, 0xEFBE4786384F25E3, 0x0FC19DC68B8CD5B5, 0x240CA1CC77AC9C65,
  0x2DE92C6F592B0275, 0x4A7484AA6EA6E483, 0x5CB0A9DCBD41FBD4, 0x76F988DA831153B5,
  0x983E5152EE66DFAB, 0xA831C66D2DB43210, 0xB00327C898FB213F, 0xBF597FC7BEEF0EE4,
  0xC6E00BF33DA88FC2, 0xD5A79147930AA725, 0x06CA6351E003826F, 0x142929670A0E6E70,
  0x27B70A8546D22FFC, 0x2E1B21385C26C926, 0x4D2C6DFC5AC42AED, 0x53380D139D95B3DF,
  0x650A73548BAF63DE, 0x766A0ABB3C77B2A8, 0x81C2C92E47EDAEE6, 0x92722C851482353B,
  0xA2BFE8A14CF10364, 0xA81A664BBC423001, 0xC24B8B70D0F89791, 0xC76C51A30654BE30,
  0xD192E819D6EF5218, 0xD69906245565A910, 0xF40E35855771202A, 0x106AA07032BBD1B8,
  0x19A4C116B8D2D0C8, 0x1E376C085141AB53, 0x2748774CDF8EEB99, 0x34B0BCB5E19B48A8,
  0x391C0CB3C5C95A63, 0x4ED8AA4AE3418ACB, 0x5B9CCA4F7763E373, 0x682E6FF3D6B2B8A3,
  0x748F82EE5DEFB2FC, 0x78A5636F43172F60, 0x84C87814A1F0AB72, 0x8CC702081A6439EC,
  0x90BEFFFA23631E28, 0xA4506CEBDE82BDE9, 0xBEF9A3F7B2C67915, 0xC67178F2E372532B,
  0xCA273ECEEA26619C, 0xD186B8C721C0C207, 0xEADA7DD6CDE0EB1E, 0xF57D4F7FEE6ED178,
  0x06F067AA72176FBA, 0x0A637DC5A2C898A6, 0x113F9804BEF90DAE, 0x1B710B35131C471B,
  0x28DB77F523047D84, 0x32CAAB7B40C72493, 0x3C9EBE0A15C9BEBC, 0x431D67C49C100D4C,
  0x4CC5D4BECB3E42B6, 0x597F299CFC657E2A, 0x5FCB6FAB3AD6FAEC, 0x6C44198C4A475817]
/-- The first hash value. -/
def shaInitial : List W64 := [0xCBBB9D5DC1059ED8, 0x629A292A367CD507, 0x9159015A3070DD17, 0x152FECD8F70E5939, 0x67332667FFC00B31, 0x8EB44A8768581511, 0xDB0C2E0D64F98FA7, 0x47B5481DBEFA4FA4]

/-- A rotation to the right. -/
def rotr (x : W64) (n : Nat) : W64 := (x >>> n) ||| (x <<< (64 - n))

/-- The message schedule, last word first: n words more. -/
def shaSchedule : Nat → List W64 → List W64
  | 0, ws => ws
  | n + 1, ws =>
    let a := nth ws 14 0
    let b := nth ws 1 0
    let s0 := rotr a 1 ^^^ rotr a 8 ^^^ (a >>> 7)
    let s1 := rotr b 19 ^^^ rotr b 61 ^^^ (b >>> 6)
    shaSchedule n ((nth ws 15 0 + s0 + nth ws 6 0 + s1) :: ws)

/-- The rounds over a schedule and the constants: the eight working words. -/
def shaRounds : List W64 → List W64 → List W64 → List W64
  | w :: ws, k :: ks, [a, b, c, d, e, f, g, h] =>
    let s1 := rotr e 14 ^^^ rotr e 18 ^^^ rotr e 41
    let ch := (e &&& f) ^^^ (~~~e &&& g)
    let t1 := h + s1 + ch + k + w
    let s0 := rotr a 28 ^^^ rotr a 34 ^^^ rotr a 39
    let maj := (a &&& b) ^^^ (a &&& c) ^^^ (b &&& c)
    shaRounds ws ks [t1 + (s0 + maj), a, b, c, d + t1, e, f, g]
  | _, _, x => x

/-- One block of 128 bytes into a hash value. -/
def shaBlock (h : List W64) (block : List Byte) : List W64 :=
  let ws := (chunks 8 16 block).map (fun b => w64 (ofBytes b.reverse))
  h.zipWith (fun a b => a + b) (shaRounds (shaSchedule 64 ws.reverse).reverse shaConstants h)

/-- The 48 bytes of a message's SHA-384. -/
def sha384 (m : List Byte) : List Byte :=
  let zeros := (239 - m.length % 128) % 128
  let padded := m ++ [0x80] ++ List.replicate zeros 0 ++ (bytesOf (8 * m.length) 16).reverse
  let h := (chunks 128 (padded.length / 128) padded).foldl shaBlock shaInitial
  (h.take 6).flatMap (fun w => (bytesOf w.toNat 8).reverse)

end Sys2Proof.Machine
end

