-- ==== Sys2Proof/Machine/Memory.lean ====
section
/-! DEFINITION. Physical memory, the block checks of the memory integrity engine, the memory-side cache, full/empty bits,
page ownership and the arrival log (R214-R240, R361-R368, R392-R395, R406, R407, R411). -/

namespace Sys2Proof.Machine

/-! ## Bytes (canonical form: rising addresses, no zero byte listed) -/

/-- A byte of memory; an unlisted address reads as zero (R189). -/
def Memory.read (m : List Host.Cell) (a : Nat) : Byte := (Assoc.get m a).getD 0
/-- Memory with one byte written. -/
def Memory.write (m : List Host.Cell) (a : Nat) (b : Byte) : List Host.Cell :=
  if b = 0 then Assoc.erase m a else Assoc.set m a b
/-- Memory with a list of cells written. -/
def Memory.writeCells (m : List Host.Cell) (cs : List Host.Cell) : List Host.Cell :=
  cs.foldl (fun m c => Memory.write m c.1 c.2) m
/-- The canonical form. -/
def Memory.wf (m : List Host.Cell) : Bool := Assoc.sorted m && m.all (fun c => decide (c.2 ≠ 0))
/-- n bytes from an address, lowest first. -/
def Memory.readN (m : List Host.Cell) (a : Nat) : Nat → List Byte
  | 0 => []
  | n + 1 => Memory.read m a :: Memory.readN m (a + 1) n
/-- The cells of bytes laid from an address. -/
def cellsAt (a : Nat) : List Byte → List Host.Cell
  | [] => []
  | b :: m => (a, b) :: cellsAt (a + 1) m
/-- The cells of bytes laid from an address, zero bytes left out. -/
def nonzeroCells (a : Nat) : List Byte → List Host.Cell
  | [] => []
  | b :: m => if b = 0 then nonzeroCells (a + 1) m else (a, b) :: nonzeroCells (a + 1) m
/-- Memory with bytes laid from an address: what lies below, the bytes, what lies above. -/
def Memory.writeRange (m : List Host.Cell) (a : Nat) (bs : List Byte) : List Host.Cell :=
  m.filter (fun c => decide (c.1 < a)) ++ nonzeroCells a bs ++ m.filter (fun c => decide (a + bs.length ≤ c.1))
/-- A doubleword of memory. -/
def Memory.dword (m : List Host.Cell) (a : Nat) : W64 := w64 (ofBytes (Memory.readN m a 8))

/-! ## The physical map (R222, R392) -/

/-- 48 GiB (R222). -/
def stackBytes : Nat := 51539607552
/-- The stack of an address of stack memory. -/
def stackOf (pa : Nat) : Nat := pa / stackBytes
/-- The channel die, 0 or 1, of a stack (R10, R11). -/
def dieOfStack (k : Nat) : Nat := k / 6
/-- Stack memory. -/
def isStack (pa : Nat) : Bool := decide (pa < 12 * stackBytes)
/-- The host aperture. -/
def isHost (pa : Nat) : Bool := decide (0x10000000000 ≤ pa) && decide (pa < 0x100000000000)
/-- The device and stack offset of a peer-aperture address. -/
def peerOf (pa : Nat) : Option (Nat × Nat) :=
  if 0x1000000000000 ≤ pa ∧ pa < 0x1400000000000 ∧ (pa - 0x1000000000000) % 0x10000000000 < 12 * stackBytes then
    some ((pa - 0x1000000000000) / 0x10000000000, (pa - 0x1000000000000) % 0x10000000000)
  else none
/-- An unassigned address (R392). -/
def unassigned (pa : Nat) : Bool := !(isStack pa) && !(isHost pa) && (peerOf pa).isNone

/-! ## Tables of the state -/

/-- An issue unit. -/
def State.unit (s : State) (u : Nat) : Unit := (Assoc.get s.units u).getD Unit.reset
/-- The state with an issue unit replaced. -/
def State.setUnit (s : State) (u : Nat) (x : Unit) : State := { s with units := Assoc.set s.units u x }
/-- The state with an issue unit changed. -/
def State.modUnit (s : State) (u : Nat) (f : Unit → Unit) : State := s.setUnit u (f (s.unit u))
/-- A cluster. -/
def State.cluster (s : State) (c : Nat) : Cluster := (Assoc.get s.clusters c).getD Cluster.reset
/-- The state with a cluster changed. -/
def State.modCluster (s : State) (c : Nat) (f : Cluster → Cluster) : State :=
  { s with clusters := Assoc.set s.clusters c (f (s.cluster c)) }
/-- A stack controller. -/
def State.stack (s : State) (k : Nat) : Stack := (Assoc.get s.hstacks k).getD Stack.reset
/-- The state with a stack controller changed. -/
def State.modStack (s : State) (k : Nat) (f : Stack → Stack) : State :=
  { s with hstacks := Assoc.set s.hstacks k (f (s.stack k)) }
/-- A tenant's registers. -/
def State.tenant (s : State) (t : Nat) : Tenant := (Assoc.get s.tenants t).getD Tenant.reset
/-- The state with a tenant's registers changed. -/
def State.modTenant (s : State) (t : Nat) (f : Tenant → Tenant) : State :=
  { s with tenants := Assoc.set s.tenants t (f (s.tenant t)) }
/-- A queue's QWT entry. -/
def State.queue (s : State) (q : Nat) : Qwt := (Assoc.get s.qwt q).getD Qwt.reset
/-- A page ownership record (R393), by 64 KiB page number. -/
def State.pageRec (s : State) (page : Nat) : PageRec := (Assoc.get s.pageRecs page).getD PageRec.reset
/-- A message put under way. -/
def State.post (s : State) (m : Msg) : State := { s with wire := s.wire ++ [(s.nextId, m)], nextId := s.nextId + 1 }
/-- The message of a number. -/
def State.msg? (s : State) (id : Nat) : Option Msg := Assoc.get s.wire id
/-- A message under way changed, its number kept. -/
def State.changeMsg (s : State) (id : Nat) (m : Msg) : State := { s with wire := Assoc.set s.wire id m }
/-- The state without a message. -/
def State.dropMsg (s : State) (id : Nat) : State := { s with wire := Assoc.erase s.wire id }
/-- Whether a page is host-bias (R395). -/
def State.hostBias (s : State) (pa : Nat) : Bool := isStack pa && (s.pageRec (pa / 65536)).bias

/-! ## Notices (R406, R407) -/

/-- The doublewords of a message to the host (R389): the header, with TAG, TENANT, LEN, STATUS and KIND, and the payload. -/
def HostMsg.words (m : HostMsg) : List W64 :=
  (BitVec.ofNat 32 m.tag ++ BitVec.ofNat 8 m.tenant ++ BitVec.ofNat 8 m.payload.length ++ BitVec.ofNat 8 m.status ++
    BitVec.ofNat 8 m.kind) :: m.payload

/-- Sends a message to the host, or keeps a notice while the link is down: at most 256, the oldest dropped (R407). -/
def State.sendHost (s : State) (m : HostMsg) : State :=
  if s.linkUp then { s with hostOut := s.hostOut ++ [m] }
  else { s with kept := (s.kept ++ [m]).drop ((s.kept ++ [m]).length - 256) }
/-- A notice with its kind, count and words (R407). -/
def State.notice (s : State) (kind n : Nat) (ws : List W64) : State :=
  s.sendHost ⟨0x0A, 2046, 0, 0, w64 (kind + n * 256) :: ws⟩

/-! ## Blocks and their tags (R361-R368, R411) -/

/-- Entries of a channel die's quarantine table. -/
def State.quarCount (s : State) (die : Nat) : Nat :=
  (s.quarantine.filter (fun e => dieOfStack (stackOf (e.1 * 64)) == die)).length

/-- Enters a block in the quarantine table of its die, 1,024 entries, or reports that the table is full (R366). -/
def State.quarantineBlock (s : State) (block kslot : Nat) (poison : Bool) : State :=
  if s.quarCount (dieOfStack (stackOf (block * 64))) < 1024 then
    { s with quarantine := Assoc.set s.quarantine block (kslot, poison) }
  else s.notice 0x06 0 [w64 (block * 64), w64 kslot]

/-- Whether an L2 slice or the memory-side cache holds a line under a key slot, so that no read of DRAM is made (R226, R362). -/
def State.lineCached (s : State) (line kslot : Nat) : Bool :=
  s.units.any (fun u => u.2.l2.any (fun l => l.line == line && l.kslot == kslot)) ||
  ((Assoc.get (s.stack (stackOf (line * 64))).msc (line % 16384)).getD []).any (fun l => l.line == line && l.kslot == kslot)

/-- A byte of the plain data of a block in DRAM, below the dirty bytes that the memory-side cache and the L2 slices hold (R226,
R230). -/
def State.dramByte (s : State) (pa : Nat) : Byte :=
  let under (l : L2Line) : Option Byte := match Assoc.get l.dirty pa with | some b => some b | none => Assoc.get l.dropped pa
  let cached := ((Assoc.get (s.stack (stackOf pa)).msc (pa / 64 % 16384)).getD []).findSome? (fun l =>
    if l.line = pa / 64 then Assoc.get l.dirty pa else none)
  let sliced := s.units.findSome? (fun u => u.2.l2.findSome? (fun l => if l.line = pa / 64 then under l else none))
  match cached, sliced with
  | some b, _ => b
  | none, some b => b
  | none, none => Memory.read s.mem pa

/-- The full/empty bits of a block, bit i for doubleword i (R238). -/
def State.feByte (s : State) (block : Nat) : Byte :=
  (List.range 8).foldl (fun b i => if s.feEmpty.contains (block * 64 + 8 * i) then b else b ||| (1#8 <<< i)) 0

/-- Symbols with some of them altered. -/
def altered (sy : List Byte) (d : List (Nat × Byte)) : List Byte :=
  d.foldl (fun sy x => setNth sy x.1 (nth sy x.1 0 ^^^ x.2)) sy

/-- The 72 symbols of a block in DRAM (R362, R363, R365): its ciphertext, its full/empty bits and its tag under keys and a slot, with
what has been altered since. -/
def State.symbols (s : State) (block kslot : Nat) (k : KeyMat) : List Byte :=
  let cipher := xtsEncrypt k block ((List.range 64).map (fun i => s.dramByte (block * 64 + i)))
  altered (cipher ++ [s.feByte block] ++ blockMac k block kslot cipher (s.feByte block))
    ((Assoc.get s.damage block).getD [])

/-- Whether symbols verify under keys and a slot (R365). -/
def symbolsOk (k : KeyMat) (block kslot : Nat) (sy : List Byte) : Bool :=
  blockMac k block kslot (sy.take 64) (nth sy 64 0) == sy.drop 65

/-- The first candidate of R365 that passes a test, from candidate n on, in the order of symbols and error values. -/
def firstFix (ok : List Byte → Bool) (sy : List Byte) : Nat → Nat → Option (List Byte)
  | 0, _ => none
  | fuel + 1, n =>
    let c := altered sy [(n / 255, BitVec.ofNat 8 (n % 255 + 1))]
    if ok c then some c else firstFix ok sy fuel (n + 1)

/-- The bytes that a slice's dirty and dropped marks keep from below it, with some of them changed. -/
def keptBelow (cs kept : List (Nat × Byte)) : List (Nat × Byte) := kept.map (fun d => (d.1, (Assoc.get cs d.1).getD d.2))

/-- Whether a line keeps, under one of its marks, the byte that stands below it. -/
def L2Line.keeps (l : L2Line) (a : Nat) : Bool := l.dirty.any (fun d => d.1 == a) || l.dropped.any (fun d => d.1 == a)

/-- Bytes put below the dirty bytes of the L2 slices (R226): where a slice keeps the byte below it there, and in memory otherwise. -/
def State.setBelow (s : State) (cs : List Host.Cell) : State :=
  let hides (l : L2Line) : Bool := cs.any (fun c => l.keeps c.1)
  if s.units.any (fun u => u.2.l2.any hides) then
    { s with
      mem := Memory.writeCells s.mem (cs.filter (fun c => !(s.units.any (fun u => u.2.l2.any (fun l => l.keeps c.1)))))
      units := s.units.map (fun u => (u.1, { u.2 with l2 := u.2.l2.map (fun l =>
        if hides l then { l with dirty := keptBelow cs l.dirty, dropped := keptBelow cs l.dropped } else l) })) }
  else { s with mem := Memory.writeCells s.mem cs }

/-- The lines of a set of a stack's memory-side cache. -/
def State.mscSet (s : State) (line : Nat) : List MscLine := (Assoc.get (s.stack (stackOf (line * 64))).msc (line % 16384)).getD []

/-- The 64 bytes of a block put in DRAM, below the dirty bytes of the caches (R226, R230). -/
def State.setDram (s : State) (block : Nat) (bs : List Byte) : State :=
  let cs := cellsAt (block * 64) bs
  let ls := s.mscSet block
  let kept (a : Nat) : Bool := ls.any (fun l => l.line == block && l.dirty.any (fun d => d.1 == a))
  if ls.any (fun l => l.line == block && !l.dirty.isEmpty) then
    (s.setBelow (cs.filter (fun c => !(kept c.1)))).modStack (stackOf (block * 64)) (fun k => { k with
      msc := Assoc.set k.msc (block % 16384)
        (ls.map (fun l => if l.line = block then { l with dirty := keptBelow cs l.dirty } else l)) })
  else if s.units.any (fun u => u.2.l2.any (fun l => l.line == block)) then s.setBelow cs
  else { s with mem := Memory.writeRange s.mem (block * 64) bs }

/-- A block accepted as some symbols (R365): its data decrypted, its full/empty bits, its tag.  Dirty bytes of the caches stay. -/
def State.accept (s : State) (block kslot : Nat) (k : KeyMat) (sy : List Byte) : State :=
  { s.setDram block (xtsDecrypt k block (sy.take 64)) with
    feEmpty := (List.range 8).foldl (fun f i =>
      if (nth sy 64 0).getLsbD i then NatSet.erase f (block * 64 + 8 * i) else NatSet.insert f (block * 64 + 8 * i)) s.feEmpty
    blockTag := Assoc.set s.blockTag block (kslot, k)
    damage := Assoc.erase s.damage block }

/-- The state after a read of a block that is not known to stand as its last write left it (R365): accepted as it is, or as the first
of the 18,360 candidates that verifies, which is counted; none where the read fails. -/
def State.repair (s : State) (block kslot : Nat) : Option State :=
  match Assoc.get s.keys kslot with
  | none => none
  | some k =>
    let t := (Assoc.get s.blockTag block).getD (kslot, k)
    let sy := s.symbols block t.1 t.2
    if symbolsOk k block kslot sy then some (s.accept block kslot k sy)
    else (firstFix (symbolsOk k block kslot) sy 18360 0).map (fun c =>
      let die := dieOfStack (stackOf (block * 64))
      { s.accept block kslot k c with corr := Assoc.set s.corr die (min 0xFFFFFFFF ((Assoc.get s.corr die).getD 0 + 1)) })

/-- Whether a block stands in DRAM as its last write left it, under the slot and the keys of that write: its tag is the one that its
symbols give (R363).  A block never written verifies under any slot (log 5). -/
def State.tagOk (s : State) (block kslot : Nat) : Bool :=
  match Assoc.get s.blockTag block with
  | none => true
  | some t => t.1 == kslot && Assoc.get s.keys kslot == some t.2

/-- A block read from DRAM (R365, R366, R411): the state after a correction or a quarantine, and the cause of the failure, if it
fails. -/
def State.verifyDram (s : State) (block kslot : Nat) : State × Option Byte :=
  match Assoc.get s.quarantine block with
  | some (_, poison) => (s, some (if poison then 0x09 else 0x08))
  | none =>
    if (Assoc.get s.damage block).isNone && s.tagOk block kslot then (s, none)
    else match s.repair block kslot with
      | some s1 => (s1, none)
      | none => (s.quarantineBlock block kslot false, some 0x08)

/-- A block obtained as a read obtains it: from a cache that holds its line, unless it is quarantined, or else from DRAM (R226, R230,
R365, R366). -/
def State.verify (s : State) (pa kslot : Nat) : State × Option Byte :=
  if !(isStack pa) || s.hostBias pa then (s, none)
  else if (Assoc.get s.quarantine (pa / 64)).isNone && s.lineCached (pa / 64) kslot then (s, none)
  else s.verifyDram (pa / 64) kslot

/-- What has been altered in DRAM, without one block, which is written anew. -/
def State.undamaged (s : State) (block : Nat) : List (Nat × List (Nat × Byte)) :=
  match Assoc.get s.damage block with
  | none => s.damage
  | some _ => Assoc.erase s.damage block

/-! ## Full/empty bits (R238, R239) -/

/-- Whether a doubleword's full/empty bit is full. -/
def State.isFull (s : State) (pa : Nat) : Bool := !(s.feEmpty.contains (pa / 8 * 8))
/-- A doubleword's bit set or cleared. -/
def State.setFull (s : State) (pa : Nat) (full : Bool) : State :=
  { s with feEmpty := if full then NatSet.erase s.feEmpty (pa / 8 * 8) else NatSet.insert s.feEmpty (pa / 8 * 8) }

/-! ## The memory-side cache (R230-R237) -/

/-- Rank of an eviction value as a victim: 3 first, then 2, 0, 1 (R231). -/
def evictRank (e : BitVec 2) : Nat := match e.toNat with | 3 => 0 | 2 => 1 | 0 => 2 | _ => 3

/-- The unpinned line of lowest rank nearest LRU among those a way mask admits; lines stand most recently used first. -/
def mscVictim (mask : Nat → Bool) : List MscLine → Option MscLine
  | [] => none
  | l :: m =>
    let best := mscVictim mask m
    if l.pinned || !(mask l.way) then best
    else match best with
      | none => some l
      | some b => if evictRank l.evict < evictRank b.evict then some l else some b

/-- The way mask of the pin window that holds a page for a tenant, if one does (R236, R237). -/
def State.pinMask (s : State) (pa : Nat) : Option (BitVec 12) :=
  (s.tenants.flatMap (fun t => t.2.pins)).findSome? (fun w => if w.pages.any (fun x => x.2 == pa / 65536) then some w.mask else none)

/-- Bytes of a block written to DRAM under a key slot (R364): the tag renewed, and what had been altered overwritten. -/
def State.dramTag (s : State) (block kslot : Nat) (k : KeyMat) : State :=
  { s with blockTag := Assoc.set s.blockTag block (kslot, k), damage := s.undamaged block }

/-- A block about to be written in DRAM, obtained as a read obtains it (R364): the state and the cause for which the write is discarded,
an empty key slot among them. -/
def State.openBlock (s : State) (block kslot : Nat) : State × Option Byte :=
  match s.verifyDram block kslot with
  | (s1, some c) => (s1, some c)
  | (s1, none) => match Assoc.get s1.keys kslot with
    | none => (s1, some 0x08)
    | some k => (s1.dramTag block kslot k, none)

/-- A line leaves its memory-side cache, its dirty bytes written to DRAM (R230, R364): a block that fails discards them, the bytes of
DRAM stand, and the discard is reported (R364, R406). -/
def State.dramOut (s : State) (l : MscLine) : State :=
  let out (s : State) : State := s.modStack (stackOf (l.line * 64)) (fun k => { k with
    msc := match (s.mscSet l.line).filter (fun x => !(x.line == l.line && x.kslot == l.kslot)) with
      | [] => Assoc.erase k.msc (l.line % 16384)
      | rest => Assoc.set k.msc (l.line % 16384) rest })
  if l.dirty.isEmpty then out s
  else match s.openBlock l.line l.kslot with
    | (s1, none) => out s1
    | (s1, some _) =>
      let kept := ((s1.mscSet l.line).find? (fun x => x.line == l.line && x.kslot == l.kslot)).elim l.dirty (fun x => x.dirty)
      ((out s1).setBelow kept).notice 0x04 0 [0, w64 (l.line * 64), 0]

/-- Every line of some of the memory-side caches out of them, dirty bytes written to DRAM first (R230, R368, R396). -/
def State.mscFlush (s : State) (p : MscLine → Bool) : State :=
  s.hstacks.foldl (fun s k => k.2.msc.foldl (fun s e => (e.2.filter p).foldl (fun s l => s.dramOut l) s) s) s

/-- A fill, hit or miss of one line at its memory-side cache (R230-R233, R237).  A line that it replaces is written to DRAM. -/
def State.mscAccess (s : State) (pa kslot tenant : Nat) (h : Hint) : State :=
  if !(isStack pa) || s.hostBias pa then s
  else
    let k := stackOf pa
    let line := pa / 64
    let set := line % 16384
    let st := s.stack k
    let ls := (Assoc.get st.msc set).getD []
    match ls.find? (fun l => l.line == line && l.kslot == kslot) with
    | some l =>
      let l' := { l with evict := h.evict }
      let ls' := if h.evict = 3 ∨ h.evict = 2 then ls.map (fun x => if x.line = line ∧ x.kslot = kslot then l' else x)
                 else l' :: ls.filter (fun x => !(x.line == line && x.kslot == kslot))
      s.modStack k (fun st => { st with msc := Assoc.set st.msc set ls' })
    | none =>
      let (psel, fill) := (Assoc.get st.psel tenant).getD (511, 0)
      let psel1 :=
        if st.duel ∧ h.evict = 0 then
          if set % 512 = 0 then min 1023 (psel + 1) else if set % 512 = 256 then psel - 1 else psel
        else psel
      let st1 := if psel1 = psel then st else { st with psel := Assoc.set st.psel tenant (psel1, fill) }
      if h.noalloc then (if psel1 = psel then s else s.modStack k (fun _ => st1))
      else
        let pinMask := s.pinMask pa
        let pinned := match pinMask with
          | none => false
          | some m => decide ((ls.filter (fun x => x.pinned)).length < 12) &&
              (List.range 12).any (fun w => m.getLsbD w && !(ls.any (fun x => x.way == w && x.pinned)))
        let denied := pinMask.isSome && !pinned
        let evict : BitVec 2 := if denied then 1 else h.evict
        let admits (w : Nat) : Bool := match pinned, pinMask with
          | true, some m => decide (w < 12) && m.getLsbD w
          | _, _ => true
        let freeWay := (List.range 16).find? (fun w => admits w && !(ls.any (fun x => x.way == w)))
        let place : Option (Nat × Option MscLine) := match freeWay with
          | some w => some (w, none)
          | none => (mscVictim admits ls).map (fun v => (v.way, some v))
        match place with
        | none => s.modStack k (fun _ => { st1 with pinDenied := st1.pinDenied + b2n denied })
        | some (w, out) =>
          let bimodal := decide (st.duel = true) && evict == 0 && (set % 512 == 256 || (set % 512 != 0 && decide (512 ≤ psel1)))
          let mru := evict == 1 || (evict == 0 && (!bimodal || fill == 0))
          let l : MscLine := ⟨w, line, evict, pinned, kslot, []⟩
          let fill1 := if bimodal then (fill + 1) % 32 else fill
          (out.elim s s.dramOut).modStack k (fun x =>
            let rest := (Assoc.get x.msc set).getD []
            { x with
              msc := Assoc.set x.msc set (if mru then l :: rest else rest ++ [l])
              psel := if psel1 = psel ∧ fill1 = fill then st1.psel else Assoc.set st1.psel tenant (psel1, fill1)
              pinDenied := st1.pinDenied + b2n denied })

/-- Whether a memory-side cache holds a line under a key slot. -/
def State.inMsc (s : State) (line kslot : Nat) : Bool := (s.mscSet line).any (fun l => l.line == line && l.kslot == kslot)

/-- Bytes of a line that its memory-side cache holds, marked dirty there, each with the byte that DRAM holds (R230). -/
def State.mscDirty (s : State) (line kslot : Nat) (cs : List (Nat × Byte)) : State :=
  if cs.isEmpty then s
  else s.modStack (stackOf (line * 64)) (fun k => { k with
    msc := Assoc.set k.msc (line % 16384) ((s.mscSet line).map (fun l =>
      if l.line = line ∧ l.kslot = kslot then
        { l with dirty := l.dirty ++ cs.filter (fun c => !(l.dirty.any (fun d => d.1 == c.1))) }
      else l)) })

/-- The lines of the memory-side caches that satisfy a test gone, their dirty bytes with them (R411). -/
def State.dropMsc (s : State) (p : MscLine → Bool) : State :=
  { s with hstacks := s.hstacks.map (fun k =>
      (k.1, { k.2 with msc := (k.2.msc.map (fun e => (e.1, e.2.filter (fun l => !(p l))))).filter (fun e => !e.2.isEmpty) })) }

/-- A line out of every L2 slice and memory-side cache, nothing written. -/
def State.uncache (s : State) (line : Nat) : State :=
  let s1 := s.dropMsc (fun l => l.line == line)
  { s1 with units := s1.units.map (fun u => (u.1, { u.2 with l2 := u.2.l2.filter (fun l => l.line != line) })) }

/-- A block whose dirty bytes are lost (R411): no cache holds it any longer, and it is entered in the quarantine table marked POISON.  It
is neither encrypted nor tagged: with the table full its tag is none that its symbols give, so that it keeps failing (R366); the
model takes two bytes of the tag inverted (DESIGN CHOICE, log 80). -/
def State.poisonBlock (s : State) (block kslot : Nat) : State :=
  let s1 := s.uncache block
  if (Assoc.get s.quarantine block).isSome then { s1 with quarantine := Assoc.set s1.quarantine block (kslot, true) }
  else
    let s2 := s1.quarantineBlock block kslot true
    if (Assoc.get s2.quarantine block).isSome then s2
    else { s2 with damage := Assoc.set s2.damage block [(65, 0xFF), (66, 0xFF)] }

/-- Memory as DRAM holds it, the dirty bytes of the caches left out (R226, R230). -/
def State.dramMem (s : State) : List Host.Cell :=
  let below := s.units.foldl (fun m u => u.2.l2.foldl (fun m l => Memory.writeCells m (l.dropped ++ l.dirty)) m) s.mem
  s.hstacks.foldl (fun m k => k.2.msc.foldl (fun m e => e.2.foldl (fun m l => Memory.writeCells m l.dirty) m) m) below

/-! ## L2 slices (R221, R225, R226, R231) -/

/-- Ways of a set of an L2 slice; a line's set is its number modulo 128 (log 60). -/
def l2Ways : Nat := 16

/-- The line of a set that a fill replaces: lowest rank, nearest LRU (R231). -/
def l2Victim (set : Nat) : List L2Line → Option L2Line
  | [] => none
  | l :: m =>
    let best := l2Victim set m
    if l.line % 128 != set then best
    else match best with
      | none => some l
      | some b => if evictRank l.hint.evict < evictRank b.hint.evict then some l else some b

/-- A line leaves an L2 slice, its dirty bytes written to the memory-side cache of its stack with the hints of the store that dirtied
them last (R225, R226, R231), or to DRAM where that cache holds no line (R232); bytes that a CDROP dropped fall back to those below
(R257).  A write-back that finds the block failing is discarded and reported, and the bytes below stand (R364, R406). -/
def State.l2Out (s : State) (u : Nat) (l : L2Line) : State :=
  let s0 := s.modUnit u (fun x => { x with l2 := x.l2.filter (fun y => !(y.line == l.line && y.kslot == l.kslot)) })
  let s1 := { s0 with mem := Memory.writeCells s0.mem l.dropped }
  if l.dirty.isEmpty then s1
  else
    let bad (s : State) : State := State.notice { s with mem := Memory.writeCells s.mem l.dirty } 0x04 0 [0, w64 (l.line * 64), 0]
    match s1.verify (l.line * 64) l.kslot with
    | (s2, some _) => bad s2
    | (s2, none) =>
      let s3 := s2.mscAccess (l.line * 64) l.kslot l.tenant l.storeHint
      if s3.inMsc l.line l.kslot then s3.mscDirty l.line l.kslot l.dirty
      else match s3.openBlock l.line l.kslot with
        | (s4, some _) => bad s4
        | (s4, none) => s4

/-- A load or write of a line at an L2 slice (R226, R231): a hit, or a fill from below it that may replace a line. -/
def State.l2Access (s : State) (u pa kslot tenant : Nat) (h : Hint) : State :=
  if !(isStack pa) || s.hostBias pa then s
  else
    let line := pa / 64
    match (s.unit u).l2.find? (fun l => l.line == line && l.kslot == kslot) with
    | some l =>
      let l' : L2Line := { l with hint := h }
      s.modUnit u (fun x =>
        if h.evict = 3 ∨ h.evict = 2 then
          { x with l2 := x.l2.map (fun y => if y.line = line ∧ y.kslot = kslot then l' else y) }
        else { x with l2 := l' :: x.l2.filter (fun y => !(y.line == line && y.kslot == kslot)) })
    | none =>
      let s1 := s.mscAccess pa kslot tenant h
      let full := decide (l2Ways ≤ ((s1.unit u).l2.filter (fun l => l.line % 128 == line % 128)).length)
      let s2 := match full, l2Victim (line % 128) (s1.unit u).l2 with
        | true, some v => s1.l2Out u v
        | _, _ => s1
      let l : L2Line := ⟨line, kslot, tenant, h, [], [], h⟩
      s2.modUnit u (fun x => { x with l2 := if h.evict = 3 ∨ h.evict = 2 then x.l2 ++ [l] else l :: x.l2 })

/-- Bytes of a line that an L2 slice holds become dirty there, each with the byte below it, and with the hints of their store (R226,
R231). -/
def State.l2Dirty (s : State) (u line kslot : Nat) (h : Hint) (addrs : List Nat) : State :=
  if (s.unit u).l2.any (fun l => l.line == line && l.kslot == kslot) then
    s.modUnit u (fun x => { x with l2 := x.l2.map (fun l =>
      if l.line = line ∧ l.kslot = kslot then
        let fresh := addrs.filter (fun a => !(l.dirty.any (fun d => d.1 == a)))
        { l with
          dirty := l.dirty ++ fresh.map (fun a => (a, (Assoc.get l.dropped a).getD (Memory.read s.mem a)))
          dropped := l.dropped.filter (fun d => !(addrs.contains d.1))
          storeHint := h }
      else l) })
  else s

/-- CDROP at a slice: the line's dirty mask is cleared, its bytes staying until the slice evicts it (R257). -/
def State.l2Drop (s : State) (u line : Nat) : State :=
  if (s.unit u).l2.any (fun l => l.line == line && !l.dirty.isEmpty) then
    s.modUnit u (fun x => { x with l2 := x.l2.map (fun l =>
      if l.line = line then { l with dirty := [], dropped := l.dropped ++ l.dirty } else l) })
  else s

/-- Every copy of some lines leaves the L2 slices, dirty bytes written back first (R225, R226, R396). -/
def State.l2Flush (s : State) (p : Nat → L2Line → Bool) : State :=
  s.units.foldl (fun s u => (u.2.l2.filter (p u.1)).foldl (fun s l => s.l2Out u.1 l) s) s

/-- A word's line leaves the L2 slices while it is in use as a synchronising word (R226). -/
def State.l2Yield (s : State) (pa : Nat) : State := s.l2Flush (fun _ l => l.line == pa / 64)

/-- Bytes about to be written to a line that a cache holds, marked dirty in the cache nearest the units (R226, R230). -/
def State.cacheDirty (s : State) (line kslot : Nat) (addrs : List Nat) : State :=
  match s.units.findSome? (fun u => (u.2.l2.find? (fun l => l.line == line && l.kslot == kslot)).map (fun l => (u.1, l.storeHint))) with
  | some (u, h) => s.l2Dirty u line kslot h addrs
  | none => s.mscDirty line kslot (addrs.map (fun a => (a, Memory.read s.mem a)))

/-- Writes bytes of one block (R364): in the caches where one holds the line, whose bytes reach DRAM as they leave it, and otherwise in
DRAM, where the block is obtained, the bytes are merged and the tag is renewed under the key slot.  Answers whether the write
was performed. -/
def State.storeBlock (s : State) (kslot : Nat) (cs : List Host.Cell) : State × Option Byte :=
  match cs with
  | [] => (s, none)
  | (pa, _) :: _ =>
    if !(isStack pa) || s.hostBias pa then ({ s with mem := Memory.writeCells s.mem cs }, none)
    else if (Assoc.get s.quarantine (pa / 64)).isNone && s.lineCached (pa / 64) kslot then
      if (Assoc.get s.keys kslot).isNone then (s, some 0x08)
      else
        let s1 := s.cacheDirty (pa / 64) kslot (cs.map (fun c => c.1))
        ({ s1 with mem := Memory.writeCells s1.mem cs }, none)
    else match s.openBlock (pa / 64) kslot with
      | (s1, some c) => (s1, some c)
      | (s1, none) => ({ s1 with mem := Memory.writeCells s1.mem cs }, none)

/-- Bytes of one block written at the line's L2 home (R214, R226, R364): the block obtained, the line in the slice, its bytes
dirty.  A block that fails leaves the slice as it was. -/
def State.homeStore (s : State) (u : Nat) (a : PageAttr) (h : Hint) (cs : List Host.Cell) : State × Option Byte :=
  match cs with
  | [] => (s, none)
  | (pa, _) :: _ =>
    match s.verify pa a.kslot with
    | (s1, some c) => (s1, some c)
    | (s1, none) =>
      ((s1.l2Access u pa a.kslot a.tenant h).l2Dirty u (pa / 64) a.kslot h (cs.map (fun c => c.1))).storeBlock a.kslot cs

/-! ## Homes and the arrival log (R215-R220, R224) -/

/-- Exclusive OR of the three sixteen-bit parts of PA[51:6] (R224). -/
def xorFold16 (v : Nat) : Nat := (v % 65536) ^^^ (v / 65536 % 65536) ^^^ (v / 4294967296 % 16384)

/-- Whether a cluster came up (R423). -/
def State.clusterUp (s : State) (c : Nat) : Bool := decide (c < 16) && s.start.clusters.getLsbD c
/-- Whether a stack came up (R423). -/
def State.stackUp (s : State) (k : Nat) : Bool := decide (k < 12) && s.start.hstacks.getLsbD k
/-- Whether a unit exists and is started: an IU of a started cluster or a CIU of a started stack. -/
def State.unitUp (s : State) (u : Nat) : Bool :=
  if u < 1536 then s.clusterUp (u / 96) else decide (u < 1632) && s.stackUp ((u - 1536) / 8)

/-- The home L2 slice of a line (R224). -/
def State.homeSlice (s : State) (a : PageAttr) (pa : Nat) : Nat :=
  let group (mask : Nat) : Nat :=
    let named := (List.range 16).filter (fun c => natBits mask c 1 == 1 && s.clusterUp c)
    let cs := if named.isEmpty then (List.range 16).filter (fun c => s.clusterUp c) else named
    let k := xorFold16 (pa / 64) % (96 * cs.length)
    nth cs (k / 96) 0 * 96 + k % 96
  if a.group then group a.hsel
  else if a.hsel < 1536 ∧ s.clusterUp (a.hsel / 96) then a.hsel
  else group 0

/-- The port's registers. -/
def State.alog (s : State) : Port → ALog
  | .slice u => (s.unit u).alog
  | .stack k => (s.stack k).alog
/-- The state with a port's registers changed. -/
def State.modAlog (s : State) (p : Port) (f : ALog → ALog) : State :=
  match p with
  | .slice u => s.modUnit u (fun x => { x with alog := f x.alog })
  | .stack k => s.modStack k (fun x => { x with alog := f x.alog })
/-- The cycle count of a port's unit: its IU, or CIU 0 of its stack. -/
def State.portCycle (s : State) : Port → Nat
  | .slice u => (s.unit u).cycle
  | .stack k => (s.unit (1536 + 8 * k)).cycle

/-- The device and the unit that the number of a unit of another device stands for: they are numbered from 4096 up (log 28). -/
def peerUnit (u : Nat) : Nat × Nat := ((u - 4096) / 2048, (u - 4096) % 2048)

/-- The device and the unit that sent an access (R216). -/
def State.sender (s : State) (u : Nat) : Nat × Nat := if u < 4096 then (s.device, u) else peerUnit u

/-- What an arrival record names (R216). -/
structure Arrival where
  kind : Nat
  dev : Nat
  unit : Nat
  tenant : Nat
  pa : Nat
  bytes : Nat

/-- The arrival of an access of n bytes from a unit (R216). -/
def State.arrivalOf (s : State) (kind u tenant pa n : Nat) : Arrival := ⟨kind, (s.sender u).1, (s.sender u).2, tenant, pa, n⟩

/-- The address of the record at INDEX. -/
def ALog.slot (a : ALog) : Nat := a.base + a.index % 2 ^ a.log2n * 16

/-- Whether an address lies in the memory of a stack that a start brought up; the memory of a fenced stack is none (log 69). -/
def State.inStack (s : State) (pa : Nat) : Bool := isStack pa && s.stackUp (stackOf pa)

/-- Writes the record of an arrival (R216-R219).  With key slot 0 empty, or a ring outside the started stacks, the record is discarded
and nothing is read. -/
def State.logRecord (s : State) (p : Port) (r : Arrival) : State :=
  let a := s.alog p
  let w0 := r.kind * 2 ^ 60 + (r.bytes - 1) % 256 * 2 ^ 52 + r.pa
  let w1 := a.seq * 2 ^ 32 + r.dev * 2 ^ 24 + r.tenant * 2 ^ 16 + r.unit
  let (s1, bad) :=
    if s.inStack a.slot && (Assoc.get s.keys 0).isSome then s.storeBlock 0 (cellsAt a.slot (bytesOf w0 8 ++ bytesOf w1 8))
    else (s, some 0x08)
  s1.modAlog p (fun a =>
    { a with
      seq := (a.seq + 1) % 2 ^ 32
      index := (a.index + 1) % 2 ^ 32
      lost := a.lost || bad.isSome
      ovf := a.ovf || a.edge
      edge := (a.index + 1) % 2 ^ a.log2n == 0 })

/-- Abandons replay (R220). -/
def State.abandonReplay (s : State) (p : Port) : State :=
  s.modAlog p (fun a => { a with diverged := true, mode := 0 })

/-- Whether an arrival is performed at once, or held at its port (R220). -/
inductive Admit where
  | perform (s : State)
  | hold (s : State)

/-- The number by which a replay port knows the AMO of a context at an instruction, which no message brings (R220). -/
def amoId (va pc : Nat) : Nat := 2 ^ 120 + va * 2 ^ 56 + pc
/-- The number by which a replay port knows the fault record of a context (R220, R341). -/
def recordId (va : Nat) : Nat := 2 ^ 180 + va

/-- Whether a miss asked for the fault record of a context is on its way or in a walk (R341, R357). -/
def State.recordAsked (s : State) (va : Nat) : Bool :=
  let of' (rq : MissReq) : Bool := match rq.who with | .record v _ _ _ => v == va | _ => false
  s.wire.any (fun m => match m.2 with | .miss rq => of' rq | .missRefused rq _ => of' rq | _ => false) ||
  s.clusters.any (fun c => c.2.tsu.any (fun k => k.reqs.any of'))

/-- Whether the arrival that a port holds under a number can still come: its message, command or operation is outstanding, or its
context is still to issue the instruction, or to write the record (R220). -/
def State.heldLive (s : State) (id : Nat) : Bool :=
  if 2 ^ 180 ≤ id then s.recordAsked (id - 2 ^ 180)
  else if 2 ^ 120 ≤ id then
    match Assoc.get s.lines ((id - 2 ^ 120) / 2 ^ 56) with
    | some c => (c.line.st == .issuing || c.line.st == .ready) && c.line.pc.toNat == (id - 2 ^ 120) % 2 ^ 56
    | none => false
  else (s.msg? id).isSome || s.cmds.any (fun c => c.id == id) || s.tileOps.any (fun o => o.id == id)

/-- The state with a port's hold of a number ended. -/
def State.unhold (s : State) (p : Port) (id : Nat) : State :=
  if (s.alog p).held.contains id then s.modAlog p (fun a => { a with held := a.held.filter (fun h => h != id) }) else s

/-- An arrival that changes memory on a TRACE page, at its port (R215-R220).  id numbers the message that brings it; a held message is
tried again when its event comes again, and after replay was abandoned the held messages come first, in order. -/
def State.arriveAt (s : State) (p : Port) (r : Arrival) (id : Nat) : Admit :=
  let a := s.alog p
  let live := a.held.filter (fun h => h == id || s.heldLive h)
  if a.mode = 0 then
    match live with
    | [] => .perform s
    | h :: _ => if h = id then .perform (s.unhold p id) else .hold s
  else if a.mode = 1 then .perform ((s.unhold p id).logRecord p r)
  else
    match (if s.inStack a.slot then s.verify a.slot 0 else (s, some 0x08)) with
    | (s1, some _) => .hold (s1.abandonReplay p)
    | (s1, none) =>
      let w0 := (Memory.dword s1.mem a.slot).toNat
      let w1 := (Memory.dword s1.mem (a.slot + 8)).toNat
      if natBits w0 60 4 = r.kind ∧ natBits w0 0 52 = r.pa ∧ natBits w1 24 8 = r.dev ∧ natBits w1 0 11 = r.unit then
        .perform (s1.modAlog p (fun a =>
          { a with index := (a.index + 1) % 2 ^ 32, held := live.filter (fun h => h != id), since := s.portCycle p }))
      else if a.held.contains id then .hold s1
      else if live.length < 64 then .hold (s1.modAlog p (fun a => { a with held := live ++ [id] }))
      else .hold ((s1.modAlog p (fun a => { a with held := live ++ [id] })).abandonReplay p)

/-- An arrival at a port (R215): one whose page has no TRACE, or that changes no memory, because its key slot is empty or its block
fails (R364), passes. -/
def State.arrive (s : State) (p : Port) (trace : Bool) (kslot : Nat) (r : Arrival) (id : Nat) : Admit :=
  if !trace || (isStack r.pa && !(s.hostBias r.pa) && (Assoc.get s.keys kslot).isNone) then .perform s
  else match s.verify r.pa kslot with
    | (s1, some _) => .perform s1
    | (s1, none) => s1.arriveAt p r id

/-- The arrivals of one update that takes effect as a whole: all pass, or one is held and none has passed.  Where replay is off a port
that let one of them pass lets the others of the update pass with it (R220). -/
def State.admitList (s : State) (id : Nat) (l : List (Port × Bool × Nat × Arrival)) : Admit :=
  l.foldl (fun acc x => match acc with
    | .hold h => .hold h
    | .perform s1 => match s1.arrive x.1 x.2.1 x.2.2.1 x.2.2.2 id with
      | .perform s2 => .perform s2
      | .hold _ => match s.arrive x.1 x.2.1 x.2.2.1 x.2.2.2 id with
        | .hold h => .hold h
        | .perform _ => if (s.alog x.1).mode = 0 then .perform s1 else .hold s) (.perform s)

end Sys2Proof.Machine
end

