-- ==== Sys2Proof/Machine/Translate.lean ====
section
/-! DEFINITION. Translation and the checks of a page (R353-R357, R367, R392), arenas (R31, R39), and what the home of a
byte shows to a unit (R193, R195). -/

namespace Sys2Proof.Machine

/-- Why an access has no physical address yet: no entry (R357), or a check of its entry failed (R356). -/
inductive XFail where
  | miss
  | fault (cause : Byte)
  deriving DecidableEq, Repr

/-- Access codes of R357. -/
def accRead : Nat := 0
def accWrite : Nat := 1
def accExec : Nat := 2
def accRmw : Nat := 3

/-- The stream aperture (R282). -/
def isWindow (va : Nat) : Bool := decide (0xF0000000000000 ≤ va) && decide (va ≤ 0xF02FFFFFFFFFFF)

/-- Whether an entry covers an address of a tenant. -/
def TlbEntry.covers (e : TlbEntry) (tenant va : Nat) : Bool :=
  e.tenant == tenant && decide (e.va ≤ va) && decide (va < e.va + e.size)

/-- The permission check of R356 step 1. -/
def TlbEntry.permits (e : TlbEntry) (acc : Nat) : Bool :=
  match acc with
  | 0 => e.r
  | 1 => e.w
  | 2 => e.x
  | _ => e.r && e.w

/-- The key slot check of R367: an empty slot fails, and so does a slot other than 0 that is not the tenant's and not
shared with it; tenant 0 may use any loaded slot. -/
def State.keyOk (s : State) (tenant kslot : Nat) : Bool :=
  let t := s.tenant tenant
  (Assoc.get s.keys kslot).isSome &&
  (tenant == 0 || kslot == 0 || kslot == tenant ||
   (List.range 4).any (fun i => t.kshrV.getLsbD i && natBits t.kshrS.toNat (8 * i) 8 == kslot))

/-- The physical address under an entry. -/
def TlbEntry.addr (e : TlbEntry) (va : Nat) : Nat := e.pa + (va - e.va)

/-- What the page fixes for the home of an access. -/
def TlbEntry.attr (e : TlbEntry) : PageAttr := ⟨e.tenant, e.kslot, e.hsel, e.group, e.trace⟩

/-- Whether an address lies in the memory of a stack that a start fenced.  The spec takes the stack out of the totals (R14) and says
nothing of an access to it; the model treats its addresses as unassigned, with cause 0x05 (DESIGN CHOICE, log 69). -/
def State.fenced (s : State) (pa : Nat) : Bool := isStack pa && !(s.inStack pa)

/-- The checks of R356 in order, then R392's. -/
def State.checkEntry (s : State) (e : TlbEntry) (tenant va acc : Nat) : Except XFail TlbEntry :=
  if !(e.permits acc) then .error (.fault 0x05)
  else if e.transformed then .error (.fault 0x07)
  else if isStack (e.addr va) && !(s.hostBias (e.addr va)) && !(s.keyOk tenant e.kslot) then .error (.fault 0x05)
  else if unassigned (e.addr va) || s.fenced (e.addr va) then .error (.fault 0x05)
  else .ok e

/-- Translation of an access at a unit (R353, R356).  A window VA is refused (R247). -/
def State.xlate (s : State) (u tenant va acc : Nat) : Except XFail TlbEntry :=
  if isWindow va then .error (.fault 0x05)
  else
    match (s.unit u).tlb.find? (fun e => e.covers tenant va) with
    | none => .error .miss
    | some e => s.checkEntry e tenant va acc

/-- An entry used in translation becomes the most recently used of its TLB (R353). -/
def State.touchTlb (s : State) (u : Nat) (e : TlbEntry) : State :=
  match (s.unit u).tlb with
  | [] => s
  | h :: m => if h = e then s else s.modUnit u (fun x => { x with tlb := e :: (h :: m).filter (fun y => decide (y ≠ e)) })

/-- The entry of a unit that covers an address, used (R353). -/
def State.touchPage (s : State) (u tenant va : Nat) : State :=
  match (s.unit u).tlb.find? (fun e => e.covers tenant va) with | some e => s.touchTlb u e | none => s

/-- The page of an address of a tenant as any TLB holds it, or as software gave it last (log 14). -/
def State.pageOf (s : State) (tenant va : Nat) : Option TlbEntry :=
  match s.units.findSome? (fun x => x.2.tlb.find? (fun e => e.covers tenant va)) with
  | some e => some e
  | none => s.mapped.find? (fun e => e.covers tenant va)

/-- Translation by an agent that holds no TLB: at any unit of the device, or else by what software gave last (R39; log 14). -/
def State.xlateMapped (s : State) (tenant va acc : Nat) : Option TlbEntry :=
  match s.units.findSome? (fun x => match s.xlate x.1 tenant va acc with | .ok e => some e | .error _ => none) with
  | some e => some e
  | none => match s.mapped.find? (fun e => e.covers tenant va && !(isWindow va)) with
    | none => none
    | some e => match s.checkEntry e tenant va acc with | .ok x => some x | .error _ => none

/-- Translation at any unit of the device, the given unit first: what the allocators and other agents that hold no TLB use (R39; log
14). -/
def State.xlateAny (s : State) (u tenant va acc : Nat) : Option TlbEntry :=
  match s.xlate u tenant va acc with
  | .ok e => some e
  | .error (.fault _) => none
  | .error .miss => s.xlateMapped tenant va acc

/-! ## Arenas (R31, R39) -/

/-- The tenant in whose arena an address falls in a context line, the header excepted (R31). -/
def State.arenaOf (s : State) (va : Nat) : Option Nat :=
  s.tenants.findSome? (fun t => match t.2.arena with
    | some (base, n) => if base + 128 ≤ va ∧ va < base + 128 * n then some t.1 else none
    | none => none)

/-- Whether a VA is a line that an allocation of a tenant may return (R41). -/
def State.lineOk (s : State) (tenant va : Nat) : Bool :=
  va % 128 == 0 && (match (s.tenant tenant).arena with
    | some (base, n) => decide (base + 128 ≤ va) && decide (va < base + 128 * n)
    | none => false)

/-- The homing of a stretch of memory written (R225): what lies whole in it is forgotten. -/
def State.setHoming (s : State) (h : Homing) : State :=
  { s with homing := h :: s.homing.filter (fun x => !(decide (h.pa ≤ x.pa) && decide (x.pa + x.size ≤ h.pa + h.size))) }

/-- The homing of a page in force now (R225): the one that was written for it last. -/
def State.homingNow (s : State) (a : PageAttr) (pa : Nat) : PageAttr :=
  match s.homing.find? (fun h => decide (h.pa ≤ pa) && decide (pa < h.pa + h.size)) with
  | some h => { a with hsel := h.hsel, group := h.group }
  | none => a

/-- The home of a line under the homing in force (R224, R225). -/
def State.homeNow (s : State) (a : PageAttr) (pa : Nat) : Nat := s.homeSlice (s.homingNow a pa) pa

/-! ## Homes on this device and on others (R267, R392, R394, R395) -/

/-- The checks of an inbound access against its page's record (R394). -/
def State.inbound (s : State) (tenant pa : Nat) (write : Bool) : Option Byte :=
  let r := s.pageRec (pa / 65536)
  if !r.valid then some 0x05
  else if r.moved then some 0x06
  else if tenant ≠ 0 ∧ tenant ≠ r.tenant then some 0x05
  else if !(if write then r.w else r.r) then some 0x05
  else if r.transformed then some 0x07
  else if s.fenced pa || !(s.keyOk tenant r.kslot) then some 0x05
  else none

/-- The page of an inbound access: the tenant and key slot of its record, the homing and TRACE of the translation entry in
force (R224, R394). -/
def State.inboundAttr (s : State) (pa : Nat) : PageAttr :=
  let r := s.pageRec (pa / 65536)
  match s.units.findSome? (fun u => u.2.tlb.find? (fun t => t.tenant == r.tenant && decide (t.pa ≤ pa) &&
    decide (pa < t.pa + t.size))) with
  | some t => ⟨r.tenant, r.kslot, t.hsel, t.group, t.trace⟩
  | none => ⟨r.tenant, r.kslot, 0, true, false⟩

/-- The device whose memory an address lies in, and the address that stands for it here: for this device's own aperture the stack address,
reached as an inbound access to itself (R392), and for another device's the address in its aperture.  A word in the host
aperture, on a host-bias page or at no address fails with cause 0x05, and an inbound access as R394 says (R267, R269). -/
def State.wordHome (s : State) (tenant pa : Nat) : Except Byte (Nat × Nat) :=
  if isStack pa then (if s.hostBias pa then .error 0x05 else .ok (s.device, pa))
  else match peerOf pa with
    | none => .error 0x05
    | some (d, off) =>
      if d ≠ s.device then .ok (d, pa)
      else if s.hostBias off then .error 0x05
      else match s.inbound tenant off false, s.inbound tenant off true with
        | some c, _ => .error c
        | none, some c => .error c
        | none, none => .ok (d, off)

/-- What the page of an access fixes for its home: its entry, or for this device's own aperture the record of the page (R392, R394). -/
def State.homeAttr (s : State) (t : TlbEntry) (pa : Nat) : PageAttr :=
  if isStack pa && !(isStack t.pa) then s.inboundAttr pa else t.attr

/-- The words of a store that goes to a peer: its kind, address, length and bytes (log 28). -/
def peerStore (pa : Nat) (bs : List Byte) : List W64 := [1, w64 pa, w64 bs.length, w64 (ofBytes bs)]

/-- A message to a device (R402). -/
def State.tell (s : State) (dev : Nat) (ws : List W64) : State := { s with peerOut := s.peerOut ++ [(dev, ws)] }

/-- The other device in whose aperture an address lies (R392). -/
def State.peerFor (s : State) (pa : Nat) : Option Nat :=
  match peerOf pa with
  | some (d, _) => if d = s.device then none else some d
  | none => none

/-- The number by which another device knows a message of this one, so that its answer finds it; the numbers of contexts, which are
lines, are even (log 28). -/
def askNumber (id : Nat) : W64 := w64 (2 * id + 1)

/-- A message under way sent on to the device that performs it (R27, R392; log 28). -/
def State.ask (s : State) (id dev : Nat) (ws : List W64) : State :=
  { s.tell dev (ws ++ [askNumber id]) with asked := s.asked ++ [id] }

/-- A message to the peer device in whose aperture an address lies, if it lies in one of another device (R392, R402; log 28). -/
def State.tellPeer (s : State) (pa : Nat) (ws : List W64) : State :=
  match peerOf pa with
  | some (d, _) => if d = s.device then s else { s with peerOut := s.peerOut ++ [(d, ws)] }
  | none => s

/-! ## What a home shows (R193, R195) -/

/-- The cells that a message under way will write for a unit, as later loads there must see them: those of a trapped context or of
a spawner come before its handler's and its child's (R190, R193). -/
def Msg.cellsFor (u : Nat) : Msg → List Host.Cell
  | .writeBack u' _ _ _ cs => if u' = u then cs else []
  | .ustore _ u' _ _ _ pa bs => if u' = u then cellsAt pa bs else []
  | .sync rq => if rq.unit = u ∧ rq.op = .fill then cellsAt rq.pa (bytesOf rq.v.toNat 8) else []
  | .frameInit _ u' _ _ pa ptr => if u' = u then cellsAt pa (wordsBytes [0, 0, ptr, 0]) else []
  | _ => []

/-- A byte as the latest of a unit's write-backs and stores under way gives it. -/
def State.sentByte (s : State) (u pa : Nat) : Option Byte :=
  s.wire.foldl (fun acc m => match Assoc.get (m.2.cellsFor u) pa with | some b => some b | none => acc) none

/-- A byte as a load at a unit finds it past the data L1: the latest of the unit's write-backs and stores under way, or else
memory. -/
def State.homeByte (s : State) (u pa : Nat) : Byte := (s.sentByte u pa).getD (Memory.read s.mem pa)

/-- Those of n bytes that the unit's own stores show it, in its data L1 or under way. -/
def State.ownCells (s : State) (u pa n : Nat) : List Host.Cell :=
  (List.range n).filterMap (fun i =>
    let sent := (s.sentByte u (pa + i)).map (fun b => (pa + i, b))
    match Assoc.get (s.unit u).dl1 (pa + i) with
    | some b => if b.dirty then some (pa + i, b.v) else sent
    | none => sent)

/-- A byte as a load at a unit finds it. -/
def State.seenByte (s : State) (u pa : Nat) : Byte :=
  match Assoc.get (s.unit u).dl1 pa with
  | some b => b.v
  | none => s.homeByte u pa

/-- n bytes as a load at a unit finds them. -/
def State.seenBytes (s : State) (u pa : Nat) : Nat → List Byte
  | 0 => []
  | n + 1 => s.seenByte u pa :: s.seenBytes u (pa + 1) n

/-- A byte as the fill of a line at a unit brings it in: a dirty byte stays, every other is fetched from the line's home (R223). -/
def State.fetchedByte (s : State) (u pa : Nat) : Byte :=
  match Assoc.get (s.unit u).dl1 pa with
  | some b => if b.dirty then b.v else s.homeByte u pa
  | none => s.homeByte u pa

/-- n bytes as the fill of their line brings them in. -/
def State.fetchedBytes (s : State) (u pa : Nat) : Nat → List Byte
  | 0 => []
  | n + 1 => s.fetchedByte u pa :: s.fetchedBytes u (pa + 1) n

/-- Whether every one of n bytes is present in a unit's data L1. -/
def State.present (s : State) (u pa : Nat) : Nat → Bool
  | 0 => true
  | n + 1 => (Assoc.get (s.unit u).dl1 pa).isSome && s.present u (pa + 1) n

/-- The dirty lines of a unit's data L1, by line number. -/
def State.dirtyLines (s : State) (u : Nat) : List Nat :=
  ((s.unit u).dl1.filter (fun b => b.2.dirty)).foldl (fun ls b => NatSet.insert ls (b.1 / 64)) []

/-- Write-backs of some dirty lines, their bytes staying as clean ones.  ctx is the context in whose STORES they count
(R258). -/
def State.releaseLines (s : State) (u : Nat) (ctx : Option Nat) (lines : List Nat) : State :=
  let dirty := (s.unit u).dl1.filter (fun b => b.2.dirty && lines.contains (b.1 / 64))
  match dirty with
  | [] => s
  | _ =>
    let s1 := s.modUnit u (fun x =>
      { x with dl1 := x.dl1.map (fun b => if lines.contains (b.1 / 64) then (b.1, { b.2 with dirty := false }) else b) })
    lines.foldl (fun s l =>
      let cs := dirty.filter (fun b => b.1 / 64 == l)
      match cs with
      | [] => s
      | c :: _ => s.post (.writeBack u ctx c.2.attr c.2.hint (cs.map (fun b => (b.1, b.2.v))))) s1

/-- The release half of R195: one write-back for every dirty line of the unit's data L1. -/
def State.release (s : State) (u : Nat) (ctx : Option Nat) : State := s.releaseLines u ctx (s.dirtyLines u)

/-! ## Ways of the data L1 (R223, R231) -/

/-- Ways of a set of a data L1; a line's set is its number modulo 128 (log 60). -/
def l1Ways : Nat := 8

/-- The lines of a set that a data L1 holds bytes of, most recently used first. -/
def Unit.l1Set (x : Unit) (set : Nat) : List (Nat × BitVec 2) :=
  x.dl1Lru.filter (fun l => l.1 % 128 == set && x.dl1.any (fun b => b.1 / 64 == l.1))

/-- The line of a set that a fill replaces: lowest rank, nearest LRU (R231). -/
def l1Victim : List (Nat × BitVec 2) → Option Nat
  | [] => none
  | l :: m =>
    match m.foldl (fun (b : Nat × BitVec 2) x => if evictRank x.2 ≤ evictRank b.2 then x else b) l with
    | v => some v.1

/-- A use of a line at a data L1 with an eviction value (R231): 3 and 2 leave it where it stands, or last; 0 and 1 make it the most
recently used. -/
def State.touchL1 (s : State) (u line : Nat) (e : BitVec 2) : State :=
  s.modUnit u (fun x =>
    if e = 3 ∨ e = 2 then
      (if x.dl1Lru.any (fun l => l.1 == line) then
        { x with dl1Lru := x.dl1Lru.map (fun l => if l.1 = line then (line, e) else l) }
       else { x with dl1Lru := x.dl1Lru ++ [(line, e)] })
    else { x with dl1Lru := (line, e) :: x.dl1Lru.filter (fun l => l.1 != line) })

/-- A line out of a data L1: its dirty bytes written back, its bytes gone (R195, R223). -/
def State.evictLine (s : State) (u line : Nat) : State :=
  (s.releaseLines u none [line]).modUnit u (fun x =>
    { x with dl1 := x.dl1.filter (fun b => b.1 / 64 != line), dl1Lru := x.dl1Lru.filter (fun l => l.1 != line) })

/-- A way for a line at a data L1: where its set is full, a line leaves (R223, R231). -/
def State.roomL1 (s : State) (u line : Nat) : State :=
  let set := (s.unit u).l1Set (line % 128)
  if set.any (fun l => l.1 == line) then s
  else
    let s1 := if (s.unit u).dl1Lru.any (fun l => l.1 == line) then
        s.modUnit u (fun x => { x with dl1Lru := x.dl1Lru.filter (fun l => l.1 != line) })
      else s
    if set.length < l1Ways then s1
    else match l1Victim set with
      | some v => s1.evictLine u v
      | none => s1

/-- The clean copies of bytes given up by a unit's data L1, so that its later loads see a write performed at their home (R193,
R202, R204, R210; log 17). -/
def State.dropClean (s : State) (u pa n : Nat) : State :=
  let old (b : Nat × L1Byte) : Bool := !b.2.dirty && decide (pa ≤ b.1) && decide (b.1 < pa + n)
  if (s.unit u).dl1.any old then s.modUnit u (fun x => { x with dl1 := x.dl1.filter (fun b => !(old b)) }) else s

/-- A word's line written back and the word's copies given up, before an operation on the word is sent to its home (R192, R193;
log 17). -/
def State.giveUp (s : State) (u pa : Nat) : State := (s.releaseLines u none [pa / 64]).dropClean u (pa / 8 * 8) 8

/-- The acquire half of R195: every byte that is not dirty becomes not present. -/
def State.invalidate (s : State) (u : Nat) : State :=
  if (s.unit u).dl1.all (fun b => b.2.dirty) then s
  else s.modUnit u (fun x => { x with dl1 := x.dl1.filter (fun b => b.2.dirty) })

/-- The unit that sent an access, and its block: accesses of one unit to one block are performed in the order in which they were
sent (R192). -/
def Msg.lane : Msg → Option (Nat × Nat)
  | .ustore _ u _ _ _ pa _ => some (u, pa / 64)
  | .frameInit _ u _ _ pa _ => some (u, pa / 64)
  | .writeBack u _ _ _ ((pa, _) :: _) => some (u, pa / 64)
  | .sync rq => some (rq.unit, rq.pa / 64)
  | .moonlet _ u _ _ _ pa _ => some (u, pa / 64)
  | .frameInc _ u _ _ pa => some (u, pa / 64)
  | .frameDec _ u _ _ pa _ => some (u, pa / 64)
  | .await _ u _ _ pa _ => some (u, pa / 64)
  | _ => none

/-- The pages that a change of page ownership names: the first and their number (R396, R399). -/
def Msg.pagesChanged : Msg → Option (Nat × Nat)
  | .inbound (.biasFlip _ _ payload) => some (bits (nth payload 0 0) 16 36, (nth payload 1 0).toNat)
  | .inbound (.pageMove pa _ _) => some (pa / 65536, 1)
  | _ => none

/-- Whether a change of page ownership placed before a message meets one of n pages, so that what reaches their homes is held (R396
step 1; log 54). -/
def State.pagesHeld (s : State) (id first n : Nat) : Bool :=
  s.wire.any (fun m => decide (m.1 < id) && (match m.2.pagesChanged with
    | some (p, k) => decide (p < first + n) && decide (first < p + k)
    | none => false))

/-- Whether an access sent before a message, by its unit and to its block, is still under way on this device, or the message is held for
a change of its page (R192, R396). -/
def State.behind (s : State) (id u pa : Nat) : Bool :=
  s.wire.any (fun m => decide (m.1 < id) && m.2.lane == some (u, pa / 64) && !(s.asked.contains m.1)) ||
  s.pagesHeld id (pa / 65536) 1

/-- Whether an entry takes a stretch of its tenant's addresses, from va on, to one of n pages. -/
def TlbEntry.takes (t : TlbEntry) (tenant va len first n : Nat) : Bool :=
  let lo := max t.va va
  let hi := min (t.va + t.size) (va + len)
  t.tenant == tenant && decide (lo < hi) && decide (t.addr lo < (first + n) * 65536) && decide (first * 65536 < t.addr hi)

/-- Whether a stretch of a tenant's addresses lies in one of n pages, as a unit's TLB maps it or software gave it last (R396). -/
def State.mapsTo (s : State) (tenant va len first n : Nat) : Bool :=
  s.units.any (fun u => u.2.tlb.any (fun t => t.takes tenant va len first n)) ||
  s.mapped.any (fun t => t.takes tenant va len first n)

/-- Whether a tenant maps one of n pages (R396). -/
def State.mapsPages (s : State) (tenant first n : Nat) : Bool := s.mapsTo tenant 0 (2 ^ 56) first n

/-- Whether some write-back of a unit is under way. -/
def State.releasing (s : State) (u : Nat) : Bool :=
  s.wire.any (fun m => match m.2 with | .writeBack u' _ _ _ _ => u' == u | _ => false)

/-- The unit whose store a message carries: a write-back, a store that goes past the data L1, the words of a FRAME or a FILL. -/
def Msg.storeOf : Msg → Option Nat
  | .writeBack u _ _ _ _ => some u
  | .ustore _ u _ _ _ _ _ => some u
  | .frameInit _ u _ _ _ _ => some u
  | .sync rq => if rq.op = .fill then some rq.unit else none
  | _ => none

/-- Whether no store of a unit that started before a message is still under way, whichever of its contexts stored: what leaves the unit
comes after the stores of a trapped context and of a spawner (R190, R192, R195). -/
def State.released (s : State) (u id : Nat) : Bool :=
  s.wire.all (fun m => m.2.storeOf != some u || decide (id ≤ m.1))

end Sys2Proof.Machine
end

