-- ==== Sys2Proof/Machine/Ops.lean ====
section
/-! DEFINITION. Operations on contexts: their states and waits, the context allocator, taking a trap, parking, departing
as a comet, and the issue of an instruction (R20-R51, R268, R291, R299-R312, R340, R341, R404, R405). -/

namespace Sys2Proof.Machine

/-! ## Contexts -/

/-- The context of a VA. -/
def State.ctx? (s : State) (va : Nat) : Option Ctx := Assoc.get s.lines va
/-- The state with a context replaced. -/
def State.setCtx (s : State) (va : Nat) (c : Ctx) : State := { s with lines := Assoc.set s.lines va c }
/-- The state with a context changed, if there is one. -/
def State.modCtx (s : State) (va : Nat) (f : Ctx → Ctx) : State :=
  match s.ctx? va with | some c => s.setCtx va (f c) | none => s
/-- The state with a line changed. -/
def State.modLine (s : State) (va : Nat) (f : Line → Line) : State := s.modCtx va (fun c => { c with line := f c.line })
/-- The state with a book changed. -/
def State.modBook (s : State) (va : Nat) (f : Book → Book) : State := s.modCtx va (fun c => { c with book := f c.book })

/-- A slot of a unit. -/
def State.slot (s : State) (u k : Nat) : Slot := nth (s.unit u).slots k Slot.reset
/-- A slot's occupant changed. -/
def State.setOcc (s : State) (u k : Nat) (occ : Option Nat) : State :=
  s.modUnit u (fun x => { x with slots := setNth x.slots k { nth x.slots k Slot.reset with occ := occ } })
/-- Every slot that holds a context emptied of it. -/
def State.vacate (s : State) (va : Nat) : State :=
  match s.ctx? va with
  | some c => match c.book.owner with
    | .l1 u =>
      if (s.unit u).slots.any (fun k => k.occ == some va) then
        s.modUnit u (fun x => { x with slots := x.slots.map (fun k => if k.occ = some va then { k with occ := none } else k) })
      else s
    | _ => s
  | none => s

/-- The cycle at which a unit's current turn issues. -/
def State.issueCycle (s : State) (u : Nat) : Nat := (s.unit u).cycle - 1

/-- The allocator's cluster for a context at a unit (R43): an IU's own; for a CIU the context's home cluster, or the lowest
started one where that is fenced. -/
def State.allocCluster (s : State) (u hclu : Nat) : Nat :=
  if u < 1536 then u / 96
  else if s.clusterUp hclu then hclu
  else ((List.range 16).find? (fun c => s.clusterUp c)).getD 0

/-! ## Becoming READY (R22, R23, R300, R303, R305) -/

/-- READY lines of an IU: those in its L1 and those assigned to it (R303). -/
def State.readyLoad (s : State) (u : Nat) : Nat :=
  (s.lines.filter (fun e => e.2.line.st == .ready && (e.2.book.owner == .l1 u || e.2.book.assigned == some u))).length

/-- The IU of a cluster with the fewest READY lines, ties to the lowest number (R303). -/
def State.leastLoaded (s : State) (cl : Nat) : Nat :=
  ((List.range 96).foldl (fun (best : Nat × Nat) i =>
    let n := s.readyLoad (cl * 96 + i)
    if n < best.2 then (cl * 96 + i, n) else best) (cl * 96, s.readyLoad (cl * 96))).1

/-- The IU to which a READY line of a cluster's context L2 or ready lists is assigned (R303). -/
def State.assignTo (s : State) (cl : Nat) (last : Option Nat) : Nat :=
  match last with
  | some u => if u / 96 = cl ∧ u < 1536 then u else s.leastLoaded cl
  | none => s.leastLoaded cl

/-- A context's state changed, with its wait, and stamped (R300). -/
def State.setSt (s : State) (va : Nat) (st : CtxState) (w : Wait) : State :=
  { s.modCtx va (fun c => { line := { c.line with st := st, wait := w }, book := { c.book with stamp := s.stamp } }) with
    stamp := s.stamp + 1 }

/-- The status of a HALT.Q that has come due, and the others left (R386). -/
def State.payHalt (s : State) (va : Nat) : State :=
  match s.ctx? va with
  | none => s
  | some c =>
    if c.line.st = .halted ∧ c.line.engs = 0 ∧ c.line.tiles = 0 then
      c.book.haltDue.foldl (fun s d => s.post (.load d.ctx d.reg 0 false))
        (s.modBook va (fun b => { b with haltDue := [] }))
    else s

/-- A context becomes READY at its owner, or HALTED while HALTREQ is set (R22, R23, R305).  One whose line is held by a take is assigned
to no IU (R431). -/
def State.makeReady (s : State) (va : Nat) : State :=
  match s.ctx? va with
  | none => s
  | some c =>
    let s0 := s.modBook va (fun b => { b with timer := none, sent := false, wasted := 0 })
    if c.line.haltReq then (s0.setSt va .halted .debug).payHalt va
    else
      match c.book.owner with
      | .l1 _ => s0.setSt va .ready .none
      | .l2 cl | .hbm cl =>
        if c.book.take.isSome then s0.setSt va .ready .none
        else
          let u := s0.assignTo cl c.book.lastUnit
          (s0.setSt va .ready .none).modBook va (fun b => { b with assigned := some u })

/-- The condition of R276: every enabled counter at or below its limit. -/
def Line.meets (l : Line) (cond : W32) : Bool :=
  let c := cond.toNat
  (natBits c 30 1 == 0 || decide (l.tiles ≤ natBits c 24 6)) && (natBits c 22 1 == 0 || decide (l.engs ≤ natBits c 16 6)) &&
  (natBits c 14 1 == 0 || decide (l.stores ≤ natBits c 8 6)) && (natBits c 6 1 == 0 || decide (l.loads ≤ natBits c 0 6))

/-- Ends a wait of kind 5 whose condition has come to hold (R28, R276), and pays a HALT.Q. -/
def State.wake (s : State) (va : Nat) : State :=
  match s.ctx? va with
  | none => s
  | some c =>
    if c.line.st = .waiting then
      match c.line.wait with
      | .regs mask => if c.line.pend &&& mask = 0 then s.makeReady va else s
      | .counters cond => if c.line.meets cond then s.makeReady va else s
      | _ => s
    else s.payHalt va

/-! ## The context allocator (R39-R41, R43) -/

/-- A header word's physical address, if the header can be reached (R39). -/
def State.headerPa (s : State) (u tenant off : Nat) : Option (Nat × Nat) :=
  match (s.tenant tenant).arena with
  | none => none
  | some (base, _) => (s.xlateAny u tenant (base + off) accWrite).map (fun e => (e.addr (base + off), e.kslot))

/-- The state once the arena's header is read: corrected, or quarantined, where its block does not verify (R365, R366). -/
def State.openHeader (s : State) (u tenant : Nat) : State :=
  match s.headerPa u tenant 0 with
  | some (pa, k) => (s.verify pa k).1
  | none => s

/-- A word of the arena's header. -/
def State.header (s : State) (u tenant off : Nat) : Option Nat :=
  match s.headerPa u tenant off with
  | some (pa, k) => match s.verify pa k with
    | (_, none) => some (Memory.dword s.mem pa).toNat
    | _ => none
  | none => none

/-- Bytes that the device writes for itself: one discarded because its block fails is reported to the management core (R364, R406).
-/
def State.storeOwn (s : State) (kslot : Nat) (cs : List Host.Cell) : State :=
  match s.storeBlock kslot cs with
  | (s1, none) => s1
  | (s1, some _) => s1.notice 0x04 0 [0, w64 (match cs with | [] => 0 | c :: _ => c.1), 0]

/-- The header with a word written at its home (R40). -/
def State.setHeader (s : State) (u tenant off v : Nat) : State :=
  match s.headerPa u tenant off with
  | some (pa, k) => s.storeOwn k (cellsAt pa (bytesOf v 8))
  | none => s

/-- The link at offset 0 of a free line, read through its tenant's translation (R39); none where its page cannot be translated or
its block fails. -/
def State.linkOf (s : State) (u tenant va : Nat) : Option Nat :=
  match s.xlateAny u tenant va accRead with
  | none => none
  | some e => match s.ctx? va with
    | some c => some (c.line.reg 0).toNat
    | none => match Assoc.get s.records va with
      | some ws => some (nth ws 0 0).toNat
      | none => match s.verify (e.addr va) e.kslot with
        | (_, some _) => none
        | (_, none) => some (Memory.dword s.mem (e.addr va)).toNat

/-- The state once the link of a free line is read (R365, R366). -/
def State.openLink (s : State) (u tenant va : Nat) : State :=
  if (s.ctx? va).isSome || (Assoc.get s.records va).isSome then s
  else match s.xlateAny u tenant va accRead with
    | none => s
    | some e => (s.verify (e.addr va) e.kslot).1

/-- A doubleword of an arena line written in HBM, if its page is translated. -/
def State.lineHbm (s : State) (u tenant va v : Nat) : State :=
  match s.xlateAny u tenant va accWrite with
  | some e => s.storeOwn e.kslot (cellsAt (e.addr va) (bytesOf v 8))
  | none => s

/-- A free line's link written, at the line and in HBM. -/
def State.setLink (s : State) (u tenant va v : Nat) : State :=
  let s1 := match s.ctx? va with
    | some c => s.setCtx va { c with line := c.line.setReg 0 (w64 v) }
    | none => match Assoc.get s.records va with
      | some ws => { s with records := Assoc.set s.records va (setNth ws 0 (w64 v)) }
      | none => s
  s1.lineHbm u tenant va v

/-- The next lines of the free list, at most fuel of them, and the head that stays (R40, R41).  A line whose link cannot be read
ends the run and stays at the head (R39). -/
def State.freeRun (s : State) (u tenant : Nat) : Nat → Nat → List Nat × Nat
  | 0, va => ([], va)
  | n + 1, va =>
    if s.lineOk tenant va then
      match s.linkOf u tenant va with
      | none => ([], va)
      | some next =>
        let r := s.freeRun u tenant n next
        (va :: r.1, r.2)
    else ([], va)

/-- The state once the links of a run of the free list are read (R365, R366). -/
def State.openRun (s : State) (u tenant : Nat) : Nat → Nat → State
  | 0, _ => s
  | n + 1, va =>
    if s.lineOk tenant va then
      match s.linkOf u tenant va with
      | none => s.openLink u tenant va
      | some next => (s.openLink u tenant va).openRun u tenant n next
    else s

/-- The state once an allocation has read what it needs of a tenant's arena: nothing where the allocator's cache holds a line (R40,
R365). -/
def State.openArena (s : State) (u cl tenant : Nat) : State :=
  match (Assoc.get (s.cluster cl).cache tenant).getD [] with
  | _ :: _ => s
  | [] =>
    let s1 := s.openHeader u tenant
    s1.openRun u tenant 32 ((s1.header u tenant 0x10).getD 0)

/-- A line from a tenant's sources at a cluster's allocator, in the order of R40; none where every source is empty. -/
def State.allocFrom (s0 : State) (u cl tenant : Nat) : Option (Nat × State) :=
  let s := s0.openArena u cl tenant
  let cache := (Assoc.get (s.cluster cl).cache tenant).getD []
  match cache.reverse with
  | va :: rest => some (va, s.modCluster cl (fun c => { c with cache := Assoc.set c.cache tenant rest.reverse }))
  | [] =>
    match s.header u tenant 0x10, s.header u tenant 0x18, s.header u tenant 0x00, (s.tenant tenant).arena with
    | some head, some count, some bump, some (base, n) =>
      match s.freeRun u tenant 32 head with
      | (va :: rest, next) =>
        let s1 := (s.setHeader u tenant 0x10 next).setHeader u tenant 0x18 (count - (rest.length + 1))
        some (va, s1.modCluster cl (fun c => { c with cache := Assoc.set c.cache tenant rest.reverse }))
      | ([], _) =>
        if 1 ≤ bump ∧ bump < n then some (base + 128 * bump, s.setHeader u tenant 0x00 (bump + 1)) else none
    | _, _, _, _ => none

/-- A line for a system handler: the sources of R40 first, then the cluster's reserve (R43).  Which line of the reserve goes first
the spec leaves open; the model takes the one that entered it first (DESIGN CHOICE, log 70). -/
def State.allocSystem (s : State) (u cl : Nat) : Option (Nat × State) :=
  match s.allocFrom u cl 0 with
  | some r => some r
  | none => match (s.cluster cl).reserve with
    | va :: rest => some (va, s.modCluster cl (fun c => { c with reserve := rest }))
    | [] => none

/-- Lines returned to the head of the arena's free list, in order (R40).  A line outside the bounds is dropped (R41). -/
def State.pushFree (s : State) (u tenant : Nat) (vas : List Nat) : State :=
  vas.foldl (fun s va =>
    if s.lineOk tenant va then
      let s1 := s.openHeader u tenant
      let head := (s1.header u tenant 0x10).getD 0
      let count := (s1.header u tenant 0x18).getD 0
      ((s1.setLink u tenant va head).setHeader u tenant 0x10 va).setHeader u tenant 0x18 (count + 1)
    else s) s

/-- A line enters the cache of a cluster, or a system line the reserve (R40, R43). -/
def State.cacheLine (s : State) (u cl tenant va : Nat) : State :=
  if !(s.lineOk tenant va) then s
  else if tenant = 0 ∧ (s.cluster cl).reserve.length < 16 then
    s.modCluster cl (fun c => { c with reserve := c.reserve ++ [va] })
  else
    let cache := (Assoc.get (s.cluster cl).cache tenant).getD [] ++ [va]
    if cache.length ≤ 64 then s.modCluster cl (fun c => { c with cache := Assoc.set c.cache tenant cache })
    else (s.modCluster cl (fun c => { c with cache := Assoc.set c.cache tenant (cache.drop 32) })).pushFree u tenant
           (cache.take 32)

/-- A line becomes FREE (R22, R40), where it is (R29); a handler's record line returns with it (R44). -/
def State.freeLine (s : State) (u cl va : Nat) : State :=
  match s.ctx? va with
  | none => s
  | some c =>
    let s1 := (c.book.traps.foldl (fun s t => s.notice 0x07 0 [w64 va, w64 t.cause.toNat]) s).modCtx va (fun c =>
      { line := { c.line with st := .free, wait := .none },
        book := { c.book with record := none, traps := [], assigned := none, timer := none, haltDue := [] } })
    let s2 := s1.cacheLine u cl c.line.tenant va
    match c.book.record with
    | some r => s2.cacheLine u cl c.line.tenant r
    | none => s2

/-- The book of a new context. -/
def Book.fresh (owner : Owner) (stamp : Nat) (ranOn : Option Nat) : Book where
  owner := owner
  lastUnit := none
  assigned := none
  stamp := stamp
  ranOn := ranOn
  stepIssued := false
  msg := []
  msgStart := 0
  traps := []
  fences := []
  take := none
  timer := none
  recPend := false
  wasted := 0
  sent := false
  haltDue := []
  word := 0
  record := none
  leaving := false
  parkedAt := 0
  absent := []
  found := []

/-! ## Delivered traps and the freeze of a deque (R340, R341, R405) -/

/-- An error counted for its array kind and die; each multiple of 65,536 is reported (R406, R408). -/
def State.countCorrected (s : State) (code die : Nat) : State :=
  let k := code * 8 + die
  let n := (Assoc.get s.corrected k).getD 0 + 1
  let s1 := { s with corrected := Assoc.set s.corrected k n }
  if n % 65536 = 0 then s1.notice 0x08 0 [w64 (code + die * 256), w64 n] else s1

/-- The die of a unit: four compute dies, and the channel dies 4 and 5 (R10). -/
def dieOfUnit (u : Nat) : Nat := if u < 1536 then u / 384 else 4 + dieOfStack ((u - 1536) / 8)

/-- The device that a context is on, where it is none of this device's lines: one sent there, or one of a peer's own, which an inbound
message numbers from 2^56 up (R27; log 28). -/
def State.away (s : State) (va : Nat) : Option Nat :=
  match s.ctx? va with
  | some _ => none
  | none => if 2 ^ 56 ≤ va then some (va / 2 ^ 56 - 1) else Assoc.get s.abroad va

/-- A delivery forwarded to the device that a context is on (R27). -/
def State.forward (s : State) (va : Nat) (ws : List W64) : Option State :=
  (s.away va).map (fun d => { s with peerOut := s.peerOut ++ [(d, [8, w64 (va % 2 ^ 56)] ++ ws)] })

/-- A trap's cause and the instruction word of the wait that it ended, as one word of a message (log 28). -/
def DTrap.codeWord (t : DTrap) : W64 := w64 (t.cause.toNat + 2 ^ 32 * t.word.toNat)

/-- Delivers a trap to a context; one that finds the line FREE is reported (R405, R406). -/
def State.deliverTrap (s : State) (va : Nat) (t : DTrap) : State :=
  match s.ctx? va with
  | some c =>
    if c.line.st = .free then s.notice 0x07 0 [w64 va, w64 t.cause.toNat]
    else s.modBook va (fun b => { b with traps := b.traps ++ [t] })
  | none => (s.forward va [4, t.codeWord, t.fva, t.detail]).getD (s.notice 0x07 0 [w64 va, w64 t.cause.toNat])

/-- A tenant's row of DQ_CFG at an IU (R329). -/
def Unit.dqRow (x : Unit) (tenant : Nat) : DqCfg := (Assoc.get x.dqcfg tenant).getD ⟨false, 1, 1⟩
/-- A tenant's view frozen or thawed. -/
def State.setFrozen (s : State) (u tenant : Nat) (b : Bool) : State :=
  s.modUnit u (fun x => { x with dqcfg := Assoc.set x.dqcfg tenant { x.dqRow tenant with frozen := b } })

/-- The causes that freeze a deque (R341). -/
def freezes (cause : Byte) : Bool :=
  [0x01, 0x02, 0x03, 0x05, 0x07, 0x08, 0x09, 0x0F, 0x10, 0x11, 0x13].contains cause.toNat

/-- Where the fault record of a freeze is written, or a frame's FAULTED is set: the physical address and its page; a page with no entry is
asked of the TSU, and any other failure ends the record. -/
inductive RecordPlace where
  | at' (s : State) (pa : Nat) (a : PageAttr)
  | miss
  | lost
  | bad (s : State) (pa : Nat)

/-- The place of a VA for a fault record (R200, R341, R392). -/
def State.recordPlace (s : State) (u tenant va acc : Nat) : RecordPlace :=
  match s.xlate u tenant va acc with
  | .error .miss => .miss
  | .error (.fault _) => .lost
  | .ok e => match s.wordHome tenant (e.addr va) with
    | .error _ => .lost
    | .ok (_, pa) => match s.verify pa (s.homeAttr e pa).kslot with
      | (s1, some _) => .bad s1 pa
      | (s1, none) => .at' (s1.touchTlb u e) pa (s.homeAttr e pa)

/-- Bytes of a fault record written at their home, told to the peer whose memory holds them; one discarded is reported (R341, R364). -/
def State.recordWrite (s : State) (pa : Nat) (a : PageAttr) (bs : List Byte) : State × Bool :=
  match ((s.l2Yield pa).tellPeer pa (peerStore pa bs)).storeBlock a.kslot (cellsAt pa bs) with
  | (s1, some _) => (s1.notice 0x04 0 [0, w64 pa, 0], false)
  | (s1, none) => (s1, true)

/-- Writes the fault record of a freeze and sets FAULTED (R316, R318, R341 step 2): with FAULTED set already, or a pointer of 0, nothing
is written (log 14).  A page with no entry is asked of the TSU, and a record that a replay port holds is tried again, by the
same message (R220, R357); a page that fails its check ends the record, which is reported. -/
def State.faultRecord (s : State) (u tenant frame va : Nat) (h : DqEntry) (cause : Byte) : State :=
  let ask (s : State) (va' acc : Nat) : State :=
    s.post (.miss ⟨.record va frame h cause, u, u / 96, tenant, w64 va', acc, 0⟩)
  let lost (s : State) : State := s.notice 0x07 0 [w64 va, w64 cause.toNat]
  match s.recordPlace u tenant frame accRmw with
  | .miss => ask s frame accRmw
  | .lost => lost s
  | .bad s1 pa => s1.notice 0x04 0 [0, w64 pa, 0]
  | .at' s1 pa a =>
    let w := (Memory.dword s1.mem pa).toNat
    let ptr := (Memory.dword s1.mem (pa + 16)).toNat % 2 ^ 56
    if natBits w 33 1 = 1 ∨ ptr = 0 then s1
    else match s1.recordPlace u tenant ptr accWrite with
      | .miss => ask s1 ptr accWrite
      | .lost => lost s1
      | .bad s2 p => s2.notice 0x04 0 [0, w64 p, 0]
      | .at' s2 p b =>
        let arrival (pa : Nat) (a : PageAttr) (n : Nat) : Port × Bool × Nat × Arrival :=
          (.stack (stackOf pa), a.trace && isStack pa, a.kslot, ⟨5, s.device, u, a.tenant, pa, n⟩)
        match s2.admitList (recordId va) [arrival p b 32, arrival pa a 8] with
        | .hold s3 => ask s3 frame accRmw
        | .perform s3 =>
          match s3.recordWrite p b (wordsBytes [h.w0, h.w1, w64 va, w64 (cause.toNat + u * 2 ^ 16 + s.device * 2 ^ 32)]) with
          | (s4, false) => s4
          | (s4, true) => (s4.recordWrite pa a (bytesOf (w + 2 ^ 33) 8)).1

/-- The freeze that a cause raises where the unit holds an entry for the context (R341). -/
def State.freeze (s : State) (u va : Nat) (l : Line) (cause : Byte) : State :=
  if u < 1536 ∧ freezes cause then
    match Assoc.get (s.unit u).holding va with
    | none => s
    | some h =>
      let s0 := s.setFrozen u l.tenant true
      let s1 := if l.join ≠ 0 then s0.faultRecord u l.tenant (va56 l.join) va h cause
        else if l.frame ≠ 0 then s0.faultRecord u l.tenant (va56 l.frame) va h cause
        else s0
      (s1.unit u).slots.foldl (fun s k =>
        match k.occ with
        | none => s
        | some v =>
          if v = va then s
          else match s.ctx? v with
            | some c =>
              if c.line.tenant = l.tenant ∧ c.line.st = .issuing then
                let own := match Assoc.get (s.unit u).holding v with
                  | some e => w64 (natBits e.w0.toNat 2 54 * 4)
                  | none => 0
                s.deliverTrap v ⟨0x0D, 0, own, 0⟩
              else s
            | none => s) s1
  else s

/-! ## Victims and evictions (R29, R301, R304) -/

/-- Whether a line is on its way to the unit that has taken it (R335, R431): it stands in no L1 yet. -/
def Ctx.moving (c : Ctx) : Bool := match c.book.take with | some u => c.book.owner == .l1 u | none => false
/-- The group of R301 of a line: 1 to 3, or none for a line that is passed over. -/
def Ctx.victimGroup (c : Ctx) : Option Nat :=
  if c.line.openMsg || c.line.stores != 0 || c.moving || c.book.leaving then none
  else match c.line.st with
    | .halted | .trapped | .done => some 1
    | .waiting => some 2
    | .ready => some 3
    | _ => none

/-- Whether one line goes before another as a victim: its group, then the lower CLASS, then the longest in its state, or
for READY lines the youngest stamp (R301). -/
def victimBefore (cls : Nat → Nat) (g1 : Nat) (a : Ctx) (g2 : Nat) (b : Ctx) : Bool :=
  decide (g1 < g2) || (g1 == g2 && (decide (cls a.line.queue < cls b.line.queue) ||
    (cls a.line.queue == cls b.line.queue &&
      (if g1 = 3 then decide (b.book.stamp < a.book.stamp) else decide (a.book.stamp < b.book.stamp)))))

/-- CLASS of a queue as the owner of a context cache sees it (R295, R384): a unit as its last boundary saw QWT, and a context L2 once every
unit holds the entry (log 84). -/
def State.classAt (s : State) (o : Owner) (q : Nat) : Nat :=
  match o with
  | .l1 u => ((Assoc.get (s.unit u).qwt q).getD Qwt.reset).cls
  | _ =>
    match s.wire.findSome? (fun m => match m.2 with
      | .qwtSet _ q' old us => if q' = q ∧ us ≠ [] then some old else none
      | _ => none) with
    | some old => old.cls
    | none => (s.queue q).cls

/-- The victim among the lines of one owner (R301). -/
def State.victim (s : State) (o : Owner) : Option Nat :=
  (s.lines.foldl (fun (best : Option (Nat × Nat × Ctx)) e =>
    if e.2.book.owner = o then
      match e.2.victimGroup, best with
      | none, _ => best
      | some g, none => some (e.1, g, e.2)
      | some g, some (_, g', c') =>
        if victimBefore (s.classAt o) g e.2 g' c' then some (e.1, g, e.2) else best
    else best) none).map (fun r => r.1)

/-- A change of owner: OSEQ goes up by one (R29, R30). -/
def State.changeOwner (s : State) (va : Nat) (o : Owner) : State :=
  s.modCtx va (fun c =>
    { line := { c.line with oseq := (c.line.oseq + 1) % 65536 }, book := { c.book with owner := o } })

/-- Lines in a context L1 (R12: 256 entries).  A FREE line, one on its way and one whose eviction is claimed take no entry. -/
def State.l1Count (s : State) (u : Nat) : Nat :=
  (s.lines.filter (fun e => e.2.book.owner == .l1 u && e.2.line.st != .free && e.2.line.st != .transit && !e.2.moving &&
    !e.2.book.leaving)).length

/-- Lines in the context L2 of a cluster (R13: 65,536). -/
def State.l2Count (s : State) (cl : Nat) : Nat :=
  (s.lines.filter (fun e => e.2.book.owner == .l2 cl && e.2.line.st != .free && e.2.line.st != .transit && !e.2.book.leaving)).length

/-- The cluster whose context L2 receives a line that a unit's L1 evicts (R301): a CIU's goes to the line's home cluster. -/
def evictCluster (u hclu : Nat) : Nat := if u < 1536 then u / 96 else hclu

/-- Whether a line of an arena can be written to HBM: its page is translated (R39). -/
def State.canEvictL2 (s : State) (va : Nat) : Bool :=
  match s.arenaOf va with
  | some t => (s.xlateMapped t va accWrite).isSome
  | none => false

/-- The victim of a context L2, lines that cannot be translated passed over (R39, R304). -/
def State.victimL2 (s : State) (cl : Nat) : Option Nat :=
  { s with lines := s.lines.filter (fun e => s.canEvictL2 e.1) }.victim (.l2 cl)

/-- The lines that a context L2 passes over on the way to its victim, or to none, for want of a translation of their page (R39). -/
def State.passedL2 (s : State) (cl : Nat) : List Nat :=
  let v := (s.victimL2 cl).bind (fun v => (s.ctx? v).bind (fun c => c.victimGroup.map (fun g => (g, c))))
  (s.lines.filter (fun e => e.2.book.owner == .l2 cl && !(s.canEvictL2 e.1) && (match e.2.victimGroup, v with
    | some g, some (g', c) => victimBefore (s.classAt (.l2 cl)) g e.2 g' c
    | some _, none => true
    | none, _ => false))).map (fun e => e.1)

/-- The lines that a context L2 passes over, reported (R39). -/
def State.reportPassed (s : State) (cl : Nat) : State :=
  match (s.passedL2 cl).filter (fun v => !(s.passedOver.contains v)) with
  | [] => s
  | l => { s with passedOver := s.passedOver ++ l }

/-- Places a claim for a line in the orrery's order (R29, R309).  A line that leaves a context L1 has that unit's data L1 written
back before the claim takes effect (R195, R196). -/
def State.placeClaim (s : State) (va : Nat) (dest : Owner) (why : ClaimWhy) : State :=
  match s.ctx? va with
  | none => s
  | some c =>
    let s1 := match c.book.owner with | .l1 u => s.release u none | _ => s
    s1.post (.claim va dest why c.line.oseq)

/-- The claim that evicts a line to a destination (R29, R301, R304). -/
def State.claimEvict (s : State) (va : Nat) (dest : Owner) : State :=
  (s.placeClaim va dest .evict).modBook va (fun b => { b with leaving := true })

/-- Where a victim of a unit's context L1 goes (R301): the context L2 of its cluster, or for a CIU's the home cluster's on the line's
home device. -/
def State.evictDest (s : State) (u va : Nat) : Owner :=
  match s.ctx? va with
  | some c => .l2 (evictCluster u c.line.hclu)
  | none => .l2 (u / 96)

/-- Room for one more line in a context L1: none where every line is passed over (R301).  The victim's entry is given up at once,
and its owner changes when the claim takes effect (R29). -/
def State.makeRoom (s : State) (u : Nat) : Option State :=
  if s.l1Count u < 256 then some s
  else (s.victim (.l1 u)).map (fun v => s.claimEvict v (s.evictDest u v))

/-- Room for one more line in a context L2 (R304): a victim goes to HBM; none where every line is passed over. -/
def State.makeRoomL2 (s : State) (cl : Nat) : Option State :=
  if s.l2Count cl < 65536 then some s
  else (s.victimL2 cl).map (fun v => (s.reportPassed cl).claimEvict v (.hbm cl))

/-- Room where a line is brought (R301, R304). -/
def State.roomAt (s : State) (dest : Owner) : Option State :=
  match dest with
  | .l1 u => s.makeRoom u
  | .l2 cl => s.makeRoomL2 cl
  | .hbm _ => some s

/-! ## Taking a trap (R42-R45, R404) -/

/-- Causes of the system vector (R43). -/
def systemCause (c : Byte) : Bool := [0x04, 0x08, 0x09, 0x0B, 0x0C].contains c.toNat

/-- The trap record (R45). -/
def trapRecord (va : Nat) (l : Line) (word : W32) (cause : Byte) (fva detail : W64) (unit dev : Nat) : List W64 :=
  [w64 va, w64 l.pc.toNat, w64 (word.toNat + cause.toNat * 2 ^ 32 + b2n (systemCause cause) * 2 ^ 40), fva, detail,
   w64 (l.oseq + unit * 2 ^ 16 + dev * 2 ^ 32), w64 l.stat, 0, 0, 0, 0, 0, 0, 0, 0, 0]

/-- The handler's line (R44).  R44 does not state the handler's CTX.AUX; the model starts OSEQ at 0 and HALTREQ at 0 (DESIGN CHOICE,
log 71). -/
def handlerLine (va rec : Nat) (l : Line) (cause : Byte) (vec : VAddr) (hclu hdev : Nat) (st : CtxState) : Line where
  g := #v[w64 va, w64 rec, 0, 0, 0, 0, 0, 0]
  pc := vec
  pred := 0x80000000
  pend := 0
  cause := 0
  stepOn := false
  openMsg := false
  flags := {}
  st := st
  priv := systemCause cause
  round := .rne
  wait := .none
  frame := 0
  join := 0
  wlimit := 0
  tiles := 0
  engs := 0
  stores := 0
  loads := 0
  hdev := hdev
  hclu := hclu
  queue := l.queue
  tenant := if systemCause cause then 0 else l.tenant
  haltReq := false
  oseq := 0

/-- Where a trap is raised: the slot of a unit, or a line that no unit's slot holds, with the cluster whose allocator
serves it (R43, R308). -/
inductive TrapPlace where
  | slot (u k : Nat)
  | line (cluster : Nat)
  deriving DecidableEq, Repr

/-- The owner of a handler's line (R42, R308): the unit of the slot, the L1 that owns the trapped line, or the context L2 of the
cluster whose allocator supplies it. -/
def TrapPlace.handlerOwner (p : TrapPlace) (o : Owner) : Owner :=
  match p, o with
  | .slot u _, _ => .l1 u
  | .line _, .l1 u => .l1 u
  | .line cl, _ => .l2 cl

/-- Two lines for a handler, or none; lines already taken go back when the second is missing. -/
def State.allocPair (s : State) (u cl tenant : Nat) (system : Bool) : Option (Nat × Nat × State) :=
  let one (s : State) := if system then s.allocSystem u cl else s.allocFrom u cl tenant
  match one s with
  | none => none
  | some (h, s1) => match one s1 with
    | none => none
    | some (r, s2) => some (h, r, s2)

/-- Takes one trap of a context (R42-R45): the line TRAPPED with its cause and CTX.PC as the line holds it, the freeze of
R341 at the IU that holds an entry for it, a handler with its record, placed in the slot or READY.  word is the record's instruction word; step says that the
stepped instruction itself trapped, or 0x15 was raised, which clears STEP (R387). -/
def State.raiseOnce (s : State) (p : TrapPlace) (va : Nat) (cause : Byte) (fva detail : W64) (word : W32) (step : Bool) :
    State :=
  match s.ctx? va with
  | none => s
  | some c =>
    let l := c.line
    let s0 := s.vacate va
    let s1 := (s0.modCtx va (fun c =>
      { line := { c.line with cause := cause, openMsg := false, stepOn := c.line.stepOn && !step },
        book := { c.book with msg := [], wasted := 0, timer := none, sent := false, recPend := false,
                              stepIssued := c.book.stepIssued && !step } })).setSt va .trapped .none
    let u := match p with | .slot u _ => u | .line cl => cl * 96
    let unit := match p with
      | .slot u _ => u
      | .line _ => match c.book.owner with | .l1 u => u | _ => c.book.lastUnit.getD 2047
    let s2 := match s1.units.find? (fun x => (Assoc.get x.2.holding va).isSome) with
      | some x => s1.freeze x.1 va l cause
      | none => s1
    let cl := match p with | .slot u _ => s.allocCluster u l.hclu | .line cl => cl
    let system := systemCause cause
    let tv := s2.tenant (if system then 0 else l.tenant)
    let none' (s : State) : State := s.notice 0x07 0 [w64 va, w64 cause.toNat]
    if !tv.vecEn then none' s2
    else
      match s2.allocPair u cl l.tenant system with
      | none => none' (s2.openArena u cl (if system then 0 else l.tenant))
      | some (h, r, s2') =>
        let owner := p.handlerOwner c.book.owner
        let s3 := (s2'.roomAt owner).getD s2'
        let st : CtxState := match p with | .slot _ _ => .issuing | .line _ => .ready
        let ranOn : Option Nat := match p with | .slot u _ => some u | .line _ => none
        let hl := handlerLine va r l cause tv.vec cl s.device st
        let ctx : Ctx := ⟨hl, { Book.fresh owner s3.stamp ranOn with record := some r }⟩
        let s4 := { s3.setCtx h ctx with
          stamp := s3.stamp + 1
          records := Assoc.set (Assoc.erase s3.records h) r (trapRecord va l word cause fva detail unit s.device)
          lines := Assoc.erase (s3.setCtx h ctx).lines r }
        match p with
        | .slot u k => s4.setOcc u k (some h)
        | .line cl => match owner with
          | .l1 _ => s4
          | _ => let a := s4.assignTo cl none
                 s4.modBook h (fun b => { b with assigned := some a })

/-- Whether the vector that a trap of a context goes to is valid (R43). -/
def State.vectored (s : State) (va : Nat) (cause : Byte) : Bool :=
  match s.ctx? va with
  | none => false
  | some c => (s.tenant (if systemCause cause then 0 else c.line.tenant)).vecEn

/-- Whether a handler finds room in the context cache that it is created in (R301, R304, R308): without it the trap waits.  A trap whose
tenant has no valid vector makes no handler and needs none (R45). -/
def State.handlerRoom (s : State) (p : TrapPlace) (va : Nat) (cause : Byte) : Bool :=
  !(s.vectored va cause) || (match s.ctx? va with
    | none => true
    | some c => (((s.vacate va).modLine va (fun l => { l with st := .trapped, openMsg := false })).roomAt
        (p.handlerOwner c.book.owner)).isSome)

/-- Whether a line whose tenant and queue these are passes the check of a slot (R351); tenant 0 passes in any queue. -/
def State.queueOk (s : State) (tenant q : Nat) : Bool := tenant == 0 || (s.tenant tenant).qset.getLsbD q

/-- A trap taken, its handler checked as it enters the slot (R351): one that fails is TRAPPED with cause 0x05 and its own VA, and so
on for that trap's handler. -/
def State.raiseN : Nat → State → TrapPlace → Nat → Byte → W64 → W64 → W32 → Bool → State
  | 0, s, p, va, cause, fva, detail, word, step => s.raiseOnce p va cause fva detail word step
  | n + 1, s, p, va, cause, fva, detail, word, step =>
    let s1 := s.raiseOnce p va cause fva detail word step
    match p with
    | .line _ => s1
    | .slot u k => match (s1.slot u k).occ with
      | none => s1
      | some h => match s1.ctx? h with
        | none => s1
        | some c =>
          if s1.queueOk c.line.tenant c.line.queue then s1
          else if s1.handlerRoom p h 0x05 then State.raiseN n s1 p h 0x05 (w64 h) 0 0 false
          else s1.deliverTrap h ⟨0x05, w64 h, 0, 0⟩

/-- Takes a trap of a context (R42-R45, R301, R351), or leaves the state as it is where the handler's line must wait. -/
def State.raise (s : State) (p : TrapPlace) (va : Nat) (cause : Byte) (fva detail : W64) (word : W32) (step : Bool) : State :=
  if s.handlerRoom p va cause then State.raiseN 16777216 s p va cause fva detail word step else s

/-- Takes a trap at a slot, or where the handler's line must wait leaves it with the context, which takes it at a later turn before its
next instruction (R301, R405). -/
def State.raiseSoon (s : State) (u k va : Nat) (cause : Byte) (fva detail : W64) : State :=
  if s.handlerRoom (.slot u k) va cause then s.raise (.slot u k) va cause fva detail 0 false
  else s.modBook va (fun b => { b with traps := ⟨cause, fva, detail, 0⟩ :: b.traps })

/-! ## Issue (R20, R28, R49-R51, R268) -/

/-- The context that issues: its unit, slot, VA, line and book. -/
structure Env where
  u : Nat
  slot : Nat
  va : Nat
  line : Line
  book : Book
  deriving DecidableEq, Repr

/-- Why an instruction does not complete at its issue. -/
inductive Stop where
  /-- A trap at the instruction (R42). -/
  | trap (cause : Byte) (fva detail : W64)
  /-- A trap at the instruction after reads of the device itself, whose corrections f makes (R40, R365). -/
  | trapAfter (f : State → State) (cause : Byte) (fva detail : W64)
  /-- A trap for a block that fails its check, which enters the quarantine table (R364, R366). -/
  | bad (fva : W64) (pa kslot : Nat)
  /-- A wasted turn; after four the context parks with the wait (R28). -/
  | waste (w : Wait)
  /-- Parks at once, after changes to the state that f makes (a release, messages sent). -/
  | park (w : Wait) (f : State → State)
  /-- A translation miss (R357). -/
  | miss (va : W64) (acc tenant : Nat)
  /-- Does not issue in this turn: what it needs first is under way, and a later turn tries again; f is what the turn itself changes. -/
  | hold (f : State → State)
  /-- Departs as a comet with CTX.PC at the instruction, after what f changes (R267, R398). -/
  | depart (dev : Nat) (dest : Owner) (f : State → State)
  /-- Not local to a CIU: the context returns to its home cluster (R268). -/
  | back

/-- The destination unit that CTX.WTAG names for a transit; a context L2 is named by the first IU of its cluster (log 15). -/
def Owner.unit : Owner → Nat
  | .l1 u => u
  | .l2 c => c * 96
  | .hbm c => c * 96

/-- The pool from which a unit's waits take timers: its cluster's, or its channel die's (R308). -/
def timerPool (u : Nat) : Nat := if u < 1536 then u / 96 else 16 + dieOfStack ((u - 1536) / 8)
/-- Timers of a pool in use. -/
def State.timersUsed (s : State) (pool : Nat) : Nat :=
  (s.lines.filter (fun e => match e.2.book.timer with | some (u, _) => timerPool u == pool | none => false)).length

/-- Whether the pool of a context's unit has a timer free (R308). -/
def State.timerFree (s : State) (e : Env) : Bool := decide (s.timersUsed (timerPool e.u) < 65536)

/-- Parks the context of a slot (R22, R28, R308): WAITING, the slot empty, a timer taken where WLIMIT is not zero; with no
timer free the wait expires at once, and where the handler of that trap must wait for room the instruction issues again (R301). -/
def State.parkNow (s : State) (e : Env) (w : Wait) : State :=
  let word := s.fetched.getD 0
  let s1 := ((s.vacate e.va).setSt e.va .waiting w).modBook e.va
    (fun b => { b with word := word, wasted := 0, parkedAt := e.slot })
  if e.line.wlimit = 0 then s1
  else if s.timerFree e then
    s1.modBook e.va (fun b => { b with timer := some (e.u, s.issueCycle e.u + 64 * e.line.wlimit.toNat) })
  else if s1.handlerRoom (.line (s.allocCluster e.u e.line.hclu)) e.va 0x0A then
    s1.raise (.line (s.allocCluster e.u e.line.hclu)) e.va 0x0A w.object w.tag word true
  else s

/-- Whether a park of a context finds the timer that it needs (R308): where it does not, the wait expires at once and nothing that the
wait would have sent is sent (R264). -/
def State.parks (s : State) (e : Env) : Bool := e.line.wlimit == 0 || s.timerFree e

/-- Sends a context away as a comet (R195, R196, R310): the release, TRANSIT, the slot empty. -/
def State.departNow (s : State) (e : Env) (dev : Nat) (dest : Owner) : State :=
  (((s.release e.u none).vacate e.va).setSt e.va .transit (.transit dev dest.unit)).modBook e.va
    (fun b => { b with wasted := 0 }) |>.post (.comet e.va dev dest)

/-- The TSU to which a unit's miss goes (R357). -/
def tsuOf (u hclu : Nat) : Nat := if u < 1536 then u / 96 else hclu

/-- What a stop leaves (R28, R42, R312): during an open message a park or a departure traps with cause 0x13. -/
def State.stopWith (s : State) (e : Env) : Stop → State
  | .trap c f d => s.raise (.slot e.u e.slot) e.va c f d (s.fetched.getD 0) true
  | .trapAfter f c v d => (f s).raise (.slot e.u e.slot) e.va c v d (s.fetched.getD 0) true
  | .bad f pa k => match (s.l2Yield pa).verify pa k with
    | (s1, some c) => s1.raise (.slot e.u e.slot) e.va c f 0 (s.fetched.getD 0) true
    | (s1, none) => s1
  | .waste w =>
    if e.book.wasted + 1 < 4 then s.modBook e.va (fun b => { b with wasted := b.wasted + 1 })
    else if e.line.openMsg then s.raise (.slot e.u e.slot) e.va 0x13 0 0 (s.fetched.getD 0) true
    else (s.parkNow e w).wake e.va
  | .park w f =>
    if e.line.openMsg then s.raise (.slot e.u e.slot) e.va 0x13 0 0 (s.fetched.getD 0) true
    else if s.parks e then f (s.parkNow e w)
    else s.parkNow e w
  | .miss va acc tenant =>
    if e.line.openMsg then s.raise (.slot e.u e.slot) e.va 0x13 0 0 (s.fetched.getD 0) true
    else if s.parks e then
      (s.parkNow e (.translation va)).post (.miss ⟨.ctx e.va, e.u, tsuOf e.u e.line.hclu, tenant, va, acc, s.stamp⟩)
    else s.parkNow e (.translation va)
  | .hold f => f s
  | .depart dev dest f =>
    if e.line.openMsg then s.raise (.slot e.u e.slot) e.va 0x13 0 0 (s.fetched.getD 0) true
    else (f s).departNow e dev dest
  | .back =>
    if e.line.openMsg then s.raise (.slot e.u e.slot) e.va 0x13 0 0 (s.fetched.getD 0) true
    else s.departNow e e.line.hdev (.l2 e.line.hclu)

/-- Marks an issue: the count of wasted turns is zero, the unit is the one the context last ran on, and a stepped
instruction has issued (R28, R195, R387). -/
def State.issued (s : State) (e : Env) : State :=
  s.modBook e.va (fun b => { b with wasted := 0, ranOn := some e.u, stepIssued := e.line.stepOn })

/-- The context whose turn it is. -/
def State.env? (s : State) : Option Env :=
  match (s.slot s.turnUnit s.turnSlot).occ with
  | none => none
  | some va => match s.ctx? va with
    | none => none
    | some c => if c.line.st = .issuing then some ⟨s.turnUnit, s.turnSlot, va, c.line, c.book⟩ else none

/-- Whether the guard lets an instruction execute (R49). -/
def Line.guard (l : Line) (g : Guard) : Bool := l.p g.gp != g.gs

/-- The pending bits of a list of registers (R28). -/
def Line.blocked (l : Line) (uses : List Reg) : BitVec 8 :=
  uses.foldl (fun m r => if l.pending r then m ||| (1#8 <<< r.toNat) else m) 0

/-- The registers of a steal of a context, whose bits its one result clears together (R331). -/
def Msg.pair (va : Nat) : Msg → BitVec 8
  | .steal ⟨_, _, some (c, d, a), _, _, _⟩ => if c = va then (1#8 <<< d.toNat) ||| (1#8 <<< a.toNat) else 0
  | .stealResult c _ d a _ _ _ => if c = va then (1#8 <<< d.toNat) ||| (1#8 <<< a.toNat) else 0
  | _ => 0

/-- The PEND bits that block an instruction, for the wait it parks with (R28): those of the registers it uses, and with one of them the
other register of the same steal under way, since one update clears both (R331; R446 shows both; log 86). -/
def State.blockedBy (s : State) (va : Nat) (m : BitVec 8) : BitVec 8 :=
  s.wire.foldl (fun acc x => if x.2.pair va &&& m = 0 then acc else acc ||| x.2.pair va) m

/-- An instruction's whole turn, as a state (R51 steps 4 to 6): the privilege check, the guard, the return of R268 for an
instruction that is not local to a CIU, the pending registers, then its own body. -/
def State.issueWith (s : State) (g : Guard) (needPriv isLocal : Bool) (uses : List Reg)
    (body : Env → State → Except Stop State) : State :=
  match s.env? with
  | none => s
  | some e =>
    if needPriv && !e.line.priv then s.stopWith e (.trap 0x02 0 0)
    else if !(e.line.guard g) then (s.modLine e.va Line.advance).issued e
    else if decide (1536 ≤ e.u) && !isLocal then s.stopWith e .back
    else if e.line.blocked uses ≠ 0 then s.stopWith e (.waste (.regs (s.blockedBy e.va (e.line.blocked uses))))
    else match body e s with
      | .ok s' => s'.issued e
      | .error x => s.stopWith e x

/-- An instruction whose effect is on its context line alone: f gives the new line, CTX.PC included, or the cause of its
trap. -/
def State.issueLine (s : State) (g : Guard) (uses : List Reg) (f : Line → Except (Byte × W64) Line) : State :=
  s.issueWith g false true uses (fun e s =>
    match f e.line with
    | .ok l => .ok (s.setCtx e.va ⟨l, e.book⟩)
    | .error (c, v) => .error (.trap c v 0))

/-- As issueLine, for an instruction that is not local to a CIU (R268). -/
def State.issueLineHome (s : State) (g : Guard) (uses : List Reg) (f : Line → Line) : State :=
  s.issueWith g false false uses (fun e s => .ok (s.setCtx e.va ⟨f e.line, e.book⟩))

/-- An instruction that writes gd and goes on. -/
def State.issueReg (s : State) (g : Guard) (uses : List Reg) (d : Reg) (f : Line → W64) : State :=
  s.issueLine g uses (fun l => .ok (l.setReg d (f l)).advance)

/-- A trap raised as an instruction's own effect with CTX.PC at the next instruction (R42); where its handler must wait, so does the
instruction (R301). -/
def State.raiseNext (s : State) (e : Env) (cause : Byte) : Except Stop State :=
  let s1 := s.modLine e.va Line.advance
  if s1.handlerRoom (.slot e.u e.slot) e.va cause then .ok (s1.raise (.slot e.u e.slot) e.va cause 0 0 0 true)
  else .error (.hold id)

end Sys2Proof.Machine
end

