-- ==== Sys2Proof/Machine/Control.lean ====
section
/-! DEFINITION. Control transfer, predicates and hints (R57, R108-R114). -/

namespace Sys2Proof

/-- A PCMP condition on two doublewords (R111). -/
def PCond.holds (c : PCond) (a b : W64) : Bool :=
  match c with
  | .eq => a == b
  | .ne => a != b
  | .lt => a.slt b
  | .le => a.sle b
  | .ltz => a.slt 0
  | .lez => a.sle 0
  | .b => a.ult b
  | .be => a.ule b

end Sys2Proof

namespace Sys2Proof.Machine

/-- The outcome of an instruction: it always goes on. -/
abbrev Out := Host.Outcome State Fault Refusal

/-! ## Control transfer (R108-R110) -/

/-- BR (R108). -/
def execBr (g : Guard) (off : BitVec 19) (s : State) : Out :=
  .next (s.issueLine g [] (fun l => .ok { l with pc := branchTarget l.pc off }))

/-- CALL (R108). -/
def execCall (g : Guard) (off : BitVec 19) (s : State) : Out :=
  .next (s.issueLine g [7] (fun l => .ok { l.setReg 7 (returnAddress l.pc) with pc := branchTarget l.pc off }))

/-- A jump to a register's value, which must be word-aligned; link says that g7 receives the return address (R109). -/
def jumpTo (l : Line) (t : W64) (link : Bool) : Except (Byte × W64) Line :=
  if t.extractLsb' 0 2 ≠ 0#2 then .error (0x03, (regVa t).setWidth 64)
  else .ok { (if link then l.setReg 7 (returnAddress l.pc) else l) with pc := regVa t }

/-- JMP (R109). -/
def execJmp (g : Guard) (a : Reg) (s : State) : Out := .next (s.issueLine g [a] (fun l => jumpTo l (l.reg a) false))
/-- CALLR (R109). -/
def execCallr (g : Guard) (a : Reg) (s : State) : Out :=
  .next (s.issueLine g [a, 7] (fun l => jumpTo l (l.reg a) true))
/-- RET (R109). -/
def execRet (g : Guard) (s : State) : Out := .next (s.issueLine g [7] (fun l => jumpTo l (l.reg 7) false))

/-! ## Predicates (R111-R114) -/

/-- PCMP (R111).  The single-operand conditions name no b. -/
def execPcmp (g : Guard) (pd : Pred) (a b : Reg) (c : PCond) (s : State) : Out :=
  let uses := match c with | .ltz | .lez => [a] | _ => [a, b]
  .next (s.issueLine g uses (fun l => .ok (l.setP pd (c.holds (l.reg a) (l.reg b))).advance))

/-- FCMP (R112). -/
def execFcmp (g : Guard) (pd : Pred) (a b : Reg) (f : FFmt) (r : FRel) (s : State) : Out :=
  .next (s.issueLine g [a, b] (fun l =>
    let x := f.format.compare r (lane (l.reg a) f.width 0) (lane (l.reg b) f.width 0)
    .ok ((l.setP pd x.1).addFlags x.2).advance))

/-- An instruction that writes one predicate from predicates (R113). -/
def predOp (g : Guard) (pd : Pred) (f : Line → Bool) (s : State) : State :=
  s.issueLine g [] (fun l => .ok (l.setP pd (f l)).advance)

/-- PAND (R113). -/
def execPand (g : Guard) (pd qa qb : Pred) (s : State) : Out := .next (predOp g pd (fun l => l.p qa && l.p qb) s)
/-- POR (R113). -/
def execPor (g : Guard) (pd qa qb : Pred) (s : State) : Out := .next (predOp g pd (fun l => l.p qa || l.p qb) s)
/-- PXOR (R113). -/
def execPxor (g : Guard) (pd qa qb : Pred) (s : State) : Out := .next (predOp g pd (fun l => l.p qa != l.p qb) s)
/-- PNOT (R113). -/
def execPnot (g : Guard) (pd qa : Pred) (s : State) : Out := .next (predOp g pd (fun l => !(l.p qa)) s)
/-- PMOV (R113). -/
def execPmov (g : Guard) (pd qa : Pred) (s : State) : Out := .next (predOp g pd (fun l => l.p qa) s)

/-- PGET (R114). -/
def execPget (g : Guard) (d : Reg) (s : State) : Out :=
  .next (s.issueReg g [d] d (fun l => (l.pred ||| 0x80000000#32).setWidth 64))
/-- PSET (R114). -/
def execPset (g : Guard) (a : Reg) (s : State) : Out :=
  .next (s.issueLine g [a] (fun l =>
    .ok { l with pred := (l.reg a).setWidth 32 ||| 0x80000000#32 }.advance))

/-! ## Hints (R57) -/

/-- NOP (R57). -/
def execNop (s : State) : Out := .next (s.issueLine Guard.always [] (fun l => .ok l.advance))
/-- Any other hint: a no-op whatever its guard and body (R57). -/
def execHint (g : Guard) (_body : BitVec 20) (s : State) : Out := .next (s.issueLine g [] (fun l => .ok l.advance))

end Sys2Proof.Machine
end

