-- ==== Sys2Proof/Machine/Lines.lean ====
section
/-! DEFINITION. Where context lines live: victims, evictions, installs, entering a slot, deque entries and takes, and
claims in the orrery's order (R29, R196, R299-R304, R309, R327, R328, R340, R348, R351, R431). -/

namespace Sys2Proof.Machine

/-! ## Deque entries (R327, R328) -/

/-- A deque entry's tenant. -/
def DqEntry.tenant (e : DqEntry) : Nat := bits e.w0 56 8
/-- A deque entry's kind. -/
def DqEntry.kind (e : DqEntry) : Nat := bits e.w0 0 2
/-- The VA a deque entry holds. -/
def DqEntry.va (e : DqEntry) : Nat := bits e.w0 2 54 * 4
/-- The queue of a continuation entry. -/
def DqEntry.queue (e : DqEntry) : Nat := bits e.w1 58 6
/-- The CTX.FRAME of a continuation entry. -/
def DqEntry.frame (e : DqEntry) : Nat := bits e.w1 0 56
/-- The continuation entry of a context (R320). -/
def DqEntry.continuation (tenant va queue frame : Nat) : DqEntry :=
  ⟨w64 (tenant * 2 ^ 56 + va), w64 (queue * 2 ^ 58 + frame)⟩

/-- The position of the first entry from the bottom that satisfies a test. -/
def findEntry (p : DqEntry → Bool) : List DqEntry → Nat → Option (Nat × DqEntry)
  | [], _ => none
  | e :: m, i => if p e then some (i, e) else findEntry p m (i + 1)
/-- A list without the element at an index. -/
def removeAt {α : Type} : List α → Nat → List α
  | [], _ => []
  | _ :: m, 0 => m
  | x :: m, n + 1 => x :: removeAt m n
/-- A tenant's bottommost entry with its position (R328). -/
def Unit.bottom (x : Unit) (tenant : Nat) : Option (Nat × DqEntry) :=
  findEntry (fun e => e.tenant == tenant) x.deque 0
/-- A tenant's topmost entry with its position. -/
def Unit.top (x : Unit) (tenant : Nat) : Option (Nat × DqEntry) :=
  (findEntry (fun e => e.tenant == tenant) x.deque.reverse 0).map (fun r => (x.deque.length - 1 - r.1, r.2))
/-- An entry removed from a unit's deque; the gap closes (R328). -/
def State.dropEntry (s : State) (u i : Nat) : State := s.modUnit u (fun x => { x with deque := removeAt x.deque i })
/-- An entry pushed at the bottom. -/
def State.pushBottom (s : State) (u : Nat) (e : DqEntry) : State :=
  s.modUnit u (fun x => { x with deque := e :: x.deque })
/-- Whether a tenant's view of a unit's deque takes a push: there is room, and the view is not frozen (R320). -/
def State.dequeAccepts (s : State) (u tenant : Nat) : Bool :=
  decide (u < 1536) && decide ((s.unit u).deque.length < 256) && !((s.unit u).dqRow tenant).frozen
/-- Records a take (R340): it replaces an earlier holding of the context; the oldest of 64 makes room. -/
def State.recordTake (s : State) (u va : Nat) (e : DqEntry) : State :=
  s.modUnit u (fun x =>
    let h := Assoc.erase x.holding va ++ [(va, e)]
    { x with holding := h.drop (h.length - 64) })
/-- Ends a context's holdings (R340). -/
def State.endHoldings (s : State) (va : Nat) (but : Option Nat) : State :=
  s.units.foldl (fun s e =>
    if (Assoc.get e.2.holding va).isSome ∧ but ≠ some e.1 then
      s.modUnit e.1 (fun x => { x with holding := Assoc.erase x.holding va })
    else s) s

/-- The contexts held by some deque (R321). -/
def State.heldByDeques (s : State) : List Nat :=
  s.units.flatMap (fun u => (u.2.deque.filter (fun e => e.kind == 0)).map DqEntry.va)

/-! ## Entering a slot (R299, R348, R351) -/

/-- The tenant a queue belongs to (R350). -/
def State.queueTenant (s : State) (q : Nat) : Option Nat :=
  s.tenants.findSome? (fun t => if t.2.qset.getLsbD q then some t.1 else none)

/-- A line enters a slot and becomes ISSUING, or is refused and traps (R348, R351). -/
def State.enterSlot (s : State) (u k va : Nat) : State :=
  match s.ctx? va with
  | none => s
  | some c =>
    if c.line.priv && c.line.tenant != 0 then s.raise (.slot u k) va 0x02 0 0 0 false
    else if !(s.queueOk c.line.tenant c.line.queue) then s.raise (.slot u k) va 0x05 (w64 va) 0 0 false
    else (s.setSt va .issuing .none).setOcc u k (some va)

/-- A continuation that a slot has taken: ISSUING if its line is in this unit's L1, else claimed, the slot wasting its turns
until the line is installed (R323, R337); a HALTED line moves as HALTED (R321). -/
def State.takeIntoSlot (s : State) (u k va : Nat) (e : DqEntry) : State :=
  let s1 := s.recordTake u va e
  match s1.ctx? va with
  | none => s1
  | some c =>
    if c.book.owner = .l1 u ∧ c.book.leaving = false then
      (if c.line.st = .ready then s1.enterSlot u k va else s1)
    else
      ((s1.setOcc u k (some va)).modBook va (fun b => { b with take := some u, assigned := none })).placeClaim va (.l1 u)
        .take

/-- A line installed in a context L1 (R303): a slot that waits for it takes it; a HALTED line stays HALTED.  The take of another unit
stays with it (R431). -/
def State.install (s : State) (u va : Nat) : State :=
  let s1 := s.modBook va (fun b => { b with take := if b.take = some u then none else b.take, assigned := none, leaving := false })
  match s1.ctx? va with
  | none => s1
  | some c =>
    match ((s1.unit u).slots.findIdx? (fun k => k.occ == some va)) with
    | some k => if c.line.st = .ready then s1.enterSlot u k va else s1.setOcc u k none
    | none => s1

end Sys2Proof.Machine
end

