-- ==== Sys2Proof/Machine/Handles.lean ====
section
/-! DEFINITION. Handles and handle-table entries (R34-R38), and the layout of tiles in scratchpads (R87, R88, R140, R228). -/

namespace Sys2Proof.Machine

/-- Why a handle does not pass its check: cause 0x0F, a translation miss on its entry, a fault of the entry's page, or a
block that fails its integrity check, with the entry's VA (R36, R37). -/
inductive HFail where
  | invalid
  | miss (va : Nat)
  | fault (cause : Byte) (va : Nat)
  | bad (cause : Byte) (va pa kslot : Nat)
  deriving DecidableEq, Repr

/-- Bits of one element of a format (R35, R87, R88). -/
def fmtBits (fmt : Nat) : Nat :=
  match fmt with
  | 0 | 3 | 8 => 32
  | 1 | 2 | 4 => 16
  | 7 => 4
  | _ => 8

/-- Bytes of a tile of a format and dimension. -/
def tileBytes (fmt dim : Nat) : Nat := dim * dim * fmtBits fmt / 8
/-- Bytes of one row. -/
def rowBytes (fmt dim : Nat) : Nat := dim * fmtBits fmt / 8
/-- 64-byte units of a tile. -/
def tileUnits (fmt dim : Nat) : Nat := tileBytes fmt dim / 64

/-- The index of a handle (R34). -/
def handleIndex (h : W64) : Nat := bits h 16 24
/-- The generation of a handle. -/
def handleGen (h : W64) : Nat := bits h 0 16

/-- The fields of an entry's four words. -/
def entryRef (h : W64) (pa kslot : Nat) (w0 w8 w10 w18 : W64) : TileRef where
  handle := h
  entry := pa
  kslot := kslot
  kind := bits w0 0 2
  dim := if bits w0 4 2 = 0 then 16 else 32
  fmt := bits w0 8 4
  group := bits w0 12 2
  slots := bits w0 32 8
  iu := bits w8 8 4 * 96 + bits w8 12 7
  off := bits w8 20 12
  word10 := w10
  word18 := w18

/-- The checks of R36 on the fields of an entry; those of the location apply to tiles and rings. -/
def entryOk (w0 w8 : W64) (t : TileRef) : Bool :=
  t.kind != 0 && decide (t.fmt ≤ 8) && decide (bits w0 4 2 ≤ 1) &&
  (if t.kind = 2 then decide (1 ≤ t.slots) && decide (t.slots ≤ 16) else t.slots == 0) &&
  (if t.fmt = 6 ∨ t.fmt = 7 then t.group != 0 else t.group == 0) &&
  (t.kind == 3 ||
    (decide (t.off ≤ 4031) && decide (bits w8 12 7 ≤ 95) && bits w8 4 3 == bits w8 8 4 / 4 &&
     decide (t.off * 64 + (if t.kind = 2 then t.slots else 1) * tileBytes t.fmt t.dim ≤ 258048)))

/-- The entry at a physical address, if it passes the checks of R36. -/
def State.entryRead (s : State) (h : W64) (pa kslot : Nat) (gen : Option Nat) (kinds : List Nat) : Option TileRef :=
  let w0 := Memory.dword s.mem pa
  let w8 := Memory.dword s.mem (pa + 8)
  let r := entryRef h pa kslot w0 w8 (Memory.dword s.mem (pa + 16)) (Memory.dword s.mem (pa + 24))
  if (gen.isNone || gen == some (bits w0 48 16)) && entryOk w0 w8 r && kinds.contains r.kind then some r else none

/-- The check of an entry of a tenant's table, reached through a unit's translation (R36, R37); gen is the GEN that it must
hold, if a handle carries one. -/
def State.entryAt (s : State) (u tenant : Nat) (h : W64) (index : Nat) (gen : Option Nat) (kinds : List Nat) :
    Except HFail TileRef :=
  let t := s.tenant tenant
  if t.hlen ≤ index then .error .invalid
  else
    let va := addVa t.htab.toNat (index * 32)
    match s.xlate u tenant va accRead with
    | .error .miss => .error (.miss va)
    | .error (.fault c) => .error (.fault c va)
    | .ok e =>
      let pa := e.addr va
      match s.verify pa e.kslot with
      | (_, some c) => .error (.bad c va pa e.kslot)
      | (_, none) =>
        match s.entryRead h pa e.kslot gen kinds with
        | some r => .ok r
        | none => .error .invalid

/-- The check of a handle (R36, R37). -/
def State.checkHandle (s : State) (u tenant : Nat) (h : W64) (kinds : List Nat) : Except HFail TileRef :=
  if bits h 40 24 ≠ 0 ∨ handleGen h = 0 then .error .invalid
  else s.entryAt u tenant h (handleIndex h) (some (handleGen h)) kinds

/-- A handle's check as the stop of the instruction that names it. -/
def HFail.stop (f : HFail) (h : W64) (tenant : Nat) : Stop :=
  match f with
  | .invalid => .trap 0x0F h 0
  | .miss va => .miss (w64 va) accRead tenant
  | .fault c va => .trap c (w64 va) 0
  | .bad _ va pa k => .bad (w64 va) pa k

/-- A handle checked at issue (R36). -/
def State.handleAt (s : State) (e : Env) (h : W64) (kinds : List Nat) : Except Stop TileRef :=
  match s.checkHandle e.u e.line.tenant h kinds with
  | .ok t => .ok t
  | .error f => .error (f.stop h e.line.tenant)

/-- A run of n entries that starts at a handle, each as ok requires (R141); a failure names the handle. -/
def State.runAt (s : State) (e : Env) (h : W64) (kinds : List Nat) (ok : Nat → TileRef → Bool) : Nat → Except Stop (List TileRef)
  | 0 => .ok []
  | n + 1 =>
    match s.runAt e h kinds ok n with
    | .error x => .error x
    | .ok ts =>
      let r := if n = 0 then s.checkHandle e.u e.line.tenant h kinds
        else s.entryAt e.u e.line.tenant h (handleIndex h + n) none kinds
      match r with
      | .error f => .error (f.stop h e.line.tenant)
      | .ok t => if ok n t then .ok (ts ++ [t]) else .error (.trap 0x0F h 0)

/-- The data and scale/zero tiles of a grouped pair, which must pass R36 themselves and be what HND.NEW.PAIR accepts (R155,
R172); a failure names the pair's handle. -/
def State.pairOf (s : State) (e : Env) (p : TileRef) : Except Stop (TileRef × TileRef) :=
  match s.checkHandle e.u e.line.tenant p.word10 [1] with
  | .error f => .error (f.stop p.handle e.line.tenant)
  | .ok d => match s.checkHandle e.u e.line.tenant p.word18 [1] with
    | .error f => .error (f.stop p.handle e.line.tenant)
    | .ok z =>
      if d.fmt = p.fmt ∧ d.dim = p.dim ∧ z.fmt = 8 ∧ z.dim = p.dim ∧ (p.fmt = 6 ∨ p.fmt = 7) then .ok (d, z)
      else .error (.trap 0x0F p.handle 0)

/-- The translation of a handle's entry becomes the most recently used of the unit's TLB (R353). -/
def State.touchHandle (s : State) (e : Env) (h : W64) : State :=
  let va := addVa (s.tenant e.line.tenant).htab.toNat (handleIndex h * 32)
  match s.xlate e.u e.line.tenant va accRead with
  | .ok t => (s.verify (t.addr va) t.kslot).1.touchTlb e.u t
  | .error _ => s

/-- A word of an entry written by the device, whatever the page's W permission says (R37). -/
def State.writeEntry (s : State) (t : TileRef) (off : Nat) (v : W64) : State :=
  s.storeOwn t.kslot (cellsAt (t.entry + off) (bytesOf v.toNat 8))
/-- A word of an entry as it stands. -/
def State.readEntry (s : State) (t : TileRef) (off : Nat) : W64 := Memory.dword s.mem (t.entry + off)

/-- HEAD and TAIL of a ring (R35). -/
def State.ringPos (s : State) (t : TileRef) : Nat × Nat :=
  let w := s.readEntry t 16
  (bits w 0 16, bits w 16 16)
/-- Occupancy of a ring (R35). -/
def State.ringCount (s : State) (t : TileRef) : Nat :=
  let p := s.ringPos t
  (p.2 + 65536 - p.1) % 65536

/-! ## Scratchpads (R228): one address space, 256 KiB an IU -/

/-- The number under which a byte of an IU's scratchpad is held. -/
def padAddr (iu off : Nat) : Nat := iu * 262144 + off
/-- The first byte of a tile, or of slot k of a ring. -/
def TileRef.base (t : TileRef) (k : Nat) : Nat := padAddr t.iu (t.off * 64 + k * tileBytes t.fmt t.dim)
/-- n bytes of a scratchpad. -/
def State.padRead (s : State) (a n : Nat) : List Byte := Memory.readN s.scratch a n
/-- Bytes of a scratchpad written. -/
def State.padWrite (s : State) (a : Nat) (bs : List Byte) : State :=
  { s with scratch := Memory.writeRange s.scratch a bs }

/-- The number an element's pattern occupies in its tile, row-major (R87, R140). -/
def State.elem (s : State) (base fmt dim row col : Nat) : Nat :=
  let b := fmtBits fmt
  let i := row * dim + col
  if b = 4 then natBits (Memory.read s.scratch (base + i / 2)).toNat (4 * (i % 2)) 4
  else ofBytes (s.padRead (base + i * (b / 8)) (b / 8))
/-- The bytes of a tile whose elements f gives, row-major. -/
def tileImage (fmt dim : Nat) (f : Nat → Nat → Nat) : List Byte :=
  let b := fmtBits fmt
  if b = 4 then
    (List.range (dim * dim / 2)).map (fun i =>
      BitVec.ofNat 8 (f (2 * i / dim) (2 * i % dim) % 16 + f ((2 * i + 1) / dim) ((2 * i + 1) % dim) % 16 * 16))
  else
    (List.range (dim * dim)).flatMap (fun i => bytesOf (f (i / dim) (i % dim)) (b / 8))
/-- A tile written whole from its elements. -/
def State.setTile (s : State) (t : TileRef) (k : Nat) (f : Nat → Nat → Nat) : State :=
  s.padWrite (t.base k) (tileImage t.fmt t.dim f)

end Sys2Proof.Machine
end

