-- ==== Sys2Proof/Machine/Sched.lean ====
section
/-! DEFINITION. The barrel rotation, the slot arbiter, refills, boundary pops and hardware steals: the events of an issue
unit's cycle (R292-R300, R303, R306, R312-R315, R337, R338, R348, R351, R383, R387, R405). -/

namespace Sys2Proof.Machine

/-- An event whose occasion does not exist. -/
def noOccasion (event : String) : Out := .fault (.noOccasion event)

/-- A message whose home is another device: sent there once those of its unit and block before it were, and under rel once the unit's
stores before it are performed (R190, R192, R392); any other comes to what here says. -/
def State.askHome (s : State) (name : String) (id u pa : Nat) (rel : Bool) (ws : List W64) (here : Out) : Out :=
  match s.peerFor pa with
  | none => here
  | some d =>
    if s.faulted || s.asked.contains id || s.behind id u pa || (rel && !(s.released u id)) then noOccasion name
    else .next (s.ask id d ws)

/-! ## Positions and throttling (R292-R294) -/

/-- The four bits of a position reversed (R294). -/
def rev4 (p : Nat) : Nat := natBits p 0 1 * 8 + natBits p 1 1 * 4 + natBits p 2 1 * 2 + natBits p 3 1
/-- The slot that an entry of a rotation table names. -/
def rotSlot (rot : W64) (p : Nat) : Nat := bits rot (4 * p) 4
/-- Whether any two entries of a table that name one slot lie at least 8 positions apart, counted around (R292). -/
def rotLegal (rot : W64) : Bool :=
  (List.range 16).all (fun p => (List.range 16).all (fun q =>
    decide (q ≤ p) || rotSlot rot p != rotSlot rot q || (decide (8 ≤ q - p) && decide (8 ≤ 16 - (q - p)))))
/-- The active slots at a level: those named at a position that is not idle (R294); no position of a slot with an open message is
idle (R311). -/
def activeSlots (rot : W64) (level : Nat) (opened : List Nat) : List Nat :=
  (List.range 16).filter (fun k => (List.range 16).any (fun p =>
    rotSlot rot p == k && (!(decide (rev4 p < level)) || opened.contains k)))

/-- The slots of a unit whose occupant has an open message (R311). -/
def State.openSlots (s : State) (u : Nat) : List Nat :=
  (List.range 16).filter (fun k => match (s.slot u k).occ.bind s.ctx? with
    | some c => c.line.openMsg && c.line.st == .issuing
    | none => false)

/-! ## Demand and grants (R296, R297) -/

/-- A queue with its demand, weight, class, grant and pass value at a boundary. -/
structure Bid where
  q : Nat
  demand : Nat
  weight : Nat
  cls : Nat
  n : Nat
  pass : Nat

/-- The demand of a queue at a unit, at most 16; a queue of no tenant has none (R296, R350). -/
def State.demand (s : State) (held : List Nat) (u q : Nat) : Nat :=
  if (s.queueTenant q).isNone then 0
  else
    let inL1 := (s.lines.filter (fun e => e.2.line.queue == q && e.2.book.owner == .l1 u &&
      (e.2.line.st == .issuing || e.2.line.st == .ready) && !(held.contains e.1))).length
    let assigned := (s.lines.filter (fun e => e.2.line.queue == q && e.2.line.st == .ready && e.2.book.owner != .l1 u &&
      e.2.book.assigned == some u && !(held.contains e.1))).length
    let conts := ((s.unit u).deque.filter (fun e => e.kind == 0 && e.queue == q && s.queueTenant q == some e.tenant &&
      !((s.unit u).dqRow e.tenant).frozen)).length
    min 16 (inL1 + assigned + conts)

/-- The stride of a weight (R297). -/
def stride (w : Nat) : Nat := 2 ^ 20 / w

/-- The eligible queues of a unit with their bids (R296). -/
def State.bids (s : State) (u : Nat) : List Bid :=
  let held := s.heldByDeques
  let qs := (List.range 64).filter (fun q => decide (0 < (s.queue q).weight) && decide (0 < s.demand held u q))
  let bs := qs.map (fun q => (⟨q, s.demand held u q, (s.queue q).weight, (s.queue q).cls, 0,
    (Assoc.get (s.unit u).pass q).getD 0⟩ : Bid))
  let m := bs.foldl (fun m b => max m b.pass) 0
  bs.map (fun b => { b with pass := max b.pass (m - stride b.weight) })

/-- Whether a bid goes before another for the next grant: least pass, then higher class, then lower queue (R297). -/
def Bid.before (a b : Bid) : Bool :=
  decide (a.pass < b.pass) || (a.pass == b.pass && (decide (b.cls < a.cls) || (a.cls == b.cls && decide (a.q < b.q))))

/-- One grant (R297). -/
def grantOne (bs : List Bid) : List Bid :=
  match bs.foldl (fun (best : Option Bid) b =>
      if b.n < b.demand then (match best with | none => some b | some x => if b.before x then some b else best) else best)
      none with
  | none => bs
  | some x => bs.map (fun b => if b.q = x.q then { b with n := b.n + 1, pass := b.pass + stride b.weight } else b)

/-- A number of grants in turn (R297). -/
def grants : Nat → List Bid → List Bid
  | 0, bs => bs
  | n + 1, bs => grants n (grantOne bs)

/-! ## The governor (R313-R315) -/

/-- The stage ring that a handle names for a governor, which idles on a failure of R36 alone (R313).  Its entry is read through the
page that software gave the tenant for it; with none, or where its block fails, nothing moves (log 16). -/
def State.govHandle (s : State) (tenant : Nat) (h : W64) : Option TileRef :=
  let t := s.tenant tenant
  let va := addVa t.htab.toNat (handleIndex h * 32)
  if bits h 40 24 ≠ 0 ∨ handleGen h = 0 ∨ t.hlen ≤ handleIndex h then none
  else match s.pageOf tenant va with
    | none => none
    | some e => match s.verify (e.addr va) e.kslot with
      | (_, some _) => none
      | (_, none) => s.entryRead h (e.addr va) e.kslot (some (handleGen h)) [2]

/-- The ring a governor entry binds, if the entry is not idle (R313).  An entry that is disabled names no queue (DESIGN CHOICE, log
96). -/
def State.govRing (s : State) (cl : Nat) (e : Gov) : Option TileRef :=
  if e.ring = 0 ∨ e.prod = e.cons ∨ e.aph < e.per then none
  else
    let es := (s.cluster cl).gov
    let names := es.foldl (fun n x => n + (if x.ring ≠ 0 ∧ (x.prod = e.prod ∨ x.prod = e.cons ∨ x.cons = e.prod ∨ x.cons = e.cons)
      then 1 else 0)) 0
    if 1 < names then none
    else match s.queueTenant e.prod with
      | none => none
      | some t => s.govHandle t (w64 e.ring)

/-- The grants of a consumer and a producer with an adjustment: each at least 1 and at most its demand, the sum kept
(R315).  Where the sum is too small for that the grants stay as R297 gives them (DESIGN CHOICE, log 98). -/
def adjusted (cn cd pn pd : Nat) (adj : Int) : Nat × Nat :=
  let sum : Int := cn + pn
  let lo : Int := max 1 (sum - pd)
  let hi : Int := min cd (sum - 1)
  let c := if hi < lo then (cn : Int) else clampInt lo hi ((cn : Int) + adj)
  (c.toNat, (sum - c).toNat)

/-- The bids of a unit with one entry's adjustment. -/
def applyGov (bs : List Bid) (e : Gov) (adj : Int) : List Bid :=
  match bs.find? (fun b => b.q == e.cons), bs.find? (fun b => b.q == e.prod) with
  | some c, some p =>
    let r := adjusted c.n c.demand p.n p.demand adj
    bs.map (fun b => if b.q = e.cons then { b with n := r.1 } else if b.q = e.prod then { b with n := r.2 } else b)
  | _, _ => bs

/-- The grants of a unit before the governor, at its throttle level. -/
def State.rawGrants (s : State) (u : Nat) : List Bid :=
  grants (activeSlots (s.unit u).rot (s.unit u).level (s.openSlots u)).length (s.bids u)

/-- The grants of every unit of a cluster that has work. -/
def State.clusterGrants (s : State) (cl : Nat) : List (List Bid) :=
  (s.units.filter (fun x => decide (x.1 < 1536) && x.1 / 96 == cl)).map (fun x => s.rawGrants x.1)

/-- One entry's move at a boundary of its cluster's first IU (R314, R315).  Where no unit has both queues eligible nothing moves (DESIGN
CHOICE, log 97). -/
def State.govMove (s : State) (cl : Nat) (e : Gov) : Gov :=
  match s.govRing cl e with
  | none => e
  | some r =>
    let occ := s.ringCount r
    let adj := if e.aph < occ then e.adj + 1 else if occ < e.per then e.adj - 1 else e.adj
    if adj = e.adj ∨ e.ops < r.slots then e
    else
      let moves := (s.clusterGrants (r.iu / 96)).any (fun bs =>
        match bs.find? (fun b => b.q == e.cons), bs.find? (fun b => b.q == e.prod) with
        | some c, some p => adjusted c.n c.demand p.n p.demand adj != adjusted c.n c.demand p.n p.demand e.adj
        | _, _ => false)
      if moves then { e with adj := adj, ops := 0 } else e

/-- The state once the entries of the rings that the governors bind are read: corrected, or quarantined, where their blocks do not verify
(R365, R366). -/
def State.openGovs (s : State) : State :=
  s.clusters.foldl (fun s c => c.2.gov.foldl (fun s e =>
    if e.ring = 0 then s
    else match s.queueTenant e.prod with
      | none => s
      | some t => match s.pageOf t (addVa (s.tenant t).htab.toNat (handleIndex (w64 e.ring) * 32)) with
        | none => s
        | some x => (s.verify (x.addr (addVa (s.tenant t).htab.toNat (handleIndex (w64 e.ring) * 32))) x.kslot).1) s) s

/-- The governors' moves at a boundary of the first IU of their cluster (R314; log 16). -/
def State.govern (s : State) (u : Nat) : State :=
  if u < 1536 ∧ u % 96 = 0 ∧ (s.cluster (u / 96)).gov.any (fun e => e.ring != 0) then
    s.modCluster (u / 96) (fun c => { c with gov := c.gov.map (fun e => s.govMove (u / 96) e) })
  else s

/-- A unit's grants with every governor entry of a ring homed in its cluster applied (R313, R315). -/
def State.finalGrants (s : State) (u : Nat) : List Bid :=
  s.clusters.foldl (fun bs c => c.2.gov.foldl (fun bs e =>
    match s.govRing c.1 e with
    | some r => if u < 1536 ∧ r.iu / 96 = u / 96 then applyGov bs e e.adj else bs
    | none => bs) bs) (s.rawGrants u)

/-! ## Owners and occupants (R298, R299) -/

/-- The owners of the slots, step 1 of R298: an active slot stays with its queue while that queue's grant allows. -/
def keepOwners (active : List Nat) (grant : Nat → Nat) (slots : List Slot) : List (Option Nat) :=
  (slots.zipIdx.foldl (fun (acc : List (Option Nat) × List (Nat × Nat)) x =>
    let keep := match x.1.owner with
      | some q => if active.contains x.2 ∧ (Assoc.get acc.2 q).getD 0 < grant q then some q else none
      | none => none
    match keep with
    | some q => (acc.1 ++ [some q], Assoc.set acc.2 q ((Assoc.get acc.2 q).getD 0 + 1))
    | none => (acc.1 ++ [none], acc.2)) ([], [])).1

/-- Step 2 of R298: each free active slot goes to the queue of highest class, then lowest number, that holds fewer slots
than its grant. -/
def fillOwners (active : List Nat) (bs : List Bid) (owners : List (Option Nat)) : List (Option Nat) :=
  (List.range 16).foldl (fun os k =>
    if (nth os k none).isSome || !(active.contains k) then os
    else
      let open' := bs.filter (fun b => decide ((os.filter (fun o => o == some b.q)).length < b.n))
      match open'.foldl (fun (best : Option Bid) b => match best with
          | none => some b
          | some x => if x.cls < b.cls ∨ (x.cls = b.cls ∧ b.q < x.q) then some b else best) none with
      | some b => setNth os k (some b.q)
      | none => os) owners

/-- The oldest READY line of a queue in a unit's L1 (R299, R300); lines held by a deque or under a take are left. -/
def State.oldestReady (s : State) (u q : Nat) : Option Nat :=
  let held := s.heldByDeques
  (s.lines.foldl (fun (best : Option (Nat × Nat)) e =>
    if e.2.book.owner = .l1 u ∧ e.2.line.st = .ready ∧ e.2.line.queue = q ∧ e.2.book.take = none ∧
        e.2.book.leaving = false ∧ held.contains e.1 = false then
      match best with
      | none => some (e.1, e.2.book.stamp)
      | some b => if e.2.book.stamp < b.2 then some (e.1, e.2.book.stamp) else best
    else best) none).map (fun r => r.1)

/-- The tenure of an entry of QWT: 0 means 256 rotations (R295). -/
def Qwt.tenure (w : Qwt) : Nat := if w.quant = 0 then 256 else w.quant

/-- A slot's tenure count changed. -/
def State.setTenure (s : State) (u k n : Nat) : State :=
  s.modUnit u (fun x => { x with slots := setNth x.slots k { nth x.slots k Slot.reset with tenure := n } })

/-- Puts an ISSUING occupant aside: READY and stamped youngest (R299, R300). -/
def State.putAside (s : State) (u k : Nat) : State :=
  match (s.slot u k).occ with
  | none => s
  | some va => match s.ctx? va with
    | some c =>
      if c.line.st = .issuing then (s.makeReady va).setOcc u k none else s
    | none => s.setOcc u k none

/-- Whether a claim for a line by a unit is under way. -/
def State.claimed (s : State) (va u : Nat) : Bool :=
  s.wire.any (fun m => match m.2 with | .claim l d _ _ => l == va && d == .l1 u | _ => false)

/-- Whether a line stands in the FIFO of a unit for a queue, or for every queue (R303). -/
def Ctx.inFifo (c : Ctx) (u : Nat) (q : Option Nat) : Bool :=
  c.line.st == .ready && c.book.assigned == some u && c.book.owner != .l1 u && c.book.take == none &&
  (q == none || q == some c.line.queue)

/-- The head of a unit's FIFO, of one queue or of every queue, that is not yet claimed (R303). -/
def State.fifoHead (s : State) (u : Nat) (q : Option Nat) : Option Nat :=
  let held := s.heldByDeques
  (s.lines.foldl (fun (best : Option (Nat × Nat)) e =>
    if e.2.inFifo u q = true ∧ held.contains e.1 = false ∧ s.claimed e.1 u = false then
      match best with
      | none => some (e.1, e.2.book.stamp)
      | some b => if e.2.book.stamp < b.2 then some (e.1, e.2.book.stamp) else best
    else best) none).map (fun r => r.1)

/-- Whether a unit's FIFO for a queue is empty, lines already claimed counted (R338). -/
def State.fifoEmpty (s : State) (u q : Nat) : Bool :=
  let held := s.heldByDeques
  s.lines.all (fun e => !(e.2.inFifo u (some q)) || held.contains e.1)

/-- A refill request (R303). -/
def State.refill (s : State) (u : Nat) (q : Option Nat) : State :=
  match s.fifoHead u q with
  | some va => s.placeClaim va (.l1 u) .refill
  | none => s

/-- The request that an IU makes in every cycle in which its L1 holds fewer than 32 READY lines (R303). -/
def State.topUp (s : State) (u : Nat) : State :=
  if (s.lines.filter (fun e => e.2.book.owner == .l1 u && e.2.line.st == .ready)).length < 32 then s.refill u none else s

/-- One slot at a boundary, after its owner is decided (R299): one whose owner changes puts its occupant aside, whatever queue brought it.
A slot left empty requests a refill (R303). -/
def State.fillSlot (s : State) (u k : Nat) (owner : Option Nat) : State :=
  let old := s.slot u k
  let s1 := s.modUnit u (fun x => { x with slots := setNth x.slots k { nth x.slots k Slot.reset with owner := owner } })
  let occ : Option (Nat × Ctx) := old.occ.bind (fun va => (s.ctx? va).map (fun c => (va, c)))
  let openMsg : Bool := match occ with | some (_, c) => c.line.openMsg && c.line.st == .issuing | none => false
  let claimed : Bool := match occ with | some (_, c) => c.book.take == some u | none => false
  if openMsg then s1.setTenure u k (old.tenure + 1)
  else if claimed then s1
  else
    match owner with
    | none => s1.putAside u k
    | some q =>
      let stays : Bool := match occ with
        | some (_, c) => c.line.st == .issuing && c.line.queue == q && old.owner == some q
        | none => false
      if stays && (decide (old.tenure < (s.queue q).tenure) || (s.oldestReady u q).isNone) then
        s1.setTenure u k (old.tenure + 1)
      else
        let s2 := s1.putAside u k
        match s2.oldestReady u q with
        | some va => (s2.enterSlot u k va).setTenure u k 1
        | none => (s2.setOcc u k none).refill u (some q)

/-! ## Boundary pops, refills and steals (R303, R337, R338) -/

/-- An owned slot left empty takes the bottommost continuation of its queue from the unit's own deque (R337), also while a context
that it spawned holds another slot (log 85). -/
def State.boundaryPop (s : State) (u k : Nat) : State :=
  match (s.slot u k).owner, (s.slot u k).occ with
  | some q, none =>
    if u < 1536 ∧ (s.oldestReady u q).isNone then
      match findEntry (fun e => e.kind == 0 && e.queue == q && s.queueTenant q == some e.tenant &&
          !((s.unit u).dqRow e.tenant).frozen) (s.unit u).deque 0 with
      | some (i, e) => ((s.dropEntry u i).takeIntoSlot u k e.va e).setTenure u k 1
      | none => s
    else s
  | _, _ => s

/-- The victims of attempt n by unit u with count r (R338): the member k of its set, if the set is not empty. -/
def State.stealVictim (s : State) (u r n : Nat) : Option Nat :=
  let all := (List.range 1536).filter (fun v =>
    s.clusterUp (v / 96) &&
    (if n % 8 ≤ 3 then v / 96 == u / 96 && v != u
     else if n % 8 ≤ 5 then v / 384 == u / 384 && v / 96 != u / 96
     else v / 384 != u / 384))
  let x := (u * 40503 + r * 7919) % 65536
  if all.isEmpty then none else some (nth all ((x + 37 * n) % all.length) 0)

/-- A hardware steal for the queue of a slot that is still empty (R338). -/
def State.hwSteal (s : State) (u k : Nat) : State :=
  match (s.slot u k).owner, (s.slot u k).occ with
  | some q, none =>
    let flying := s.wire.any (fun m => match m.2 with | .steal rq => rq.unit == u && rq.queue == some q | _ => false)
    if u < 1536 ∧ flying = false ∧ s.fifoEmpty u q = true then
      match s.queueTenant q with
      | none => s
      | some t =>
        let x := s.unit u
        let n := (Assoc.get x.stealTry k).getD 0
        let r := x.stealRounds
        let s1 := s.modUnit u (fun x =>
          { x with stealTry := Assoc.set x.stealTry k (n + 1), stealRounds := if n % 8 = 7 then r + 1 else r })
        match s.stealVictim u r n with
        | none => s1
        | some v => s1.post (.steal ⟨u, t, none, some q, [(s.device, v)], false⟩)
    else s
  | _, some _ =>
    if (Assoc.get (s.unit u).stealTry k).getD 0 = 0 then s
    else s.modUnit u (fun x => { x with stealTry := Assoc.set x.stealTry k 0 })
  | none, none => s

/-! ## Table installs (R383) -/

/-- The latest of several values waiting for one table. -/
def lastOf (table : Nat) (l : List TableSet) : Option TableSet := (l.filter (fun x => x.table == table)).getLast?

/-- Installs what SLOT.SET left waiting: the last for each table delivers 0, each earlier one 2 (R383). -/
def State.installTables (s : State) (u : Nat) : State :=
  let ts := (s.unit u).tableSets
  match ts with
  | [] => s
  | _ =>
    let s1 := s.modUnit u (fun x =>
      { x with
        tableSets := []
        rot := ((lastOf 0 ts).map (fun t => t.value)).getD x.rot
        mrot := ((lastOf 1 ts).map (fun t => t.value)).getD x.mrot
        mrotv := ((lastOf 2 ts).map (fun t => t.value.setWidth 16)).getD x.mrotv })
    ts.zipIdx.foldl (fun s t =>
      let later := (ts.drop (t.2 + 1)).any (fun x => x.table == t.1.table)
      s.post (.load t.1.ctx t.1.reg (if later then 2 else 0) false)) s1

/-! ## Events -/

/-- A unit takes up QWT at its boundary (R295, R384). -/
def State.takeQwt (s : State) (u : Nat) : State :=
  let s1 := s.modUnit u (fun x => { x with qwt := s.qwt })
  if s1.wire.any (fun m => match m.2 with | .qwtSet _ _ _ us => us.contains u | _ => false) then
    { s1 with wire := s1.wire.map (fun m => match m.2 with
        | .qwtSet va q old us => (m.1, .qwtSet va q old (us.filter (fun x => x != u)))
        | _ => m) }
  else s1

/-- ROTATION_BOUNDARY: the work of R297-R300 with its table installs, throttle level, pops, refills and steals, at a cycle
that begins a rotation and before its turn (R293). -/
def execRotationBoundary (u : Nat) (s : State) : Out :=
  let x := s.unit u
  if !(s.unitUp u) || x.cycle % 16 != 0 || x.boundaryDone || s.faulted then noOccasion "ROTATION_BOUNDARY"
  else
    let s1 := s.installTables u
    let s2 := (s1.modUnit u (fun x => { x with level := max x.hwLevel x.fwLevel, boundaryDone := true })).takeQwt u
    let s3 := s2.openGovs.govern u
    let y := s3.unit u
    let active := activeSlots y.rot y.level (s3.openSlots u)
    let bs := s3.finalGrants u
    let raw := s3.rawGrants u
    let s4 := s3.modUnit u (fun x => { x with pass := raw.foldl (fun p b => Assoc.set p b.q b.pass) x.pass })
    let owners := fillOwners active bs (keepOwners active (fun q => ((bs.find? (fun b => b.q == q)).map (fun b => b.n)).getD 0)
      y.slots)
    let s5 := (List.range 16).foldl (fun s k => s.fillSlot u k (nth owners k none)) s4
    let s6 := (List.range 16).foldl (fun s k => s.boundaryPop u k) s5
    .next ((List.range 16).foldl (fun s k => s.hwSteal u k) s6)

/-- HARDWARE_THROTTLE: the level that hardware sets to hold the limits of R15; it takes effect at a boundary (R294). -/
def execHardwareThrottle (u level : Nat) (s : State) : Out :=
  if s.unitUp u ∧ level < 16 then .next (s.modUnit u (fun x => { x with hwLevel := level }))
  else noOccasion "HARDWARE_THROTTLE"

/-- Where the fetch of a translated address reads: its address and key slot, or the cause of R47.  The device's own peer aperture is an
inbound access to itself (R392, R394).  The spec does not name the fetch where it speaks of a page whose record has MOVED set
(R398) or of an address inside a context line (R31); the model fetches from the page itself in the first case and, in the
second, the bytes that memory holds under the context's own translation (DESIGN CHOICE, log 34). -/
def State.fetchAt (s : State) (t : TlbEntry) (va : Nat) : Except Byte (Nat × Nat) :=
  match peerOf (t.addr va) with
  | some (d, off) =>
    if d = s.device then
      match s.inbound t.tenant off false with
      | some c => .error c
      | none => .ok (off, (s.pageRec (off / 65536)).kslot)
    else .ok (t.addr va, t.kslot)
  | none => .ok (t.addr va, t.kslot)

/-- The word at a VA as the fetch of a unit finds it, and the state once it is read; 0 where it cannot be read (R45, R47, R365). -/
def State.peekWord (s : State) (u tenant va : Nat) : State × W32 :=
  match s.xlate u tenant va accExec with
  | .ok e => match s.fetchAt e va with
    | .ok (pa, k) => match s.verify pa k with
      | (s1, some _) => (s1, 0)
      | (s1, none) => (s1.touchTlb u e, BitVec.ofNat 32 (ofBytes (Memory.readN s1.mem pa 4)))
    | .error _ => (s, 0)
  | .error _ => (s, 0)

/-- A trap of an issuing context before its instruction issues, whose word the record holds (R42, R45). -/
def State.raisePeek (s : State) (u k va : Nat) (c : Ctx) (cause : Byte) : State :=
  let (s1, w) := s.peekWord u c.line.tenant c.line.pc.toNat
  s1.raise (.slot u k) va cause 0 0 w true

/-- The state as a turn of a slot begins: the cycle counted, and the refill that the unit requests in it (R293, R303). -/
def State.beginTurn (s : State) (u k : Nat) : State :=
  { (s.modUnit u (fun x => { x with cycle := x.cycle + 1, boundaryDone := false, periodDone := false })).topUp u with
    turnUnit := u, turnSlot := k, fetched := none }

/-- Whether a unit's next cycle can begin: the unit is up, and at position 0 its boundary is done. -/
def State.turnDue (s : State) (u : Nat) : Bool :=
  s.unitUp u && !((s.unit u).cycle % 16 == 0 && (!(s.unit u).boundaryDone || s.faulted))

/-- OPEN_MESSAGE_LIMIT: at a turn of its slot at a cycle after c0 + 64 the context of an open message traps with cause 0x13 (R312). -/
def execOpenMessageLimit (u k : Nat) (s : State) : Out :=
  if !(s.turnDue u) || rotSlot (s.unit u).rot ((s.unit u).cycle % 16) != k then noOccasion "OPEN_MESSAGE_LIMIT"
  else match (s.slot u k).occ with
    | none => noOccasion "OPEN_MESSAGE_LIMIT"
    | some va => match s.ctx? va with
      | none => noOccasion "OPEN_MESSAGE_LIMIT"
      | some c =>
        if c.line.openMsg ∧ c.line.st = .issuing ∧ c.book.msgStart + 64 < (s.unit u).cycle then
          .next ((s.beginTurn u k).raisePeek u k va c 0x13)
        else noOccasion "OPEN_MESSAGE_LIMIT"

/-- The arrival of a context at a unit other than the one it last issued on: its holdings elsewhere end, and the unit's data L1 is
invalidated before anything more issues for it (R195, R340). -/
def State.arriveHere (s : State) (e : Env) : State :=
  if e.book.ranOn = some e.u then s
  else ((s.invalidate e.u).endHoldings e.va (some e.u)).modBook e.va (fun b => { b with ranOn := some e.u })

/-- The front half of a turn (R51 steps 1 to 3, with R312, R387, R405 and the arrival of R195): a trap, a park, or the word
fetched, left in the state for exec.  A delivered trap whose handler finds no room stays with the line (R301, R405); one that ended
a wait is the waiting instruction's own (R387, R413). -/
def State.front (s0 : State) (e : Env) : State :=
  let s := s0.arriveHere e
  let l := e.line
  let pc := l.pc.toNat
  if l.openMsg ∧ e.book.msgStart + 64 < s.issueCycle e.u then
    s.raisePeek e.u e.slot e.va ⟨l, e.book⟩ 0x13
  else
    match e.book.traps with
    | t :: rest =>
      if s.handlerRoom (.slot e.u e.slot) e.va t.cause then
        (s.modBook e.va (fun b => { b with traps := rest })).raise (.slot e.u e.slot) e.va t.cause t.fva t.detail t.word (t.word != 0)
      else s
    | [] =>
      if l.stepOn && e.book.stepIssued then s.raise (.slot e.u e.slot) e.va 0x15 0 0 0 true
      else
        let bks := (s.tenant l.tenant).bk
        if !l.stepOn && bks.any (fun b => b.2 && b.1 == l.pc) then
          s.raisePeek e.u e.slot e.va ⟨l, e.book⟩ 0x14
        else
          match s.xlate e.u l.tenant pc accExec with
          | .error .miss => s.stopWith e (.miss (w64 pc) accExec l.tenant)
          | .error (.fault c) => s.stopWith e (.trap c (w64 pc) 0)
          | .ok t => match s.fetchAt t pc with
            | .error c => s.stopWith e (.trap c (w64 pc) 0)
            | .ok (pa, kslot) =>
              match s.verify pa kslot with
              | (s2, some c) => s2.stopWith e (.trap c (w64 pc) 0)
              | (s2, none) =>
                let w := BitVec.ofNat 32 (ofBytes (Memory.readN s2.mem pa 4))
                let s3 := { s2.touchTlb e.u t with fetched := some w }
                if (decode w).isNone then { s3.stopWith e (.trap 0x01 0 0) with fetched := none } else s3

/-- SLOT_TURN (R293): the slot that the rotation table names at the cycle's position takes a turn, unless the position is
idle; the word it fetches is then executed in the same step. -/
def execSlotTurn (u : Nat) (s : State) : Out :=
  let x := s.unit u
  let p := x.cycle % 16
  if !(s.turnDue u) then noOccasion "SLOT_TURN"
  else
    let s1 := s.beginTurn u (rotSlot x.rot p)
    match s1.env? with
    | none => .next s1
    | some e =>
      if decide (rev4 p < x.level) && !e.line.openMsg then .next s1
      else if e.book.owner ≠ .l1 u then .next s1
      else .next (s1.front e)

end Sys2Proof.Machine
end

