-- ==== Sys2Proof/Machine/LoadStore.lean ====
section
/-! DEFINITION. Loads, stores, cache and residency instructions, and the deliveries, acknowledgments and write-backs under
way (R26, R31, R32, R193-R199, R207, R214, R249-R258, R394, R398). -/

namespace Sys2Proof.Machine

/-! ## Where a plain access goes (R31, R251, R394, R395, R398) -/

/-- The place of a plain access: a context line of an arena, or a physical address with its page, cached or not. -/
inductive Place where
  | line (tenant : Nat) (t : TlbEntry)
  | mem (pa : Nat) (a : PageAttr) (cached : Bool) (t : TlbEntry)

/-- A failed translation as a stop (R357). -/
def XFail.stop (f : XFail) (va acc tenant : Nat) : Stop :=
  match f with
  | .miss => .miss (w64 va) acc tenant
  | .fault c => .trap c (w64 va) 0

/-- The return of a context from a CIU for an access that is not local there, its page used (R268, R353). -/
def Stop.goBack (e : Env) (t : TlbEntry) : Stop := .depart e.line.hdev (.l2 e.line.hclu) (fun s => s.touchTlb e.u t)

/-- Where a plain access of a context goes; the stop where it goes nowhere. -/
def State.place (s : State) (e : Env) (va acc : Nat) : Except Stop Place :=
  match s.arenaOf va with
  | some t =>
    if t ≠ e.line.tenant ∧ e.line.priv = false then .error (.trap 0x05 (w64 va) 0)
    else if 1536 ≤ e.u then .error .back
    else match s.xlate e.u t va acc with
      | .error f => .error (f.stop va acc t)
      | .ok x => .ok (.line t x)
  | none =>
    match s.xlate e.u e.line.tenant va acc with
    | .error f => .error (f.stop va acc e.line.tenant)
    | .ok x =>
      let pa := x.addr va
      if isStack pa && !(s.hostBias pa) then
        let r := s.pageRec (pa / 65536)
        if r.moved then .error (.depart r.dest (.l2 r.dclu) (fun s => s.touchTlb e.u x))
        else .ok (.mem pa x.attr (decide (e.u < 1536)) x)
      else if 1536 ≤ e.u then .error (.goBack e x)
      else match peerOf pa with
        | some (d, off) =>
          if d = s.device then
            match s.inbound e.line.tenant off (acc == accWrite) with
            | some c => .error (.trap c (w64 va) 0)
            | none => .ok (.mem off (s.inboundAttr off) false x)
          else .ok (.mem pa x.attr false x)
        | none => .ok (.mem pa x.attr false x)

/-- The registers that an EMPTY or FESTAT under way still holds the next plain load for (R261). -/
def State.acquireMask (s : State) (va : Nat) : BitVec 8 :=
  s.wire.foldl (fun m x => match x.2 with
    | .load c r _ true => if c = va then m ||| (1#8 <<< r.toNat) else m
    | .sync rq =>
      if rq.ctx = va ∧ (rq.op = .empty ∨ rq.op = .festat) ∧ 2 ≤ rq.reach.code.toNat then m ||| (1#8 <<< rq.reg.toNat) else m
    | .error c r _ _ true => if c = va then m ||| (1#8 <<< r.toNat) else m
    | _ => m) 0

/-- Whether a FILL of a context at reach cluster or wider, or a FRAME, whose reach is device, is still to be performed: its acquire half
comes before the strand's next load issues (R203, R204, R324; log 72). -/
def State.fillPending (s : State) (va : Nat) : Bool :=
  s.wire.any (fun x => match x.2 with
    | .sync rq => rq.ctx == va && rq.op == .fill && decide (2 ≤ rq.reach.code.toNat)
    | .frameInit v _ _ _ _ _ => v == va
    | _ => false)

/-- A line of an arena about to be read where it stands: the state, and the cause where HBM holds it and its block fails (R31, R347,
R365). -/
def State.openLine (s : State) (va : Nat) (t : TlbEntry) : State × Option Byte :=
  match s.ctx? (va / 128 * 128) with
  | some c => match c.book.owner with
    | .hbm _ => s.verify (t.addr va) t.kslot
    | _ => (s, none)
  | none => if (Assoc.get s.records (va / 128 * 128)).isSome then (s, none) else s.verify (t.addr va) t.kslot

/-- The bytes of a line of an arena as its owner holds them (R31). -/
def State.lineBytes (s : State) (va : Nat) (t : TlbEntry) (n : Nat) : List Byte :=
  let base := va / 128 * 128
  let ws := match s.ctx? base with
    | some c => some c.line.words
    | none => Assoc.get s.records base
  match ws with
  | some ws => ((wordsBytes ws).drop (va - base)).take n
  | none => Memory.readN s.mem (t.addr va) n

/-- The condition words of full counters (R20). -/
def fullLoads : W32 := 0x0000007E
def fullStores : W32 := 0x00007E00
def fullEngs : W32 := 0x007E0000
def fullTiles : W32 := 0x7E000000

/-- A load's own effect on its line: gN pending, LOADS up, CTX.PC on (R26, R250). -/
def Line.startLoad (l : Line) (d : Reg) : Line := { l.setPend d with loads := l.loads + 1 }.advance
/-- A store that is not performed at issue: STORES up, CTX.PC on (R251). -/
def Line.startStore (l : Line) : Line := { l with stores := l.stores + 1 }.advance

/-- The bytes of a stretch in a data L1 after a fill: a dirty byte stays, every other is clean and new (R223). -/
def filled (old : List (Nat × L1Byte)) (a : PageAttr) (h : Hint) (cs : List Host.Cell) : List (Nat × L1Byte) :=
  cs.map (fun c => match Assoc.get old c.1 with
    | some b => if b.dirty then (c.1, b) else (c.1, ⟨c.2, false, a, h⟩)
    | none => (c.1, ⟨c.2, false, a, h⟩))

/-- Bytes brought into a data L1 by a fill (R223). -/
def State.fillL1 (s : State) (u pa : Nat) (a : PageAttr) (h : Hint) (bs : List Byte) : State :=
  s.modUnit u (fun x => { x with
    dl1 := x.dl1.filter (fun b => decide (b.1 < pa)) ++ filled x.dl1 a h (cellsAt pa bs) ++
      x.dl1.filter (fun b => decide (pa + bs.length ≤ b.1)) })

/-- A line brought into its home L2 slice and a unit's data L1 (R223, R226, R231). -/
def State.bringLine (s : State) (u pa : Nat) (a : PageAttr) (h : Hint) : State :=
  let s1 := s.l2Access (s.homeNow a pa) pa a.kslot a.tenant h
  ((s1.roomL1 u (pa / 64)).fillL1 u (pa / 64 * 64) a h (s1.fetchedBytes u (pa / 64 * 64) 64)).touchL1 u (pa / 64) h.evict

/-- Bytes read by a unit at a place, or the cause for which they cannot be (R31, R223, R250, R251, R365).  A hit reads the data L1; a miss
brings the whole line in; an uncached access reads the home. -/
def State.readPlace (s : State) (u : Nat) (p : Place) (va n : Nat) (h : Hint) : State × Except Byte (List Byte) :=
  match p with
  | .line _ t => match (s.touchTlb u t).openLine va t with
    | (s1, some c) => (s1, .error c)
    | (s1, none) => (s1, .ok (s1.lineBytes va t n))
  | .mem pa a cached t =>
    let s0 := s.touchTlb u t
    if cached && s0.present u pa n then (s0.touchL1 u (pa / 64) h.evict, .ok (s0.seenBytes u pa n))
    else match s0.verify pa a.kslot with
      | (s1, some c) => (s1, .error c)
      | (s1, none) =>
        (if cached then s1.bringLine u pa a h else s1.l2Access (s1.homeNow a pa) pa a.kslot a.tenant h,
          .ok (s1.fetchedBytes u pa n))

/-- A load that is not performed at its issue: of a line or of memory that another device holds, which is asked for it (R31, R392), or of
a page under a change of ownership, whose home holds it (R396); none for any other. -/
def State.farLoad (s : State) (e : Env) (d : Reg) (z : LdSize) (h : Hint) (va : Nat) (p : Place) : Option State :=
  match p with
  | .line _ t => (s.away (va / 128 * 128)).map (fun dev =>
      ((s.touchTlb e.u t).post (.loadReq e.va e.u d z t.attr h (w64 va) (t.addr va) false [])).ask s.nextId dev
        [13, w64 va, w64 z.bytes])
  | .mem pa a cached t =>
    let s1 := (s.touchTlb e.u t).post (.loadReq e.va e.u d z a h (w64 va) pa cached (s.ownCells e.u pa z.bytes))
    match s.peerFor pa with
    | some dev => some (s1.ask s.nextId dev [12, w64 pa, w64 z.bytes])
    | none => if (cached && s.present e.u pa z.bytes) || !(s.pagesHeld s.nextId (pa / 65536) 1) then none else some s1

/-- The bytes that a unit's own stores gave a load at its issue, put over those that its home gives it (R193). -/
def overlay (own : List Host.Cell) (pa : Nat) (bs : List Byte) : List Byte :=
  (cellsAt pa bs).map (fun c => (Assoc.get own c.1).getD c.2)

/-- A load (R250, R251, R253, R261).  The value is what its place shows at issue, one that R193 allows; it is delivered later (log
65). -/
def loadBody (d : Reg) (z : LdSize) (h : Hint) (ea : Line → Nat) (e : Env) (s : State) : Except Stop State :=
  let n := z.bytes
  let va := ea e.line
  if s.acquireMask e.va ≠ 0 then .error (.waste (.regs (s.acquireMask e.va)))
  else if s.fillPending e.va then .error (.waste (.counters 0x00004000))
  else if va % n ≠ 0 then .error (.trap 0x03 (w64 va) 0)
  else
    match s.place e va accRead with
    | .error x => .error x
    | .ok p =>
      if 63 ≤ e.line.loads then .error (.waste (.counters fullLoads))
      else
        let s := s.setCtx e.va ⟨e.line.startLoad d, e.book⟩
        match s.farLoad e d z h va p with
        | some s1 => .ok s1
        | none => match s.readPlace e.u p va n h with
          | (s1, .error c) => .ok (s1.post (.error e.va d c (w64 va) false))
          | (s1, .ok bs) => .ok (s1.post (.load e.va d (z.extend (ofBytes bs)) false))

/-- Bytes stored in a data L1: dirty, with their page and hints, the hints standing for the whole line; a line that was absent takes
a way, and nothing is fetched (R223, R231, R250). -/
def State.storeL1 (s : State) (u pa : Nat) (a : PageAttr) (h : Hint) (bs : List Byte) : State :=
  ((s.roomL1 u (pa / 64)).modUnit u (fun x =>
    let m := (cellsAt pa bs).foldl (fun m c => Assoc.set m c.1 ⟨c.2, true, a, h⟩) x.dl1
    { x with dl1 := m.map (fun b => if b.1 / 64 = pa / 64 ∧ b.2.dirty then (b.1, { b.2 with hint := h }) else b) })).touchL1 u
      (pa / 64) h.evict

/-- The bytes of a line written to HBM (R304). -/
def State.spillLine (s : State) (va : Nat) : State :=
  match s.ctx? va, s.arenaOf va with
  | some c, some t =>
    ((List.range 16).zip c.line.words).foldl (fun s x => s.lineHbm 0 t (va + 8 * x.1) x.2.toNat) s
  | _, _ => s

/-- A line that HBM owns, written there again after a store to it (R32). -/
def State.respill (s : State) (va : Nat) : State :=
  match s.ctx? va with
  | some c => match c.book.owner with | .hbm _ => s.spillLine va | _ => s
  | none => s

/-- A store to a context line, which takes effect only in state TRAPPED or HALTED (R32); none otherwise. -/
def State.storeLine (s : State) (va : Nat) (bs : List Byte) (priv : Bool) : Option State :=
  let base := va / 128 * 128
  match s.ctx? base with
  | none => none
  | some c =>
    if c.line.st = .trapped ∨ c.line.st = .halted then
      let l := c.line.stored (patchWords c.line.words (va - base) bs) priv
      some (s.setCtx base ⟨l, { c.book with stepIssued := c.book.stepIssued && c.line.stepOn, recPend := false }⟩)
    else none

/-- A store (R250, R251); one to a line in HBM whose block fails is discarded (R364). -/
def storeBody (d : Reg) (z : StSize) (h : Hint) (ea : Line → Nat) (e : Env) (s : State) : Except Stop State :=
  let n := z.bytes
  let va := ea e.line
  if va % n ≠ 0 then .error (.trap 0x03 (w64 va) 0)
  else
    match s.place e va accWrite with
    | .error x => .error x
    | .ok p =>
      let bs := bytesOf (e.line.reg d).toNat n
      let counted (t : TlbEntry) (m : Msg) (s : State) : Except Stop State :=
        if 63 ≤ e.line.stores then .error (.waste (.counters fullStores))
        else .ok (((s.touchTlb e.u t).modLine e.va Line.startStore).post m)
      match p with
      | .line _ t => match s.away (va / 128 * 128) with
       | some dev => counted t (.lineStore e.va (w64 va)) s |>.map (fun s1 =>
          s1.ask s.nextId dev [16, w64 va, w64 n, w64 (ofBytes bs), w64 (b2n e.line.priv)])
       | none => match s.openLine va t with
        | (s1, some c) =>
          if (s.storeLine va bs e.line.priv).isNone then .error (.trap 0x05 (w64 va) 0)
          else counted t (.ack e.va) (s1.deliverTrap e.va ⟨c, w64 va, 0, 0⟩)
        | (s1, none) => match s1.storeLine va bs e.line.priv with
          | none => .error (.trap 0x05 (w64 va) 0)
          | some s2 => counted t (.ack e.va) (s2.respill (va / 128 * 128))
      | .mem pa a true t =>
        .ok (((s.touchTlb e.u t).storeL1 e.u pa a h bs).setCtx e.va ⟨e.line.advance, e.book⟩)
      | .mem pa a false t => counted t (.ustore e.va e.u a h (w64 va) pa bs) s

/-- LD (R249, R250). -/
def execLd (g : Guard) (d base : Reg) (sz : LdSize) (hint : Hint) (disp : BitVec 8) (s : State) : Out :=
  .next (s.issueWith g false true [d, base] (loadBody d sz hint (fun l => eaDisp l base disp sz.bytes)))
/-- ST (R249, R250). -/
def execSt (g : Guard) (d base : Reg) (sz : StSize) (hint : Hint) (disp : BitVec 8) (s : State) : Out :=
  .next (s.issueWith g false true [d, base] (storeBody d sz hint (fun l => eaDisp l base disp sz.bytes)))
/-- LDX (R252). -/
def execLdx (g : Guard) (d a b : Reg) (sz : LdSize) (hint : Hint) (s : State) : Out :=
  .next (s.issueWith g false true [d, a, b] (loadBody d sz hint (fun l => eaIndex l a b sz.bytes)))
/-- STX (R252). -/
def execStx (g : Guard) (d a b : Reg) (sz : StSize) (hint : Hint) (s : State) : Out :=
  .next (s.issueWith g false true [d, a, b] (storeBody d sz hint (fun l => eaIndex l a b sz.bytes)))

/-! ## Cache and residency (R254-R258) -/

/-- PREF (R255): the line comes into its home L2 slice and the data L1; where anything stands in the way, nothing is brought. -/
def prefBody (a : Reg) (e : Env) (s : State) : Except Stop State :=
  let va := va56 (e.line.reg a)
  let done (s : State) : Except Stop State := .ok (s.setCtx e.va ⟨e.line.advance, e.book⟩)
  if 1536 ≤ e.u ∨ (s.arenaOf va).isSome then done s
  else match s.xlate e.u e.line.tenant va accRead with
    | .error _ => done s
    | .ok t =>
      let pa := t.addr va / 64 * 64
      if !(isStack pa) || s.hostBias pa || s.pagesHeld s.nextId (pa / 65536) 1 then done s
      else match s.verify pa t.kslot with
        | (s1, some _) => done s1
        | (s1, none) => done ((s1.touchTlb e.u t).bringLine e.u pa t.attr ⟨0, false⟩)

/-- PREF (R255).  On a CIU it does nothing, and issues there. -/
def execPref (g : Guard) (a : Reg) (s : State) : Out := .next (s.issueWith g false true [a] (prefBody a))

/-- CDROP (R257): the issuing unit's copy of the line is gone, dirty bytes included, and the line's dirty mask at its home slice is
clear; the slice's bytes stand until it evicts the line. -/
def cdropBody (a : Reg) (e : Env) (s : State) : Except Stop State :=
  let va := va56 (e.line.reg a)
  if (s.arenaOf va).isSome then .error (.trap 0x05 (w64 va) 0)
  else match s.xlate e.u e.line.tenant va accWrite with
    | .error f => .error (f.stop va accWrite e.line.tenant)
    | .ok t =>
      let line := t.addr va / 64
      .ok ((((s.touchTlb e.u t).modUnit e.u (fun x => { x with dl1 := x.dl1.filter (fun b => b.1 / 64 != line) })).l2Drop
        (s.homeNow t.attr (t.addr va)) line).setCtx e.va ⟨e.line.advance, e.book⟩)

/-- CDROP (R257). -/
def execCdrop (g : Guard) (a : Reg) (s : State) : Out := .next (s.issueWith g false false [a] (cdropBody a))

/-- Whether a release that an instruction must finish first is still to be started. -/
def State.owesRelease (s : State) (e : Env) : Bool := !e.book.recPend && !(s.dirtyLines e.u).isEmpty

/-- The write-backs of a release, counted in STORES, at most as many as STORES can hold; CTX.PC stays, and a turn that can start none
is wasted on the instruction's condition (R195, R258). -/
def State.startRelease (s : State) (e : Env) (cond : W32) : Except Stop State :=
  let dirty := s.dirtyLines e.u
  let room := 63 - e.line.stores
  if room = 0 then .error (.waste (.counters cond))
  else
    let now := dirty.take room
    .ok ((s.releaseLines e.u (some e.va) now).modCtx e.va (fun c =>
      { line := { c.line with stores := c.line.stores + now.length },
        book := { c.book with recPend := decide (dirty.length ≤ room) } }))

/-- The turn of an instruction that releases first: the turn that starts its write-backs is one of its wasted turns (R258). -/
def releaseTurn (s s1 : State) : State :=
  match s.env? with
  | none => s1
  | some e => match s1.ctx? e.va with
    | some c =>
      if c.line.pc = e.line.pc ∧ c.line.st = .issuing ∧ e.line.stores < c.line.stores then
        s1.modBook e.va (fun b => { b with wasted := e.book.wasted + 1, stepIssued := e.book.stepIssued })
      else s1
    | none => s1

/-- REC (R198, R207, R258): it starts the write-backs, then waits until STORES, and at reach unit or wider LOADS, are zero and, at
reach cluster or wider, no write-back of the unit that another release started is under way; then it invalidates. -/
def recBody (r : Reach) (e : Env) (s : State) : Except Stop State :=
  let wide := decide (2 ≤ r.code.toNat)
  let cond : W32 := if r = .self then 0x00004000 else 0x00004040
  if wide && s.owesRelease e then s.startRelease e cond
  else if !(e.line.meets cond) || (wide && s.releasing e.u) then .error (.waste (.counters cond))
  else
    let s1 := if wide then s.invalidate e.u else s
    .ok (s1.setCtx e.va ⟨e.line.advance, { e.book with recPend := false }⟩)

/-- REC (R258). -/
def execRecon (g : Guard) (r : Reach) (s : State) : Out := .next (releaseTurn s (s.issueWith g false true [] (recBody r)))

/-! ## Deliveries (R26, R27, R253) -/

/-- A result written at the line's owner: gN, PEND[N] and LOADS as one update (R26). -/
def Line.receive (l : Line) (r : Reg) (v : Option W64) : Line :=
  let l1 := match v with | some v => l.setReg r v | none => l
  { l1.clearPend r with loads := l.loads - 1 }

/-- A steal's result at the thief's line: one update of both registers, and the take recorded (R331, R340). -/
def State.stealDone (s : State) (va u : Nat) (d a : Reg) (w0 w1 : W64) (taken : Option DqEntry) : State :=
  match s.forward va [7, w64 d.toNat, w64 a.toNat, w0, w1] with
  | some s1 => s1
  | none =>
    let s1 := s.modLine va (fun l =>
      { (((l.setReg d w0).setReg a w1).clearPend d).clearPend a with loads := l.loads - 1 })
    (match taken with | some ent => s1.recordTake u va ent | none => s1).wake va

/-- Whether a delivery to a context can be performed now: one to a line in TRANSIT is held, and performed as the line arrives (R27). -/
def State.deliverable (s : State) (va : Nat) : Bool :=
  match s.ctx? va with
  | some c => c.line.st != .transit
  | none => true

/-- The acquire half for a context, before its next load (R195, R203, R261): the unit whose L1 owns the line invalidates; a line that no
L1 owns counts as arriving at whichever unit it issues on next. -/
def State.acquireFor (s : State) (va : Nat) : State :=
  match s.ctx? va with
  | some c => match c.book.owner with
    | .l1 u => s.invalidate u
    | _ => s.modBook va (fun b => { b with ranOn := none })
  | none => s

/-- The register of a delivery that is forwarded, 8 for none, and from 16 up one that invalidates (log 28). -/
def deliveryReg (r : Option Reg) (inval : Bool) : W64 := w64 ((match r with | some d => d.toNat | none => 8) + 16 * b2n inval)

/-- A line whose wait for a ring operation ends: the operation counts in TILES no longer (R143, R169). -/
def Line.endRing (l : Line) : Line :=
  match l.wait with | .ring _ => { l with tiles := l.tiles - 1 } | _ => l

/-- The end of a wait whose access was performed at its home: gd written, CTX.PC on, READY (R261, R322, R344). -/
def State.serve (s : State) (va : Nat) (r : Option Reg) (v : W64) (inval : Bool) : State :=
  match s.forward va [3, deliveryReg r inval, v] with
  | some s1 => s1
  | none =>
    let s1 := s.modCtx va (fun c =>
      { line := (match r with | some d => c.line.endRing.setReg d v | none => c.line.endRing).advance,
        book := { c.book with stepIssued := c.line.stepOn } })
    (if inval then s1.acquireFor va else s1).makeReady va

/-- A load's result at the line's owner (R26). -/
def State.loadDone (s : State) (va : Nat) (r : Reg) (v : W64) (inval : Bool) : State :=
  match s.forward va [0, deliveryReg (some r) inval, v] with
  | some s1 => s1
  | none =>
    let s1 := s.modLine va (fun l => l.receive r (some v))
    (if inval then s1.acquireFor va else s1).wake va

/-- An error delivery at the line's owner (R253): gN is left, and the trap waits for the next issue (R405). -/
def State.errorDone (s : State) (va : Nat) (r : Reg) (cause : Byte) (fva : W64) (inval : Bool) : State :=
  match s.forward va [1, deliveryReg (some r) inval, w64 cause.toNat, fva] with
  | some s1 => s1
  | none =>
    let s1 := (s.modLine va (fun l => l.receive r none)).deliverTrap va ⟨cause, fva, 0, 0⟩
    (if inval then s1.acquireFor va else s1).wake va

/-- The end of a wait whose access was discarded at its home: CTX.PC stays at the access, and the trap waits for the next issue (R364,
R405). -/
def State.dropWait (s : State) (va : Nat) (t : DTrap) : State :=
  match s.forward va [9, w64 t.cause.toNat, t.fva] with
  | some s1 => s1
  | none => ((s.modLine va Line.endRing).deliverTrap va t).makeReady va

/-- A load that a change of its page held, performed and delivered under the page's new owner (R395, R396). -/
def State.loadNow (s : State) (va u : Nat) (r : Reg) (z : LdSize) (a : PageAttr) (h : Hint) (fva : W64) (pa : Nat) (cached : Bool)
    (own : List Host.Cell) : State :=
  match s.verify pa a.kslot with
  | (s1, some c) => s1.errorDone va r c fva false
  | (s1, none) =>
    let s2 := if cached && !(s.hostBias pa) then s1.bringLine u pa a h else s1.l2Access (s1.homeNow a pa) pa a.kslot a.tenant h
    s2.loadDone va r (z.extend (ofBytes (overlay own pa (Memory.readN s1.mem pa z.bytes)))) false

/-- LOAD_DELIVERY (R26): of a result, of a load that was held (R396), or of the end of a wait; one that a discard ended leaves CTX.PC at the access (R364). -/
def execLoadDelivery (id : Nat) (s : State) : Out :=
  match s.msg? id with
  | some (.served va r v inval) =>
    if s.deliverable va then .next ((s.dropMsg id).serve va r v inval) else noOccasion "LOAD_DELIVERY"
  | some (.dropped va t) =>
    if s.deliverable va then .next ((s.dropMsg id).dropWait va t) else noOccasion "LOAD_DELIVERY"
  | some (.load va r v inval) =>
    if s.deliverable va then .next ((s.dropMsg id).loadDone va r v inval) else noOccasion "LOAD_DELIVERY"
  | some (.loadReq va u r z a h fva pa cached own) =>
    if s.asked.contains id || s.pagesHeld id (pa / 65536) 1 || !(s.deliverable va) then noOccasion "LOAD_DELIVERY"
    else .next ((s.dropMsg id).loadNow va u r z a h fva pa cached own)
  | _ => noOccasion "LOAD_DELIVERY"

/-- A delivery held for a line, performed (R27). -/
def State.deliver (s : State) (id va : Nat) (m : Msg) : State :=
  match m with
  | .load c r v inval => if c = va then (s.dropMsg id).loadDone va r v inval else s
  | .error c r cause fva inval => if c = va then (s.dropMsg id).errorDone va r cause fva inval else s
  | .stealResult c u d a w0 w1 taken => if c = va then (s.dropMsg id).stealDone va u d a w0 w1 taken else s
  | _ => s

/-- Every delivery held for a line, performed in order of arrival (R27). -/
def State.deliverHeld (s : State) (va : Nat) : State := s.wire.foldl (fun s m => s.deliver m.1 va m.2) s

/-- ERROR_DELIVERY (R253). -/
def execErrorDelivery (id : Nat) (s : State) : Out :=
  match s.msg? id with
  | some (.error va r cause fva inval) =>
    if s.deliverable va then .next ((s.dropMsg id).errorDone va r cause fva inval) else noOccasion "ERROR_DELIVERY"
  | _ => noOccasion "ERROR_DELIVERY"

/-- STORES down by one, and what that ends (R251). -/
def State.ackStore (s : State) (va : Nat) : State :=
  match s.forward va [2] with
  | some s1 => s1
  | none => (s.modLine va (fun l => { l with stores := l.stores - 1 })).wake va

/-! ## Arrivals at homes (R214, R225, R364, R395) -/

/-- A write-back under way arrives (R214): only its dirty bytes change; a discarded one is reported (R364, R406). -/
def arriveWriteBack (id : Nat) (s : State) : Out :=
  match s.msg? id with
  | some (.writeBack u ctx a h cs) =>
    match cs with
    | [] => noOccasion "WRITE_BACK_ARRIVAL"
    | (pa, _) :: _ =>
      if s.faulted || s.behind id u pa then noOccasion "WRITE_BACK_ARRIVAL"
      else
        match s.arrive (.slice (s.homeNow a pa)) (a.trace && isStack pa) a.kslot ⟨0, s.device, u, a.tenant, pa, cs.length⟩ id with
        | .hold s1 => if s1 = s then noOccasion "WRITE_BACK_ARRIVAL" else .next s1
        | .perform s1 =>
          let (s3, bad) := (s1.dropMsg id).homeStore (s.homeNow a pa) a h cs
          let s4 := if bad.isSome then s3.notice 0x04 0 [0, w64 pa, 0] else s3
          .next (match ctx with | some va => s4.ackStore va | none => s4)
  | _ => noOccasion "WRITE_BACK_ARRIVAL"

/-- WRITE_BACK_ARRIVAL (R214): of a message under way, or of a line that a data L1 evicts now. -/
def execWriteBackArrival (src : WbSource) (s : State) : Out :=
  match src with
  | .message id => arriveWriteBack id s
  | .evict u line =>
    if (s.unit u).dl1.any (fun b => b.1 / 64 == line) then
      let dirty := (s.dirtyLines u).contains line
      let s1 := s.evictLine u line
      if dirty then
        match arriveWriteBack s.nextId s1 with
        | .fault _ => .next s1
        | o => o
      else .next s1
    else noOccasion "WRITE_BACK_ARRIVAL"

/-- An uncached store performed at its home (R251, R364), which another device is asked for (R392); one discarded traps its context
(R405). -/
def arriveUstore (id : Nat) (s : State) : Out :=
  match s.msg? id with
  | some (.ustore va u a h fva pa bs) =>
    s.askHome "STORE_ACKNOWLEDGE" id u pa false (peerStore pa bs)
     (if s.faulted || s.behind id u pa then noOccasion "STORE_ACKNOWLEDGE"
      else
      match s.arrive (.slice (s.homeNow a pa)) (a.trace && isStack pa) a.kslot ⟨1, s.device, u, a.tenant, pa, bs.length⟩ id with
      | .hold s1 => if s1 = s then noOccasion "STORE_ACKNOWLEDGE" else .next s1
      | .perform s1 =>
        let (s3, bad) := (s1.dropMsg id).homeStore (s.homeNow a pa) a h (cellsAt pa bs)
        let s4 := match bad with | some c => s3.deliverTrap va ⟨c, fva, 0, 0⟩ | none => s3
        .next (s4.ackStore va))
  | _ => noOccasion "STORE_ACKNOWLEDGE"

/-- REPLAY_ABANDON: no match for 1,048,576 cycles (R220). -/
def execReplayAbandon (p : Port) (s : State) : Out :=
  let a := s.alog p
  if a.mode = 2 ∧ a.since + 1048576 ≤ s.portCycle p then .next (s.abandonReplay p) else noOccasion "REPLAY_ABANDON"

end Sys2Proof.Machine
end

