-- ==== Sys2Proof/Machine/Sync.lean ====
section
/-! DEFINITION. Full/empty accesses, atomic operations, moonlets, comets and the limits of waits (R200-R208, R260-R269,
R308, R310). -/

namespace Sys2Proof.Machine

/-! ## Checks common to synchronising accesses (R289) -/

/-- The CIU that serves a word of stack memory (R267). -/
def servingCiu (pa : Nat) : Nat := 1536 + stackOf pa * 8 + natBits pa 6 3

/-- A synchronising word's entry, device and address (R260, R266, R269): aligned, no context line, readable and writable, not at the
host. -/
def State.syncTarget (s : State) (e : Env) (va : Nat) : Except Stop (TlbEntry × Nat × Nat) :=
  if va % 8 ≠ 0 then .error (.trap 0x03 (w64 va) 0)
  else if (s.arenaOf va).isSome then .error (.trap 0x05 (w64 va) 0)
  else match s.xlate e.u e.line.tenant va accRmw with
    | .error f => .error (f.stop va accRmw e.line.tenant)
    | .ok t => match s.wordHome e.line.tenant (t.addr va) with
      | .error c => .error (.trap c (w64 va) 0)
      | .ok (dev, pa) => .ok (t, dev, pa)

/-- The release of a synchronising access, and the issuing unit's copy of the word given up, so that its later loads see the
access (R193, R203; log 17). -/
def State.syncRelease (s : State) (u pa : Nat) : State :=
  (s.release u none).dropClean u (pa / 8 * 8) 8

/-- Whether a reach does the work of cluster, die and device (R203). -/
def wideReach (r : Reach) : Bool := decide (2 ≤ r.code.toNat)

/-! ## Full/empty (R260-R265) -/

/-- A full/empty access (R260, R261). -/
def syncBody (op : SyncOp) (d a v : Reg) (r : Reach) (e : Env) (s : State) : Except Stop State :=
  let va := va56 (e.line.reg a)
  match s.syncTarget e va with
  | .error x => .error x
  | .ok (t, dev, pa) =>
    if 1536 ≤ e.u ∧ (dev ≠ s.device ∨ servingCiu pa ≠ e.u) then .error (.goBack e t)
    else if e.line.loads ≠ 0 ∨ e.line.stores ≠ 0 then .error (.waste (.counters 0x00004040))
    else
      let rq : SyncReq := ⟨e.va, e.u, s.homeAttr t pa, op, w64 va, pa, d, e.line.reg v, r, s.nextId⟩
      let send (s : State) : State := ((s.touchTlb e.u t).syncRelease e.u pa).post (.sync rq)
      match op with
      | .take | .put | .peek => .error (.park (.word (w64 va)) send)
      | .fill =>
        let s1 := send (s.setCtx e.va ⟨e.line.startStore, e.book⟩)
        .ok (if wideReach r then s1.invalidate e.u else s1)
      | .empty | .festat => .ok (send (s.setCtx e.va ⟨e.line.startLoad d, e.book⟩))

/-- TAKE (R260). -/
def execTake (g : Guard) (d a : Reg) (r : Reach) (s : State) : Out :=
  .next (s.issueWith g false true [d, a] (syncBody .take d a a r))
/-- PUT (R260). -/
def execPut (g : Guard) (a v : Reg) (r : Reach) (s : State) : Out :=
  .next (s.issueWith g false true [a, v] (syncBody .put a a v r))
/-- PEEK (R260). -/
def execPeek (g : Guard) (d a : Reg) (r : Reach) (s : State) : Out :=
  .next (s.issueWith g false true [d, a] (syncBody .peek d a a r))
/-- FILL (R260). -/
def execFill (g : Guard) (a v : Reg) (r : Reach) (s : State) : Out :=
  .next (s.issueWith g false true [a, v] (syncBody .fill a a v r))
/-- EMPTY (R260). -/
def execEmpty (g : Guard) (d a : Reg) (r : Reach) (s : State) : Out :=
  .next (s.issueWith g false true [d, a] (syncBody .empty d a a r))
/-- FESTAT (R260). -/
def execFestat (g : Guard) (d a : Reg) (r : Reach) (s : State) : Out :=
  .next (s.issueWith g false true [d, a] (syncBody .festat d a a r))

/-- Whether an access can proceed at its word (R260, R262). -/
def State.canProceed (s : State) (rq : SyncReq) : Bool :=
  match rq.op with
  | .take | .peek => s.isFull rq.pa
  | .put => !(s.isFull rq.pa)
  | _ => true

/-- Whether an access writes its word (R190, R215). -/
def SyncOp.writes : SyncOp → Bool
  | .put | .fill => true
  | _ => false

/-- What the home sends for an access that was performed (R261). -/
def SyncReq.reply (rq : SyncReq) (old : W64) (full : Bool) : Msg :=
  match rq.op with
  | .take | .peek => .served rq.ctx (some rq.reg) old (wideReach rq.reach)
  | .put => .served rq.ctx none 0 (wideReach rq.reach)
  | .fill => .ack rq.ctx
  | .empty => .load rq.ctx rq.reg old (wideReach rq.reach)
  | .festat => .load rq.ctx rq.reg (if full then 1 else 0) (wideReach rq.reach)

/-- What the home sends for an access whose block failed: the wait ends with CTX.PC at the access, the load is an error
delivery, the store is acknowledged (R253, R364). -/
def State.refuseSync (s : State) (rq : SyncReq) (c : Byte) : State :=
  match rq.op with
  | .take | .put | .peek =>
    let word := match s.ctx? rq.ctx with | some x => x.book.word | none => 0
    s.post (.dropped rq.ctx ⟨c, rq.va, 0, word⟩)
  | .fill => (s.deliverTrap rq.ctx ⟨c, rq.va, 0, 0⟩).post (.ack rq.ctx)
  | .empty | .festat => s.post (.error rq.ctx rq.reg c rq.va (wideReach rq.reach))

/-- The code of a full/empty operation (R260). -/
def SyncOp.code : SyncOp → Nat
  | .take => 0 | .put => 1 | .peek => 2 | .fill => 3 | .empty => 4 | .festat => 5

/-- A block's tag renewed after a change of its full/empty bits (R364). -/
def State.retag (s : State) (pa kslot : Nat) : State × Option Byte := s.storeBlock kslot [(pa, Memory.read s.mem pa)]

/-- An access performed at its home as one step (R262), the word's line recalled from its L2 slice first (R200): the word, its
full/empty bit, the block's tag and the reply.  A FILL at reach cluster or wider invalidates for its strand (R203). -/
def State.performSync (s0 : State) (rq : SyncReq) : State :=
  let s := s0.l2Yield rq.pa
  match s.verify rq.pa rq.attr.kslot with
  | (s1, some c) => s1.refuseSync rq c
  | (s1, none) =>
    let old := Memory.dword s1.mem rq.pa
    let full := s1.isFull rq.pa
    let stored := match rq.op with
      | .put | .fill => (s1.dropClean rq.unit rq.pa 8).storeBlock rq.attr.kslot (cellsAt rq.pa (bytesOf rq.v.toNat 8))
      | .take | .empty => s1.retag rq.pa rq.attr.kslot
      | _ => (s1, none)
    match stored with
    | (s2, some c) => s2.refuseSync rq c
    | (s2, none) =>
      let s3 := match rq.op with
        | .take | .empty => s2.setFull rq.pa false
        | .put | .fill => s2.setFull rq.pa true
        | _ => s2
      (if rq.op = .fill ∧ wideReach rq.reach = true then s3.acquireFor rq.ctx else s3).post (rq.reply old full)

/-- A full/empty access at its stack's port (R215-R220): only one that writes its word is an arrival there. -/
def State.arriveSync (s : State) (rq : SyncReq) (id : Nat) : Admit :=
  s.arrive (.stack (stackOf rq.pa)) (rq.attr.trace && rq.op.writes && isStack rq.pa) rq.attr.kslot
    (s.arrivalOf 5 rq.unit rq.attr.tenant rq.pa 8) id

/-- The deferred list of a word served from its head while the head can proceed (R262): the state, and what is left.  An entry that
a replay port holds waits there as a message (R220). -/
def State.serveList (s : State) : List SyncReq → State × List SyncReq
  | [] => (s, [])
  | rq :: m =>
    if s.canProceed rq then
      match s.arriveSync rq s.nextId with
      | .hold s1 => (s1.post (.sync rq), m)
      | .perform s1 => (s1.performSync rq).serveList m
    else (s, rq :: m)

/-- The deferred list of a word. -/
def State.deferredAt (s : State) (pa : Nat) : List SyncReq := (Assoc.get s.deferred pa).getD []
/-- A word's deferred list replaced. -/
def State.setDeferred (s : State) (pa : Nat) (l : List SyncReq) : State :=
  { s with deferred := match l with | [] => Assoc.erase s.deferred pa | _ => Assoc.set s.deferred pa l }
/-- Entries of a stack's deferred lists (R263). -/
def State.deferredCount (s : State) (k : Nat) : Nat :=
  ((s.deferred.filter (fun d => stackOf d.1 == k)).map (fun d => d.2.length)).foldl (· + ·) 0

/-- Serves the list of a word after its state may have changed. -/
def State.serveWord (s : State) (pa : Nat) : State :=
  match s.deferredAt pa with
  | [] => s
  | l => let r := s.serveList l
         r.1.setDeferred pa r.2

/-- SYNC_ACCESS_AT_HOME (R200, R262, R263): asked of the device that is its home (R392), performed, appended to the deferred list, or refused for want of an entry. -/
def execSyncAccessAtHome (id : Nat) (s : State) : Out :=
  match s.msg? id with
  | some (.sync rq) =>
    s.askHome "SYNC_ACCESS_AT_HOME" id rq.unit rq.pa true [2, w64 rq.op.code, w64 rq.pa, rq.v] <|
    if s.faulted || !(s.released rq.unit id) || s.behind id rq.unit rq.pa then noOccasion "SYNC_ACCESS_AT_HOME"
    else if s.canProceed rq then
      match s.arriveSync rq id with
      | .hold s1 => if s1 = s then noOccasion "SYNC_ACCESS_AT_HOME" else .next s1
      | .perform s1 => .next (((s1.dropMsg id).performSync rq).serveWord rq.pa)
    else if s.deferredCount (stackOf rq.pa) < 4194304 then
      .next ((s.dropMsg id).setDeferred rq.pa (s.deferredAt rq.pa ++ [rq]))
    else
      .next (((s.dropMsg id).modStack (stackOf rq.pa) (fun k => { k with refusals := k.refusals + 1 })).post
        (.syncRefused rq ((s.unit rq.unit).cycle + 4096)))
  | _ => noOccasion "SYNC_ACCESS_AT_HOME"

/-- DEFERRED_RESEND (R263): 4,096 cycles after the refusal the access is sent again; one of another device comes again when that device
sends it (log 28). -/
def execDeferredResend (id : Nat) (s : State) : Out :=
  match s.msg? id with
  | some (.syncRefused rq due) =>
    if due ≤ (s.unit rq.unit).cycle ∨ 4096 ≤ rq.unit then .next ((s.dropMsg id).post (.sync rq)) else noOccasion "DEFERRED_RESEND"
  | _ => noOccasion "DEFERRED_RESEND"

/-! ## Limits of waits (R264, R308, R322, R344) -/

/-- The cluster whose allocator serves a trap at a line (R43). -/
def State.lineCluster (s : State) (c : Ctx) : Nat :=
  match c.book.owner with
  | .l1 u => s.allocCluster u c.line.hclu
  | .l2 cl => cl
  | .hbm cl => cl

/-- Contexts that wait for an IU's accumulator become READY (R160, R166, R307): one that holds the latches once no step is latched or
running; any other when the latch of the slot that it parked from frees, or is free as the last hold ends. -/
def State.wakeAcc (s : State) (u : Nat) (freed : Option Nat) : State :=
  s.lines.foldl (fun s c =>
    if c.2.line.st = .waiting ∧ c.2.line.wait = .acc u then
      let x := s.unit u
      if x.accHold.contains c.1 then
        (if x.latch.isEmpty && x.running.isNone then s.makeReady c.1 else s)
      else if (Assoc.get x.latch c.2.book.parkedAt).isNone && (freed == some c.2.book.parkedAt || x.accHold.isEmpty) then
        s.makeReady c.1
      else s
    else s) s

/-- A hold of an accumulator's latches that ends with the wait of its context (R166, R308). -/
def State.dropAccHold (s : State) (va : Nat) (w : Wait) : State :=
  match w with
  | .acc u =>
    if (s.unit u).accHold.contains va then
      (s.modUnit u (fun x => { x with accHold := x.accHold.filter (fun c => c != va) })).wakeAcc u none
    else s
  | _ => s

/-- The trap of a wait limit: TRAPPED with cause 0x0A, CTX.PC at the instruction that waited (R42, R45, R308), which traps itself
(R387); or that of an error in the line, whose cancel ended the wait (R412). -/
def State.expire (s : State) (va : Nat) : State :=
  match s.ctx? va with
  | none => s
  | some c => match c.book.traps.find? (fun t => t.cause == 0x09 && t.fva == w64 va) with
    | none =>
      (s.raise (.line (s.lineCluster c)) va 0x0A c.line.wait.object c.line.wait.tag c.book.word true).dropAccHold va c.line.wait
    | some t =>
      ((s.modBook va (fun b => { b with traps := b.traps.filter (fun x => x != t) })).raise (.line (s.lineCluster c)) va t.cause
        t.fva t.detail c.book.word false).dropAccHold va c.line.wait

/-- Whether the handler of an expired wait finds room (R301, R308). -/
def State.expireRoom (s : State) (va : Nat) : Bool :=
  match s.ctx? va with
  | none => true
  | some c =>
    s.handlerRoom (.line (s.lineCluster c)) va (if c.book.traps.any (fun t => t.cause == 0x09 && t.fva == w64 va) then 0x09 else 0x0A)

/-- Whether a wait is one whose access is performed at a home, which must be asked first (R264). -/
def Wait.atHome : Wait → Bool
  | .word _ | .frame _ | .ring _ | .stage _ => true
  | _ => false

/-- WAIT_LIMIT_EXPIRY (R308): the timer has run out while the context waits; a wait at a home sends a cancel there (R264), and any
other traps once the handler finds room (R301). -/
def execWaitLimitExpiry (va : Nat) (s : State) : Out :=
  match s.ctx? va with
  | none => noOccasion "WAIT_LIMIT_EXPIRY"
  | some c =>
    match c.book.timer with
    | none => noOccasion "WAIT_LIMIT_EXPIRY"
    | some (u, t) =>
      if c.line.st = .waiting ∧ t ≤ (s.unit u).cycle then
        let s1 := s.modBook va (fun b => { b with timer := none })
        if c.line.wait.atHome then .next (s1.post (.cancel va c.line.wait c.book.stamp))
        else if s1.expireRoom va then .next (s1.expire va)
        else noOccasion "WAIT_LIMIT_EXPIRY"
      else noOccasion "WAIT_LIMIT_EXPIRY"

/-- Whether a context's access is still on its way to its home. -/
def State.accessUnderWay (s : State) (va : Nat) : Bool :=
  s.wire.any (fun m => match m.2 with
    | .sync rq => rq.ctx == va
    | .await c _ _ _ _ _ => c == va
    | .ringOp rq => rq.who == .ctx va
    | _ => false)

/-- Whether the wait that began at a stamp is over: its context waits no longer, or waits again (R264). -/
def State.waitOver (s : State) (va : Nat) (w : Wait) (stamp : Nat) : Bool :=
  match s.ctx? va with | some c => !(c.line.st == .waiting && c.line.wait == w && c.book.stamp == stamp) | none => true

/-- Whether a context's access was performed and its reply is under way, or its wait is over. -/
def State.accessServed (s : State) (va : Nat) (w : Wait) (stamp : Nat) : Bool :=
  s.wire.any (fun m => match m.2 with | .served c _ _ _ => c == va | .dropped c _ => c == va | _ => false) ||
  s.waitOver va w stamp

/-- Whether a ring operation of a context waits at its ring's home (R169). -/
def State.ringWaits (s : State) (va : Nat) : Bool :=
  s.ringLists.any (fun d => d.2.any (fun rq => rq.who == .ctx va && !rq.stage))

/-- Every waiting entry of a context taken out of the lists of its home; a ring operation that goes with it counts in TILES no longer
(R143, R264). -/
def State.disarm (s0 : State) (va : Nat) : State :=
  let s := if s0.ringWaits va then s0.modLine va (fun l => { l with tiles := l.tiles - 1 }) else s0
  { s with
    deferred := (s.deferred.map (fun d => (d.1, d.2.filter (fun rq => rq.ctx != va)))).filter (fun d => !d.2.isEmpty)
    armed := s.armed.filter (fun d => d.2.1 != va)
    ringLists := (s.ringLists.map (fun d => (d.1, d.2.filter (fun rq => rq.who != .ctx va)))).filter (fun d => !d.2.isEmpty)
    wire := s.wire.filter (fun m => match m.2 with
      | .syncRefused rq _ => rq.ctx != va
      | .awaitRefused c _ _ _ _ _ _ => c != va
      | _ => true) }

/-- A context's access that another device was asked for, and the device (R264, R392). -/
def State.askedAccess (s : State) (va : Nat) : Option (Nat × Nat) :=
  s.wire.findSome? (fun m =>
    if s.asked.contains m.1 then
      match m.2 with
      | .sync rq => if rq.ctx = va then (s.peerFor rq.pa).map (fun d => (m.1, d)) else none
      | .await c _ _ _ pa _ => if c = va then (s.peerFor pa).map (fun d => (m.1, d)) else none
      | _ => none
    else none)

/-- WAIT_CANCEL (R264): the cancel of an access that another device was asked for goes on to it, which answers.  Where the access was performed before, it stands; otherwise the entry leaves and the context traps.  The
cancel of a wait that is over does nothing. -/
def execWaitCancel (id : Nat) (s : State) : Out :=
  match s.msg? id with
  | some (.cancel va w stamp) =>
    match (if s.waitOver va w stamp then none else s.askedAccess va) with
    | some (m, dev) => .next ((s.dropMsg id).tell dev [17, askNumber m])
    | none =>
    if !(s.waitOver va w stamp) && s.accessUnderWay va then noOccasion "WAIT_CANCEL"
    else if s.accessServed va w stamp then .next (s.dropMsg id)
    else if !(((s.dropMsg id).disarm va).expireRoom va) then
      (if (s.disarm va) = s then noOccasion "WAIT_CANCEL" else .next (s.disarm va))
    else .next (((s.dropMsg id).disarm va).expire va)
  | _ => noOccasion "WAIT_CANCEL"

/-! ## Atomic operations (R266, R267) -/

/-- Operations of an AMO (R266). -/
inductive AmoOp where
  | add | min | max | and | or | xor | swap | cas | fadd
  deriving DecidableEq, Repr

/-- The word an AMO leaves, and its flags (R266).  c is the compare value of CAS. -/
def AmoOp.apply (o : AmoOp) (mode : Round) (m v c : W64) : W64 × Flags :=
  match o with
  | .add => (m + v, .none)
  | .min => (if m.slt v then m else v, .none)
  | .max => (if m.slt v then v else m, .none)
  | .and => (m &&& v, .none)
  | .or => (m ||| v, .none)
  | .xor => (m ^^^ v, .none)
  | .swap => (v, .none)
  | .cas => (if m = c then v else m, .none)
  | .fadd => floatLanes 32 2 (fun i => fp32.addV mode (fp32.unpack (lane m 32 i)) (fp32.unpack (lane v 32 i)))

/-- An AMO (R200, R266, R267, R268): on an IU the context departs to its serving CIU; a CIU that does not serve the word sends it back
first; on the serving CIU it is performed at once, the word's line recalled from its L2 slice. -/
def amoBody (o : AmoOp) (d a v : Reg) (e : Env) (s : State) : Except Stop State :=
  let va := va56 (e.line.reg a)
  match s.syncTarget e va with
  | .error x => .error x
  | .ok (t, dev, pa) =>
    let home := if dev = s.device then pa else (match peerOf pa with | some (_, off) => off | none => pa)
    if 1536 ≤ e.u ∧ (dev ≠ s.device ∨ servingCiu home ≠ e.u) then .error (.goBack e t)
    else if e.line.loads ≠ 0 ∨ e.line.stores ≠ 0 then .error (.waste (.counters 0x00004040))
    else if e.u < 1536 then .error (.depart dev (.l1 (servingCiu home)) (fun s => s.touchTlb e.u t))
    else match (s.l2Yield pa).verify pa (s.homeAttr t pa).kslot with
      | (_, some _) => .error (.bad (w64 va) pa (s.homeAttr t pa).kslot)
      | (s1, none) =>
        let m := Memory.dword s1.mem pa
        let r := o.apply e.line.round m (e.line.reg v) (e.line.reg d)
        let a := s.homeAttr t pa
        match s1.arrive (.stack (stackOf pa)) a.trace a.kslot ⟨5, s.device, e.u, a.tenant, pa, 8⟩ (amoId e.va e.line.pc.toNat) with
        | .hold s2 => .error (.hold (fun _ => s2))
        | .perform s2 =>
          match s2.storeBlock a.kslot (cellsAt pa (bytesOf r.1.toNat 8)) with
          | (_, some c) => .error (.trap c (w64 va) 0)
          | (s3, none) =>
            .ok ((s3.touchTlb e.u t).setCtx e.va ⟨((e.line.setReg d m).addFlags r.2).advance, e.book⟩)

/-- AMO.ADD (R266). -/
def execAmoAdd (g : Guard) (d a v : Reg) (_r : Reach) (s : State) : Out :=
  .next (s.issueWith g false true [d, a, v] (amoBody .add d a v))
/-- AMO.MIN (R266). -/
def execAmoMin (g : Guard) (d a v : Reg) (_r : Reach) (s : State) : Out :=
  .next (s.issueWith g false true [d, a, v] (amoBody .min d a v))
/-- AMO.MAX (R266). -/
def execAmoMax (g : Guard) (d a v : Reg) (_r : Reach) (s : State) : Out :=
  .next (s.issueWith g false true [d, a, v] (amoBody .max d a v))
/-- AMO.AND (R266). -/
def execAmoAnd (g : Guard) (d a v : Reg) (_r : Reach) (s : State) : Out :=
  .next (s.issueWith g false true [d, a, v] (amoBody .and d a v))
/-- AMO.OR (R266). -/
def execAmoOr (g : Guard) (d a v : Reg) (_r : Reach) (s : State) : Out :=
  .next (s.issueWith g false true [d, a, v] (amoBody .or d a v))
/-- AMO.XOR (R266). -/
def execAmoXor (g : Guard) (d a v : Reg) (_r : Reach) (s : State) : Out :=
  .next (s.issueWith g false true [d, a, v] (amoBody .xor d a v))
/-- AMO.SWAP (R266). -/
def execAmoSwap (g : Guard) (d a v : Reg) (_r : Reach) (s : State) : Out :=
  .next (s.issueWith g false true [d, a, v] (amoBody .swap d a v))
/-- AMO.CAS: gd is the compare value, then receives the old one (R266). -/
def execAmoCas (g : Guard) (d a v : Reg) (_r : Reach) (s : State) : Out :=
  .next (s.issueWith g false true [d, a, v] (amoBody .cas d a v))
/-- AMO.FADD (R266). -/
def execAmoFadd (g : Guard) (d a v : Reg) (_r : Reach) (s : State) : Out :=
  .next (s.issueWith g false true [d, a, v] (amoBody .fadd d a v))

/-! ## Moonlets (R208, R269) -/

/-- A moonlet sent (R269), after the strand's earlier stores to its word (R190, R192). -/
def moonBody (op : MoonOp) (a v : Reg) (e : Env) (s : State) : Except Stop State :=
  let va := va56 (e.line.reg a)
  match s.syncTarget e va with
  | .error x => .error x
  | .ok (t, _, pa) =>
    if 63 ≤ e.line.stores then .error (.waste (.counters fullStores))
    else .ok ((((s.touchTlb e.u t).setCtx e.va ⟨e.line.startStore, e.book⟩).giveUp e.u pa).post
      (.moonlet e.va e.u (s.homeAttr t pa) op (w64 va) pa (e.line.reg v)))

/-- MOON.ADD (R269). -/
def execMoonAdd (g : Guard) (a v : Reg) (s : State) : Out := .next (s.issueWith g false false [a, v] (moonBody .add a v))
/-- MOON.MIN (R269). -/
def execMoonMin (g : Guard) (a v : Reg) (s : State) : Out := .next (s.issueWith g false false [a, v] (moonBody .min a v))
/-- MOON.MAX (R269). -/
def execMoonMax (g : Guard) (a v : Reg) (s : State) : Out := .next (s.issueWith g false false [a, v] (moonBody .max a v))
/-- MOON.OR (R269). -/
def execMoonOr (g : Guard) (a v : Reg) (s : State) : Out := .next (s.issueWith g false false [a, v] (moonBody .or a v))
/-- MOON.FADD (R269). -/
def execMoonFadd (g : Guard) (a v : Reg) (s : State) : Out :=
  .next (s.issueWith g false false [a, v] (moonBody .fadd a v))

/-- The word a moonlet leaves (R269). -/
def MoonOp.apply (o : MoonOp) (m v : W64) : W64 :=
  match o with
  | .add => m + v
  | .min => if m.slt v then m else v
  | .max => if m.slt v then v else m
  | .or => m ||| v
  | .fadd => ofLanes 32 2 (fun i => addRne (lane m 32 i) (lane v 32 i))

/-- The code of a moonlet's operation (R269). -/
def MoonOp.code : MoonOp → Nat
  | .add => 0 | .min => 1 | .max => 2 | .or => 3 | .fadd => 4

/-- MOONLET_PERFORM (R208): one read, update and write at the home; moonlets of one strand to one word keep their order. -/
def execMoonletPerform (id : Nat) (s : State) : Out :=
  match s.msg? id with
  | some (.moonlet va u a op fva pa v) =>
    s.askHome "MOONLET_PERFORM" id u pa true [3, w64 op.code, w64 pa, v] <|
    if s.faulted || s.behind id u pa || !(s.released u id) then noOccasion "MOONLET_PERFORM"
    else
      match s.arrive (.stack (stackOf pa)) (a.trace && isStack pa) a.kslot (s.arrivalOf 4 u a.tenant pa 8) id with
      | .hold s1 => if s1 = s then noOccasion "MOONLET_PERFORM" else .next s1
      | .perform s1 =>
        let s2 := (s1.dropMsg id).l2Yield pa
        match s2.verify pa a.kslot with
        | (s3, some c) => .next ((s3.deliverTrap va ⟨c, fva, 0, 0⟩).ackStore va)
        | (s3, none) =>
          match (s3.dropClean u pa 8).storeBlock a.kslot (cellsAt pa (bytesOf (op.apply (Memory.dword s3.mem pa) v).toNat 8)) with
          | (s4, some c) => .next ((s4.deliverTrap va ⟨c, fva, 0, 0⟩).ackStore va)
          | (s4, none) => .next (s4.ackStore va)
  | _ => noOccasion "MOONLET_PERFORM"

/-! ## Comets (R310) -/

/-- The number by which every device knows a command of this one (log 28). -/
def State.farCmd (s : State) (id : Nat) : Nat := if id < 2 ^ 48 then (s.device + 1) * 2 ^ 48 + id else id

/-- The commands that a context has outstanding on other devices, as its fences name them (R212). -/
def Book.farCmds (b : Book) : List Nat := ((b.fences.flatMap (fun f => f.2)).filter (fun i => decide (2 ^ 48 ≤ i))).eraseDups

/-- The fences that go with a line to another device, with every command that the context has outstanding (R212; log 28). -/
def State.fenceWords (s : State) (va : Nat) (b : Book) : List W64 :=
  let live (i : Nat) : Bool := decide (2 ^ 48 ≤ i) || s.cmds.any (fun c => c.id == i)
  let mine := (s.cmds.filter (fun c => c.ctx == va)).map (fun c => c.id)
  let all := (0#7, mine ++ b.farCmds) :: (b.fences.filter (fun f => f.1 != 0)).map (fun f => (f.1, f.2.filter live))
  (all.filter (fun f => !f.2.isEmpty)).flatMap (fun f =>
    w64 (f.1.toNat + 256 * f.2.length) :: f.2.map (fun i => w64 (s.farCmd i)))

/-- A line sent to another device: its words with the instruction word that it parked at and its fences, the VA and the unit it goes to, then the traps delivered to it and not yet
taken, and the statuses that it still owes a HALT.Q; this device's copy is gone (R27, R212, R253, R310, R386; log 28). -/
def State.sendLine (s : State) (va dev : Nat) (dest : Owner) : State :=
  match s.ctx? va with
  | some c =>
    let code : Nat := match dest with | .l1 u => u | .l2 cl => 4096 + cl | .hbm cl => 4096 + cl
    let s1 := { s with lines := Assoc.erase s.lines va, abroad := Assoc.set s.abroad va dev }.tell dev
      ([4, w64 va, w64 code] ++ c.line.words ++ c.book.word.setWidth 64 :: s.fenceWords va c.book)
    let s2 := c.book.traps.foldl (fun s t => s.tell dev [8, w64 va, 4, t.codeWord, t.fva, t.detail]) s1
    c.book.haltDue.foldl (fun s d => (s.post (.statusReq d.ctx d.reg)).ask s.nextId dev [14, 1, w64 va]) s2
  | none => s

/-- COMET_ARRIVAL (R22, R27, R195, R196, R310): once the releases and the context's stores are done, the deliveries held for the line
are performed, it changes owner and is READY at its destination; one that goes to another device is sent there.  A line that an error
has trapped on its way goes nowhere (R412). -/
def execCometArrival (id : Nat) (s : State) : Out :=
  match s.msg? id with
  | some (.comet va dev dest) =>
    match s.ctx? va with
    | none => noOccasion "COMET_ARRIVAL"
    | some c =>
      let relOk := match c.book.owner with | .l1 u => s.released u id | _ => true
      if c.line.st ≠ .transit then .next (s.dropMsg id)
      else if c.line.stores ≠ 0 ∨ relOk = false then noOccasion "COMET_ARRIVAL"
      else if dev ≠ s.device then .next ((((s.dropMsg id).deliverHeld va).changeOwner va dest).sendLine va dev dest)
      else
        match dest with
        | .l1 u =>
          match s.makeRoom u with
          | none => noOccasion "COMET_ARRIVAL"
          | some s1 => .next ((((s1.dropMsg id).deliverHeld va).changeOwner va dest).makeReady va)
        | .l2 cl | .hbm cl =>
          match s.makeRoomL2 cl with
          | none => noOccasion "COMET_ARRIVAL"
          | some s1 => .next (((((s1.dropMsg id).deliverHeld va).changeOwner va dest).modBook va
              (fun b => { b with lastUnit := none })).makeReady va)
  | _ => noOccasion "COMET_ARRIVAL"

end Sys2Proof.Machine
end

