-- ==== Sys2Proof/Machine/Tasks.lean ====
section
/-! DEFINITION. Spawning and joining: SPAWN, AWAIT, DONE, FRAME, YIELD, MIGRATE, and the frame updates at their homes
(R316-R326). -/

namespace Sys2Proof.Machine

/-! ## Spawn (R320, R321) -/

/-- The line of a child (R320). -/
def childLine (l : Line) (target : VAddr) (cl dev : Nat) : Line :=
  { l with
    pc := target
    pend := 0
    cause := 0
    openMsg := false
    st := .issuing
    wait := .none
    frame := 0
    join := l.frame
    tiles := 0
    engs := 0
    stores := 0
    loads := 0
    hdev := dev
    hclu := cl
    haltReq := false
    oseq := 0 }

/-- The frame that CTX.FRAME names, translated; none where it names none. -/
def State.frameTarget (s : State) (e : Env) (frame : W64) : Except Stop (Option (TlbEntry × Nat)) :=
  if frame = 0 then .ok none
  else match s.syncTarget e (va56 frame) with
    | .error x => .error x
    | .ok (t, _, pa) => .ok (some (t, pa))

/-- A line that a new context takes: nothing else stands there, and it enters the L1 of its unit (R320). -/
def State.newLine (s : State) (u va : Nat) (l : Line) : State :=
  { s.setCtx va ⟨l, Book.fresh (.l1 u) s.stamp (some u)⟩ with
    stamp := s.stamp + 1, records := Assoc.erase s.records va }

/-- A child placed in its slot, and checked there (R299, R320, R351). -/
def State.enterChild (s : State) (u k child : Nat) (l : Line) : State :=
  let s1 := (s.newLine u child l).setOcc u k (some child)
  if s1.queueOk l.tenant l.queue then s1 else s1.raiseSoon u k child 0x05 (w64 child) 0

/-- Whether a FRAME of a context is still to be performed, so that its CTX.FRAME is not yet what the program set (R324). -/
def State.framePending (s : State) (va : Nat) : Bool :=
  s.wire.any (fun m => match m.2 with | .frameInit c _ _ _ _ _ => c == va | _ => false)

/-- SPAWN and SPAWNR (R320): the child runs in this slot, and the spawner steps aside.  A spawn waits for a FRAME before it (R324;
log 73), and for room in the context L1, for which the spawner itself is no victim (R301, R432). -/
def spawnBody (target : Line → VAddr) (check : Bool) (e : Env) (s : State) : Except Stop State :=
  let t := target e.line
  if e.line.openMsg then .error (.trap 0x13 0 0)
  else if check && t.extractLsb' 0 2 != 0#2 then .error (.trap 0x03 (t.setWidth 64) 0)
  else if s.framePending e.va then .error (.hold id)
  else match s.frameTarget e e.line.frame with
    | .error x => .error x
    | .ok f =>
      if f.isSome && decide (63 ≤ e.line.stores) then .error (.waste (.counters fullStores))
      else match s.allocFrom e.u (e.u / 96) e.line.tenant with
        | none => .error (.trapAfter (fun s => s.openArena e.u (e.u / 96) e.line.tenant) 0x0C 0 0)
        | some (child, s1) =>
          let s2 := match f with
            | none => s1.modLine e.va Line.advance
            | some (x, pa) => (((s1.touchTlb e.u x).modLine e.va Line.startStore).giveUp e.u pa).post
                (.frameInc e.va e.u (s.homeAttr x pa) (w64 (va56 e.line.frame)) pa)
          match s2.makeRoom e.u with
          | none => .error (.hold id)
          | some s3 =>
            let s4 := (s3.vacate e.va).makeReady e.va
            let s5 := if s4.dequeAccepts e.u e.line.tenant then
                s4.pushBottom e.u (.continuation e.line.tenant e.va e.line.queue (va56 e.line.frame))
              else s4
            .ok (s5.enterChild e.u e.slot child (childLine e.line t (e.u / 96) s.device))

/-- SPAWN (R320). -/
def execSpawn (g : Guard) (off : BitVec 12) (s : State) : Out :=
  .next (s.issueWith g false false allRegs (spawnBody (fun l => branchTarget l.pc off) false))
/-- SPAWNR (R320). -/
def execSpawnr (g : Guard) (a : Reg) (s : State) : Out :=
  .next (s.issueWith g false false allRegs (spawnBody (fun l => regVa (l.reg a)) true))

/-! ## Await (R322) -/

/-- AWAIT (R322): with no frame it writes 0; otherwise it parks and its access goes to the frame's home. -/
def awaitBody (d : Reg) (e : Env) (s : State) : Except Stop State :=
  if e.line.openMsg then .error (.trap 0x13 0 0)
  else match s.frameTarget e e.line.frame with
    | .error x => .error x
    | .ok none => .ok (s.setCtx e.va ⟨(e.line.setReg d 0).advance, e.book⟩)
    | .ok (some (t, pa)) =>
      if e.line.loads ≠ 0 ∨ e.line.stores ≠ 0 then .error (.waste (.counters 0x00004040))
      else .error (.park (.frame e.line.frame) (fun s =>
        ((s.touchTlb e.u t).giveUp e.u pa).post (.await e.va e.u (s.homeAttr t pa) (w64 (va56 e.line.frame)) pa d)))

/-- AWAIT (R322). -/
def execAwait (g : Guard) (d : Reg) (s : State) : Out := .next (s.issueWith g false false [d] (awaitBody d))

/-! ## Done (R323) -/

/-- What DONE and the RTE of a handler share (R323, R374): the release, the decrement, the end of the line, and the slot
handed to the parent's continuation or left empty. -/
def State.finish (s : State) (e : Env) (f : Option (TlbEntry × Nat)) : State :=
  let cl := s.allocCluster e.u e.line.hclu
  let x := s.unit e.u
  let entry := if e.u < 1536 ∧ (x.dqRow e.line.tenant).frozen = false then x.bottom e.line.tenant else none
  let take := match entry with | some (i, d) => if d.kind = 0 then some (i, d) else none | none => none
  let isLocal := match take with | some (_, d) => d.frame == va56 e.line.join | none => false
  let s1 := (((s.release e.u none).vacate e.va).setSt e.va .done .none).endHoldings e.va none
  let s2 := match f with
    | none => s1.freeLine e.u cl e.va
    | some (t, pa) => (s1.touchTlb e.u t).post
        (.frameDec e.va e.u (s.homeAttr t pa) (w64 (va56 e.line.join)) pa (!isLocal))
  match take with
  | some (i, d) => (s2.dropEntry e.u i).takeIntoSlot e.u e.slot d.va d
  | none => s2

/-- The condition word of DONE (R323). -/
def doneCond : W32 := 0x40404040

/-- DONE (R323). -/
def doneBody (e : Env) (s : State) : Except Stop State :=
  if e.line.openMsg then .error (.trap 0x13 0 0)
  else if !(e.line.meets doneCond) then .error (.waste (.counters doneCond))
  else match s.frameTarget e e.line.join with
    | .error x => .error x
    | .ok f => .ok (s.finish e f)

/-- DONE (R323). -/
def execDone (g : Guard) (s : State) : Out := .next (s.issueWith g false false [] doneBody)

/-! ## Frame, yield, migrate (R324-R326) -/

/-- FRAME (R324): CTX.FRAME changes once the home has written the frame. -/
def frameBody (a b : Reg) (e : Env) (s : State) : Except Stop State :=
  let v := e.line.reg a
  if v = 0 then .ok (s.setCtx e.va ⟨{ e.line with frame := 0 }.advance, e.book⟩)
  else if va56 v % 32 ≠ 0 then .error (.trap 0x03 v 0)
  else match s.syncTarget e (va56 v) with
    | .error x => .error x
    | .ok (t, _, pa) =>
      if e.line.loads ≠ 0 ∨ e.line.stores ≠ 0 then .error (.waste (.counters 0x00004040))
      else
        let s1 := s.setCtx e.va ⟨e.line.startStore, e.book⟩
        .ok ((((s1.touchTlb e.u t).syncRelease e.u pa).post
          (.frameInit e.va e.u (s.homeAttr t pa) v pa (e.line.reg b))).invalidate e.u)

/-- FRAME (R324). -/
def execFrame (g : Guard) (a b : Reg) (s : State) : Out := .next (s.issueWith g false false [a, b] (frameBody a b))

/-- YIELD (R325). -/
def yieldBody (e : Env) (s : State) : Except Stop State :=
  if e.line.openMsg then .error (.trap 0x13 0 0)
  else .ok (((s.modLine e.va Line.advance).vacate e.va).makeReady e.va)

/-- YIELD (R325). -/
def execYield (g : Guard) (s : State) : Out := .next (s.issueWith g false false [] yieldBody)

/-- The destination that MIGRATE reads from a register (R326): a device of the domain and a unit, started if it is this
device's. -/
def State.migrateTo (s : State) (e : Env) (v : W64) : Except Stop (Nat × Nat) :=
  if bit v 63 then
    if bits v 40 23 ≠ 0 then .error (.trap 0x05 v 0)
    else match s.handleAt e (w64 (bits v 0 40)) [1, 2] with
      | .error x => .error x
      | .ok t => if s.unitUp t.iu then .ok (s.device, t.iu) else .error (.trap 0x05 v 0)
  else
    let dev := bits v 32 8
    let u := bits v 0 11
    if bits v 11 21 ≠ 0 ∨ bits v 40 24 ≠ 0 ∨ 64 ≤ dev ∨ 1632 ≤ u then .error (.trap 0x05 v 0)
    else if dev = s.device ∧ s.unitUp u = false then .error (.trap 0x05 v 0)
    else .ok (dev, u)

/-- MIGRATE (R326). -/
def migrateBody (a : Reg) (e : Env) (s : State) : Except Stop State :=
  if e.line.openMsg then .error (.trap 0x13 0 0)
  else match s.migrateTo e (e.line.reg a) with
    | .error x => .error x
    | .ok (dev, u) =>
      let s1 := s.modLine e.va Line.advance
      if dev = s.device ∧ u = e.u then .ok s1 else .ok (s1.departNow e dev (.l1 u))

/-- MIGRATE (R326). -/
def execMigrate (g : Guard) (a : Reg) (s : State) : Out := .next (s.issueWith g false false [a] (migrateBody a))

/-! ## Frames at their homes (R316, R317, R322-R324) -/

/-- COUNT of a frame's word 0. -/
def frameCount (w : Nat) : Nat := w % 2 ^ 32
/-- Word 0 with COUNT replaced. -/
def setFrameCount (w c : Nat) : Nat := w / 2 ^ 32 * 2 ^ 32 + c % 2 ^ 32
/-- REMOTE of word 0 (R197, R316). -/
def frameRemote (w : Nat) : Bool := natBits w 32 1 == 1
/-- Word 0 with REMOTE set or clear. -/
def setFrameRemote (w : Nat) (b : Bool) : Nat := w - natBits w 32 1 * 2 ^ 32 + b2n b * 2 ^ 32

/-- A frame's bytes written at its home for a unit: the state, and the cause where the block failed (R364). -/
def State.writeFrame (s : State) (u : Nat) (a : PageAttr) (pa : Nat) (bs : List Byte) : State × Option Byte :=
  (s.dropClean u pa bs.length).storeBlock a.kslot (cellsAt pa bs)

/-- An update of a frame as an arrival at its home, the frame's line recalled from its L2 slice: held in replay, or performed by f on the
state without its message; the device whose memory holds the frame is asked for it (R200, R215, R316). -/
def State.atFrame (s : State) (name : String) (id u : Nat) (a : PageAttr) (pa n : Nat) (writes : Bool) (op : List W64)
    (f : State → State) : Out :=
  s.askHome name id u pa true ([5, w64 pa] ++ op) <|
  if s.faulted || s.behind id u pa || !(s.released u id) then noOccasion name
  else match s.arrive (.stack (stackOf pa)) (a.trace && writes && isStack pa) a.kslot (s.arrivalOf 5 u a.tenant pa n) id with
    | .hold s1 => if s1 = s then noOccasion name else .next s1
    | .perform s1 => .next (f ((s1.dropMsg id).l2Yield pa))

/-- FRAME_INCREMENT (R317): COUNT up by one, and the spawner's STORES down. -/
def execFrameIncrement (id : Nat) (s : State) : Out :=
  match s.msg? id with
  | some (.frameInc va u a fva pa) =>
    s.atFrame "FRAME_INCREMENT" id u a pa 8 true [0] (fun s =>
      match s.verify pa a.kslot with
      | (s1, some c) => (s1.deliverTrap va ⟨c, fva, 0, 0⟩).ackStore va
      | (s1, none) =>
        let w := (Memory.dword s1.mem pa).toNat
        match s1.writeFrame u a pa (bytesOf (setFrameCount w (frameCount w + 1)) 8) with
        | (s2, some c) => (s2.deliverTrap va ⟨c, fva, 0, 0⟩).ackStore va
        | (s2, none) => s2.ackStore va)
  | _ => noOccasion "FRAME_INCREMENT"

/-- The frame's waiter delivered the word, REMOTE cleared (R322): the word that stays, and the message. -/
def frameServe (w va : Nat) (r : Reg) : Nat × Msg := (setFrameRemote w false, .served va (some r) (w64 w) (frameRemote w))

/-- The line of a strand that has completed DONE becomes FREE (R22); that of another device is told (R27; log 28). -/
def State.retire (s : State) (va : Nat) : State :=
  match s.ctx? va with
  | none => (s.forward va [12]).getD s
  | some c =>
    if c.line.st = .done ∧ c.line.loads = 0 ∧ c.line.stores = 0 ∧ c.line.engs = 0 ∧ c.line.tiles = 0 then
      s.freeLine (match c.book.owner with | .l1 u => u | .l2 cl => cl * 96 | .hbm cl => cl * 96) (s.lineCluster c) va
    else s

/-- FRAME_DECREMENT (R197, R317, R322, R323): COUNT down by one, REMOTE set unless the DONE stayed local, the armed waiter
served when COUNT reaches zero, and the line of the strand FREE. -/
def execFrameDecrement (id : Nat) (s : State) : Out :=
  match s.msg? id with
  | some (.frameDec va u a fva pa remote) =>
    s.atFrame "FRAME_DECREMENT" id u a pa 8 true [1, w64 (b2n remote)] (fun s =>
      match s.verify pa a.kslot with
      | (s1, some c) => (s1.deliverTrap va ⟨c, fva, 0, 0⟩).retire va
      | (s1, none) =>
        let w0 := (Memory.dword s1.mem pa).toNat
        let w1 := setFrameCount w0 (frameCount w0 + 2 ^ 32 - 1)
        let w := if remote then setFrameRemote w1 true else w1
        let waiter := if frameCount w = 0 then Assoc.get s1.armed pa else none
        let out := match waiter with
          | some (v, _, r, _) => frameServe w v r
          | none => (w, .ack va)
        match s1.writeFrame u a pa (bytesOf out.1 8) with
        | (s2, some c) => (s2.deliverTrap va ⟨c, fva, 0, 0⟩).retire va
        | (s2, none) =>
          (match waiter with
            | some _ => ({ s2 with armed := Assoc.erase s2.armed pa }.post out.2)
            | none => s2).retire va)
  | _ => noOccasion "FRAME_DECREMENT"

/-- AWAIT_AT_HOME (R322): served at once, armed, or refused. -/
def execAwaitAtHome (id : Nat) (s : State) : Out :=
  match s.msg? id with
  | some (.await va u a fva pa r) =>
    let w0 := (Memory.dword s.mem pa).toNat
    let writes := frameCount w0 == 0 && frameRemote w0
    s.atFrame "AWAIT_AT_HOME" id u a pa 8 writes [2] (fun s =>
      let word := match s.ctx? va with | some x => x.book.word | none => 0
      match s.verify pa a.kslot with
      | (s1, some c) => s1.post (.dropped va ⟨c, fva, 0, word⟩)
      | (s1, none) =>
        let w := (Memory.dword s1.mem pa).toNat
        if frameCount w = 0 then
          let out := frameServe w va r
          if frameRemote w then
            match s1.writeFrame u a pa (bytesOf out.1 8) with
            | (s2, some c) => s2.post (.dropped va ⟨c, fva, 0, word⟩)
            | (s2, none) => s2.post out.2
          else s1.post out.2
        else if (Assoc.get s1.armed pa).isNone then { s1 with armed := Assoc.set s1.armed pa (va, u, r, id) }
        else s1.changeMsg id (.awaitRefused va u a fva pa r ((s1.unit u).cycle + 4096)))
  | _ => noOccasion "AWAIT_AT_HOME"

/-- AWAIT_RESEND (R322): 4,096 cycles after the refusal the access is sent again, under its number. -/
def execAwaitResend (id : Nat) (s : State) : Out :=
  match s.msg? id with
  | some (.awaitRefused va u a fva pa r due) =>
    if due ≤ (s.unit u).cycle ∨ 4096 ≤ u then .next (s.changeMsg id (.await va u a fva pa r)) else noOccasion "AWAIT_RESEND"
  | _ => noOccasion "AWAIT_RESEND"

/-- A FRAME performed at its home (R324): the four words of the frame, then CTX.FRAME, and the acquire half of an access at reach
device (R203); a context of another device is told (log 28). -/
def arriveFrame (id : Nat) (s : State) : Out :=
  match s.msg? id with
  | some (.frameInit va u a fva pa ptr) =>
    s.atFrame "STORE_ACKNOWLEDGE" id u a pa 32 true [3, ptr] (fun s =>
      match s.writeFrame u a pa (wordsBytes [0, 0, ptr, 0]) with
      | (s1, some c) => (s1.deliverTrap va ⟨c, w64 (va56 fva), 0, 0⟩).ackStore va
      | (s1, none) => match s1.forward va [13] with
        | some s2 => s2
        | none => ((s1.modLine va (fun l => { l with frame := fva })).acquireFor va).ackStore va)
  | _ => noOccasion "STORE_ACKNOWLEDGE"

end Sys2Proof.Machine
end

