-- ==== Sys2Proof/Machine/Deque.lean ====
section
/-! DEFINITION. The unit deque: DQ.PUSH, DQ.POP, DQ.SPLIT, DQ.STEAL, DQ.CFG, steals at their victims, claims in the orrery's
order and the arrival of lines (R29, R303, R304, R309, R327-R340, R431). -/

namespace Sys2Proof.Machine

/-! ## Results (R331) -/

/-- The statuses of R331. -/
inductive DqStatus where
  | empty | frozen | full | refused
  deriving DecidableEq, Repr

/-- What gd receives on a failure (R331). -/
def DqStatus.word : DqStatus → W64
  | .empty => 0x7 | .frozen => 0xB | .full => 0xF | .refused => 0x13

/-- Word 0 of an entry as an instruction delivers it: [63:56] cleared (R331). -/
def DqEntry.shown (e : DqEntry) : W64 := w64 (bits e.w0 0 56)
/-- lo of a range (R327). -/
def DqEntry.lo (e : DqEntry) : Nat := bits e.w1 0 32
/-- hi of a range. -/
def DqEntry.hi (e : DqEntry) : Nat := bits e.w1 32 32
/-- A range entry with its bounds replaced. -/
def DqEntry.withRange (e : DqEntry) (lo hi : Nat) : DqEntry := ⟨e.w0, w64 (hi * 2 ^ 32 + lo)⟩
/-- The word of a range. -/
def rangeWord (lo hi : Nat) : W64 := w64 (hi * 2 ^ 32 + lo)
/-- A quotient rounded up. -/
def ceilDiv (a b : Nat) : Nat := (a + b - 1) / b

/-- An entry of a unit's deque replaced, or removed where its range is empty (R333, R335). -/
def State.shrink (s : State) (u i : Nat) (e : DqEntry) (lo hi : Nat) : State :=
  if lo = hi then s.dropEntry u i else s.modUnit u (fun x => { x with deque := setNth x.deque i (e.withRange lo hi) })

/-- The line with a result of two words, going on. -/
def Line.pairResult (l : Line) (d a : Reg) (w0 w1 : W64) : Line := ((l.setReg d w0).setReg a w1).advance

/-! ## Pushes (R332) -/

/-- DQ.PUSH of a kind (R332); the checks in the order of R331. -/
def dqPushBody (kind : Nat) (d a b : Reg) (e : Env) (s : State) : Except Stop State :=
  let v := e.line.reg a
  let ent : DqEntry := ⟨w64 (e.line.tenant * 2 ^ 56 + bits v 2 54 * 4 + kind), e.line.reg b⟩
  let done (s : State) (w : W64) : Except Stop State := .ok (s.setCtx e.va ⟨(e.line.setReg d w).advance, e.book⟩)
  if v.extractLsb' 0 2 ≠ 0#2 then .error (.trap 0x03 v 0)
  else if kind = 1 ∧ ent.hi ≤ ent.lo then done s DqStatus.refused.word
  else if ((s.unit e.u).dqRow e.line.tenant).frozen then done s DqStatus.frozen.word
  else if 256 ≤ (s.unit e.u).deque.length then done s DqStatus.full.word
  else done (s.pushBottom e.u ent) 0

/-- DQ.PUSH.RANGE (R332). -/
def execDqPushRange (g : Guard) (d a b : Reg) (s : State) : Out :=
  .next (s.issueWith g false false [d, a, b] (dqPushBody 1 d a b))
/-- DQ.PUSH.TASK (R332). -/
def execDqPushTask (g : Guard) (d a b : Reg) (s : State) : Out :=
  .next (s.issueWith g false false [d, a, b] (dqPushBody 2 d a b))

/-! ## Pops and splits (R333, R334) -/

/-- The chunk of a guided pop (R333); a G or MINCHUNK of 0 acts as 1. -/
def guidedChunk (r : DqCfg) (n : Nat) : Nat := min n (max (max r.minChunk 1) (ceilDiv n (max r.g 1)))

/-- A take from the bottommost entry of the tenant (R333, R334): split gives the chunk size, none the guided chunk. -/
def dqTakeBody (split : Option W64) (d a : Reg) (e : Env) (s : State) : Except Stop State :=
  let x := s.unit e.u
  let done (s : State) (w0 w1 : W64) : Except Stop State := .ok (s.setCtx e.va ⟨e.line.pairResult d a w0 w1, e.book⟩)
  if split = some 0 then done s DqStatus.refused.word 0
  else if (x.dqRow e.line.tenant).frozen then done s DqStatus.frozen.word 0
  else match x.bottom e.line.tenant with
    | none => done s DqStatus.empty.word 0
    | some (i, ent) =>
      if ent.kind = 0 then done s DqStatus.empty.word 0
      else if ent.kind = 1 then
        let n := ent.hi - ent.lo
        let c := match split with | some z => min n z.toNat | none => guidedChunk (x.dqRow e.line.tenant) n
        done ((s.shrink e.u i ent (ent.lo + c) ent.hi).recordTake e.u e.va ent) ent.shown (rangeWord ent.lo (ent.lo + c))
      else match split with
        | some _ => done s DqStatus.refused.word 0
        | none => done ((s.dropEntry e.u i).recordTake e.u e.va ent) ent.shown ent.w1

/-- DQ.POP (R333). -/
def execDqPop (g : Guard) (d a : Reg) (s : State) : Out :=
  .next (s.issueWith g false false [d, a] (dqTakeBody none d a))
/-- DQ.SPLIT (R334). -/
def execDqSplit (g : Guard) (d a b : Reg) (s : State) : Out :=
  .next (s.issueWith g false false [d, a, b] (fun e => dqTakeBody (some (e.line.reg b)) d a e))

/-! ## Steals (R335, R338) -/

/-- The victims that g[b] names (R335), or none where it breaks the rules. -/
def State.victims (s : State) (u : Nat) (v : W64) : Option (List (Nat × Nat)) :=
  if bit v 63 then
    if bits v 0 63 ≠ 0 then none
    else some ((List.range 8).filterMap (fun n =>
      (s.stealVictim u (s.unit u).stealSearch n).map (fun w => (s.device, w))))
  else
    let dev := bits v 32 8
    let w := bits v 0 11
    if bits v 11 21 ≠ 0 ∨ bits v 40 23 ≠ 0 ∨ 1536 ≤ w ∨ 64 ≤ dev then none
    else if dev = s.device ∧ (w = u ∨ s.unitUp w = false) then none
    else some [(dev, w)]

/-- DQ.STEAL (R331, R335): gd and ga pending, LOADS up by one, the message sent, to the peer where the victim is on another device (log
28). -/
def dqStealBody (d a b : Reg) (e : Env) (s : State) : Except Stop State :=
  if 63 ≤ e.line.loads then .error (.waste (.counters fullLoads))
  else
    let v := e.line.reg b
    let l := { (e.line.setPend d).setPend a with loads := e.line.loads + 1 }.advance
    let s1 := s.setCtx e.va ⟨l, e.book⟩
    let s2 := if v = 0x8000000000000000 then
        s1.modUnit e.u (fun x => { x with stealSearch := x.stealSearch + 1 }) else s1
    match s.victims e.u v with
    | none => .ok (s2.post (.stealResult e.va e.u d a DqStatus.refused.word 0 none))
    | some [] => .ok (s2.post (.stealResult e.va e.u d a DqStatus.empty.word 0 none))
    | some vs =>
      let s3 := match vs with
        | (dev, w) :: _ => if dev = s.device then s2
            else s2.tell dev [6, w64 s2.nextId, w64 w, w64 e.line.tenant, w64 e.u]
        | [] => s2
      .ok (s3.post (.steal ⟨e.u, e.line.tenant, some (e.va, d, a), none, vs, false⟩))

/-- DQ.STEAL (R335). -/
def execDqSteal (g : Guard) (d a b : Reg) (s : State) : Out :=
  .next (s.issueWith g false false [d, a, b] (dqStealBody d a b))

/-- A continuation that a steal has taken: its line is claimed for the thief's IU (R335, R338, R431); one already in that L1
needs no claim. -/
def State.stealLine (s : State) (u va : Nat) : State :=
  match s.ctx? va with
  | none => s
  | some c =>
    if c.book.owner = .l1 u ∧ c.book.leaving = false then s
    else (s.modBook va (fun b => { b with take := some u, assigned := none })).placeClaim va (.l1 u) .take

/-- The upper half of a range that a thief takes: its size is Ceil(n / 2) (R335). -/
def upperHalf (lo hi : Nat) : Nat := hi - ceilDiv (hi - lo) 2

/-- A steal for an instruction at one victim (R335): the state with the entry taken, its two words and the entry as it
stood. -/
def State.stealTop (s : State) (v thief tenant : Nat) : Option (State × W64 × W64 × DqEntry) :=
  match (s.unit v).top tenant with
  | none => none
  | some (i, ent) =>
    if ent.kind = 1 then
      let m := upperHalf ent.lo ent.hi
      some (s.shrink v i ent ent.lo m, ent.shown, rangeWord m ent.hi, ent)
    else if ent.kind = 0 then some ((s.dropEntry v i).stealLine thief ent.va, ent.shown, ent.w1, ent)
    else some (s.dropEntry v i, ent.shown, ent.w1, ent)

/-- A hardware steal for queue q at its victim (R338): the topmost continuation of that queue. -/
def State.hwStealAt (s : State) (v thief tenant q : Nat) : State :=
  match findEntry (fun x => x.tenant == tenant && x.kind == 0 && x.queue == q) (s.unit v).deque.reverse 0 with
  | none => s
  | some (r, ent) =>
    ((s.dropEntry v ((s.unit v).deque.length - 1 - r)).recordTake thief ent.va ent).stealLine thief ent.va

/-- STEAL_AT_VICTIM (R328, R335, R338): one victim tried; a search that fails there goes on to its next victim.  In the cycle of a
boundary the owner's own operations come first: the steal waits for the turn that ends it (R328). -/
def execStealAtVictim (id : Nat) (s : State) : Out :=
  match s.msg? id with
  | some (.steal rq) =>
    match rq.victims with
    | [] => noOccasion "STEAL_AT_VICTIM"
    | (dev, v) :: rest =>
      if dev ≠ s.device ∨ (s.unit v).boundaryDone = true then noOccasion "STEAL_AT_VICTIM"
      else
        let s1 := s.dropMsg id
        let frozen := ((s.unit v).dqRow rq.tenant).frozen
        match rq.ctx, rq.queue with
        | some (va, d, a), _ =>
          let fail := { rq with victims := rest, frozen := rq.frozen || frozen }
          let lost : Out := match rest with
            | [] => .next (s1.post (.stealResult va rq.unit d a
                (if fail.frozen then DqStatus.frozen.word else DqStatus.empty.word) 0 none))
            | _ => .next (s1.post (.steal fail))
          if frozen then lost
          else match s1.stealTop v rq.unit rq.tenant with
            | none => lost
            | some (s2, w0, w1, ent) => .next (s2.post (.stealResult va rq.unit d a w0 w1 (some ent)))
        | none, some q => .next (if frozen then s1 else s1.hwStealAt v rq.unit rq.tenant q)
        | none, none => .next s1
  | _ => noOccasion "STEAL_AT_VICTIM"

/-- STEAL_RESULT_DELIVERY (R331): of a result under way, or of w0 and w1 that a victim on a peer device answers. -/
def execStealResultDelivery (id : Nat) (w0 w1 : W64) (s : State) : Out :=
  match s.msg? id with
  | some (.stealResult va u d a v0 v1 taken) =>
    if s.deliverable va then .next ((s.dropMsg id).stealDone va u d a v0 v1 taken)
    else noOccasion "STEAL_RESULT_DELIVERY"
  | some (.steal rq) =>
    match rq.victims, rq.ctx with
    | (dev, _) :: _, some (va, d, a) =>
      if dev ≠ s.device ∧ s.deliverable va = true then
        let taken : Option DqEntry :=
          if bits w0 0 2 = 3 then none else some ⟨w64 (rq.tenant * 2 ^ 56 + bits w0 0 56), w1⟩
        .next ((s.dropMsg id).stealDone va rq.unit d a (w64 (bits w0 0 56)) w1 taken)
      else noOccasion "STEAL_RESULT_DELIVERY"
    | _, _ => noOccasion "STEAL_RESULT_DELIVERY"
  | _ => noOccasion "STEAL_RESULT_DELIVERY"

/-! ## DQ.CFG (R329, R336) -/

/-- A tenant's row as a register shows it, COUNT computed (R329). -/
def Unit.dqCfgWord (x : Unit) (tenant : Nat) : W64 :=
  let r := x.dqRow tenant
  w64 ((x.deque.filter (fun e => e.tenant == tenant)).length * 2 ^ 41 + b2n r.frozen * 2 ^ 40 + r.g * 2 ^ 32 + r.minChunk)
/-- A tenant's row with G and MINCHUNK written from a register (R336). -/
def State.setDqCfg (s : State) (u tenant : Nat) (v : W64) : State :=
  s.modUnit u (fun x =>
    let row : DqCfg := { x.dqRow tenant with g := bits v 32 8, minChunk := bits v 0 32 }
    { x with dqcfg := Assoc.set x.dqcfg tenant row })

/-- DQ.CFG (R336). -/
def execDqCfg (g : Guard) (a : Reg) (s : State) : Out :=
  .next (s.issueWith g false false [a] (fun e s =>
    .ok ((s.setDqCfg e.u e.line.tenant (e.line.reg a)).setCtx e.va ⟨e.line.advance, e.book⟩)))
/-- DQ.CFG.THAW (R336, R342). -/
def execDqCfgThaw (g : Guard) (s : State) : Out :=
  .next (s.issueWith g false false [] (fun e s =>
    .ok ((s.setFrozen e.u e.line.tenant false).setCtx e.va ⟨e.line.advance, e.book⟩)))
/-- DQ.CFG.GET (R336). -/
def execDqCfgGet (g : Guard) (d : Reg) (s : State) : Out :=
  .next (s.issueWith g false false [d] (fun e s =>
    .ok (s.setCtx e.va ⟨(e.line.setReg d ((s.unit e.u).dqCfgWord e.line.tenant)).advance, e.book⟩)))

/-! ## Claims and lines on the move (R29, R301, R303, R304, R309, R431) -/

/-- The unit whose data L1 a line's departure releases, if a unit owns it. -/
def Owner.l1? : Owner → Option Nat
  | .l1 u => some u
  | _ => none

/-- Whether the write-backs that a line's departure started before a claim are done (R195, R196): those of the unit that owns the line,
or owned it last; for a line of no such unit, those of every unit. -/
def State.claimReleased (s : State) (c : Ctx) (id : Nat) : Bool :=
  match c.book.owner.l1?, c.book.lastUnit with
  | some v, _ => s.released v id
  | none, some v => s.released v id
  | none, none => s.wire.all (fun m => match m.2 with | .writeBack _ _ _ _ _ => decide (id ≤ m.1) | _ => true)

/-- An eviction that takes effect (R29, R301 to R304): the line's new owner, its last unit where it leaves the L1 of an IU, and its
assignment where it is READY and neither held by a deque nor taken.  What a CIU evicts goes to the line's home device. -/
def State.evictTo (s : State) (va : Nat) (c : Ctx) (dest : Owner) : State :=
  match c.book.owner, dest with
  | .l1 u, .l2 cl =>
    if 1536 ≤ u ∧ c.line.hdev ≠ s.device then (s.changeOwner va dest).sendLine va c.line.hdev dest
    else
      let last : Option Nat := if u < 1536 then some u else none
      let a : Option Nat :=
        if c.line.st = .ready ∧ c.book.take = none ∧ s.heldByDeques.contains va = false then some (s.assignTo cl last) else none
      (s.changeOwner va dest).modBook va (fun b => { b with leaving := false, lastUnit := last, assigned := a })
  | .l2 cl, .hbm _ =>
    if s.canEvictL2 va then ((s.changeOwner va dest).modBook va (fun b => { b with leaving := false })).spillLine va
    else (s.modBook va (fun b => { b with leaving := false })).reportPassed cl
  | _, _ => s

/-- A claim that waits for room: what a full context L2 passes over is reported, and otherwise nothing happens (R39, R301). -/
def State.waitsForRoom (s : State) (name : String) (dest : Owner) : Out :=
  match dest with
  | .l2 cl => if (s.reportPassed cl).passedOver.length = s.passedOver.length then noOccasion name else .next (s.reportPassed cl)
  | _ => noOccasion name

/-- A line that HBM owned, as it is read back (R347, R365): a block of it that fails is told to the context, as a trap with cause 0x08 and
the line's VA (log 83). -/
def State.readBack (s : State) (va : Nat) (c : Ctx) : State :=
  match c.book.owner, s.arenaOf va with
  | .hbm _, some t => match s.xlateMapped t va accRead with
    | none => s
    | some e =>
      let (s1, bad1) := s.verify (e.addr va) e.kslot
      let (s2, bad2) := s1.verify (e.addr va + 64) e.kslot
      match bad1, bad2 with
      | none, none => s2
      | some x, _ | none, some x => s2.deliverTrap va ⟨x, w64 va, 0, 0⟩
  | _, _ => s

/-- Whether an earlier claim on a line is still to be ordered (R29, R309, R433). -/
def State.claimedBefore (s : State) (va id : Nat) : Bool :=
  s.wire.any (fun m => decide (m.1 < id) && (match m.2 with | .claim l _ _ _ => l == va | _ => false))

/-- ORRERY_CLAIM (R29, R196, R309, R431): claims on one line are ordered as they were placed (log 87); the claim takes effect where no claim on the line has taken effect since it was placed, and
a claim that loses changes nothing, but for a take, which is placed again.  A refill is installed at once, in whatever state
the line is; a take sends the line on its way, once its stores are done; an eviction moves the line down. -/
def execOrreryClaim (id : Nat) (s : State) : Out :=
  match s.msg? id with
  | some (.claim va dest why oseq) =>
    if s.claimedBefore va id then noOccasion "ORRERY_CLAIM"
    else match s.ctx? va with
    | none => .next (s.dropMsg id)
    | some c =>
      let s1 := s.dropMsg id
      match why, dest with
      | .refill, .l1 u =>
        if c.line.oseq ≠ oseq ∨ c.line.st = .free ∨ c.book.owner = .l1 u then .next s1
        else if !(s.claimReleased c id) then noOccasion "ORRERY_CLAIM"
        else match s1.makeRoom u with
          | none => noOccasion "ORRERY_CLAIM"
          | some s2 => .next (((s2.readBack va c).changeOwner va (.l1 u)).install u va)
      | .take, .l1 u =>
        if c.line.st = .free ∨ c.book.take ≠ some u then .next s1
        else if c.line.oseq ≠ oseq then .next (s1.placeClaim va (.l1 u) .take)
        else if c.line.stores ≠ 0 ∨ s.claimReleased c id = false then noOccasion "ORRERY_CLAIM"
        else if 4096 ≤ u then
          .next (((s1.readBack va c).changeOwner va (.l1 u)).sendLine va (peerUnit u).1 (.l1 (peerUnit u).2))
        else .next ((((s1.readBack va c).changeOwner va (.l1 u)).modBook va (fun b => { b with leaving := false })).post
          (.lineMove va u c.book.owner.l1?))
      | .evict, _ =>
        if c.line.oseq ≠ oseq ∨ c.line.st = .free ∨ c.book.leaving = false then .next s1
        else if !(s.claimReleased c id) then noOccasion "ORRERY_CLAIM"
        else match s1.roomAt dest with
          | none => s.waitsForRoom "ORRERY_CLAIM" dest
          | some s2 => .next (s2.evictTo va c dest)
      | _, _ => .next s1
  | _ => noOccasion "ORRERY_CLAIM"

/-- CONTEXT_LINE_ARRIVAL (R195, R303, R335, R431): a claimed line arrives and is installed; the data L1 is invalidated before
the context's first instruction there. -/
def execContextLineArrival (id : Nat) (s : State) : Out :=
  match s.msg? id with
  | some (.lineMove va u src) =>
    let released := match src with | some v => s.released v id | none => true
    if !released then noOccasion "CONTEXT_LINE_ARRIVAL"
    else match s.makeRoom u with
      | none => noOccasion "CONTEXT_LINE_ARRIVAL"
      | some s1 => .next ((s1.dropMsg id).install u va)
  | _ => noOccasion "CONTEXT_LINE_ARRIVAL"

/-- CONTEXT_L2_EVICT (R29, R39, R304): the eviction of the victim of a cluster's context L2 to HBM is claimed, the lines passed over
reported; where every line is passed over, only that. -/
def execContextL2Evict (cl va : Nat) (s : State) : Out :=
  if s.victimL2 cl = some va then .next ((s.reportPassed cl).claimEvict va (.hbm cl))
  else if (s.victimL2 cl).isNone then s.waitsForRoom "CONTEXT_L2_EVICT" (.l2 cl)
  else noOccasion "CONTEXT_L2_EVICT"

end Sys2Proof.Machine
end

