-- ==== Sys2Proof/Machine/Integer.lean ====
section
/-! DEFINITION. Integer operations, multiply and divide, bit fields (R115-R122). -/

namespace Sys2Proof.Machine

/-- An operation of two registers into a third (R115, R119). -/
def regOp (g : Guard) (d a b : Reg) (f : W64 → W64 → W64) (s : State) : State :=
  s.issueReg g [d, a, b] d (fun l => f (l.reg a) (l.reg b))
/-- An operation of one register into another (R116-R121). -/
def regOp1 (g : Guard) (d a : Reg) (f : W64 → W64) (s : State) : State :=
  s.issueReg g [d, a] d (fun l => f (l.reg a))
/-- A shift count: the low six bits (R115). -/
def shiftCount (b : W64) : Nat := b.toNat % 64

/-! ## Two registers (R115) -/

/-- ADD (R115). -/
def execAdd (g : Guard) (d a b : Reg) (s : State) : Out := .next (regOp g d a b (fun a b => a + b) s)
/-- SUB (R115). -/
def execSub (g : Guard) (d a b : Reg) (s : State) : Out := .next (regOp g d a b (fun a b => a - b) s)
/-- AND (R115). -/
def execAnd (g : Guard) (d a b : Reg) (s : State) : Out := .next (regOp g d a b (fun a b => a &&& b) s)
/-- OR (R115). -/
def execOr (g : Guard) (d a b : Reg) (s : State) : Out := .next (regOp g d a b (fun a b => a ||| b) s)
/-- XOR (R115). -/
def execXor (g : Guard) (d a b : Reg) (s : State) : Out := .next (regOp g d a b (fun a b => a ^^^ b) s)
/-- ANDN (R115). -/
def execAndn (g : Guard) (d a b : Reg) (s : State) : Out := .next (regOp g d a b (fun a b => a &&& ~~~b) s)
/-- SHL (R115). -/
def execShl (g : Guard) (d a b : Reg) (s : State) : Out := .next (regOp g d a b (fun a b => a <<< shiftCount b) s)
/-- SHRL (R115). -/
def execShrl (g : Guard) (d a b : Reg) (s : State) : Out := .next (regOp g d a b (fun a b => a >>> shiftCount b) s)
/-- SHRA (R115). -/
def execShra (g : Guard) (d a b : Reg) (s : State) : Out := .next (regOp g d a b (fun a b => a.sshiftRight (shiftCount b)) s)
/-- ROTL (R115). -/
def execRotl (g : Guard) (d a b : Reg) (s : State) : Out := .next (regOp g d a b (fun a b => a.rotateLeft (shiftCount b)) s)
/-- MIN (R115). -/
def execMin (g : Guard) (d a b : Reg) (s : State) : Out := .next (regOp g d a b (fun a b => if a.ult b then a else b) s)
/-- MINS (R115). -/
def execMins (g : Guard) (d a b : Reg) (s : State) : Out := .next (regOp g d a b (fun a b => if a.slt b then a else b) s)
/-- MAX (R115). -/
def execMax (g : Guard) (d a b : Reg) (s : State) : Out := .next (regOp g d a b (fun a b => if a.ult b then b else a) s)
/-- MAXS (R115). -/
def execMaxs (g : Guard) (d a b : Reg) (s : State) : Out := .next (regOp g d a b (fun a b => if a.slt b then b else a) s)
/-- LEA: b scaled by 1, 2, 4 or 8 (R115). -/
def execLea (g : Guard) (d a b : Reg) (sc : BitVec 2) (s : State) : Out :=
  .next (regOp g d a b (fun a b => a + b <<< sc.toNat) s)
/-- SEL (R115). -/
def execSel (g : Guard) (d a b : Reg) (p : Pred) (s : State) : Out :=
  .next (s.issueReg g [d, a, b] d (fun l => if l.p p then l.reg a else l.reg b))

/-! ## Immediates (R116-R118) -/

/-- ADDI (R116). -/
def execAddi (g : Guard) (d a : Reg) (imm : BitVec 14) (s : State) : Out :=
  .next (regOp1 g d a (fun a => a + imm64 imm) s)
/-- ANDI (R116). -/
def execAndi (g : Guard) (d a : Reg) (imm : BitVec 12) (s : State) : Out :=
  .next (regOp1 g d a (fun a => a &&& imm64 imm) s)
/-- ORI (R116). -/
def execOri (g : Guard) (d a : Reg) (imm : BitVec 12) (s : State) : Out :=
  .next (regOp1 g d a (fun a => a ||| imm64 imm) s)
/-- XORI (R116). -/
def execXori (g : Guard) (d a : Reg) (imm : BitVec 12) (s : State) : Out :=
  .next (regOp1 g d a (fun a => a ^^^ imm64 imm) s)
/-- SHLI (R117). -/
def execShli (g : Guard) (d a : Reg) (n : BitVec 6) (s : State) : Out :=
  .next (regOp1 g d a (fun a => a <<< n.toNat) s)
/-- SHRLI (R117). -/
def execShrli (g : Guard) (d a : Reg) (n : BitVec 6) (s : State) : Out :=
  .next (regOp1 g d a (fun a => a >>> n.toNat) s)
/-- SHRAI (R117). -/
def execShrai (g : Guard) (d a : Reg) (n : BitVec 6) (s : State) : Out :=
  .next (regOp1 g d a (fun a => a.sshiftRight n.toNat) s)
/-- ROTLI (R117). -/
def execRotli (g : Guard) (d a : Reg) (n : BitVec 6) (s : State) : Out :=
  .next (regOp1 g d a (fun a => a.rotateLeft n.toNat) s)
/-- LIL (R118). -/
def execLil (g : Guard) (d : Reg) (imm : BitVec 17) (s : State) : Out :=
  .next (s.issueReg g [d] d (fun _ => imm64 imm))
/-- LIH (R118). -/
def execLih (g : Guard) (d : Reg) (imm : BitVec 17) (s : State) : Out :=
  .next (regOp1 g d d (fun v => v <<< 17 ||| imm.setWidth 64) s)

/-! ## Multiply and divide (R119, R120) -/

/-- MUL (R119). -/
def execMul (g : Guard) (d a b : Reg) (s : State) : Out := .next (regOp g d a b (fun a b => a * b) s)
/-- MULH: the upper half of the unsigned product (R119). -/
def execMulh (g : Guard) (d a b : Reg) (s : State) : Out :=
  .next (regOp g d a b (fun a b => w64 (a.toNat * b.toNat / 2 ^ 64)) s)
/-- MULHS: the upper half of the signed product (R119). -/
def execMulhs (g : Guard) (d a b : Reg) (s : State) : Out :=
  .next (regOp g d a b (fun a b => BitVec.ofInt 64 (a.toInt * b.toInt / 2 ^ 64)) s)

/-- A division, which traps with cause 0x11 where the divisor is zero (R120). -/
def divOp (g : Guard) (d a b : Reg) (f : W64 → W64 → W64) (s : State) : State :=
  s.issueLine g [d, a, b] (fun l =>
    if l.reg b = 0 then .error (0x11, 0) else .ok (l.setReg d (f (l.reg a) (l.reg b))).advance)

/-- DIV (R119). -/
def execDiv (g : Guard) (d a b : Reg) (s : State) : Out := .next (divOp g d a b (fun a b => a / b) s)
/-- DIVS: towards zero; the most negative number by -1 is itself (R119, R120). -/
def execDivs (g : Guard) (d a b : Reg) (s : State) : Out := .next (divOp g d a b (fun a b => a.sdiv b) s)
/-- REM (R119). -/
def execRem (g : Guard) (d a b : Reg) (s : State) : Out := .next (divOp g d a b (fun a b => a % b) s)
/-- REMS: the sign of a (R119, R120). -/
def execRems (g : Guard) (d a b : Reg) (s : State) : Out := .next (divOp g d a b (fun a b => a.srem b) s)

/-! ## Bit fields (R121, R122) -/

/-- Trailing zero bits of a number below 2^n; n where it is zero. -/
def trailingZeros (v : Nat) : Nat → Nat
  | 0 => 0
  | n + 1 => if v % 2 = 1 then 0 else trailingZeros (v / 2) n + 1
/-- One bits among the low n of a number. -/
def oneBits (v : Nat) : Nat → Nat
  | 0 => 0
  | n + 1 => v % 2 + oneBits (v / 2) n

/-- CLZ (R121). -/
def execClz (g : Guard) (d a : Reg) (s : State) : Out :=
  .next (regOp1 g d a (fun a => w64 (64 - bitLen a.toNat)) s)
/-- CTZ (R121). -/
def execCtz (g : Guard) (d a : Reg) (s : State) : Out :=
  .next (regOp1 g d a (fun a => w64 (trailingZeros a.toNat 64)) s)
/-- POPC (R121). -/
def execPopc (g : Guard) (d a : Reg) (s : State) : Out :=
  .next (regOp1 g d a (fun a => w64 (oneBits a.toNat 64)) s)
/-- BSWAP (R121). -/
def execBswap (g : Guard) (d a : Reg) (s : State) : Out :=
  .next (regOp1 g d a (fun a => w64 (ofBytes (bytesOf a.toNat 8).reverse)) s)

/-- Position of a field descriptor (R122). -/
def fieldPos (b : W64) : Nat := bits b 8 6
/-- Mask of a field descriptor's length, at most 64 bits (R122). -/
def fieldMask (b : W64) : Nat := 2 ^ (min (bits b 0 7) 64) - 1

/-- BEXT (R122). -/
def execBext (g : Guard) (d a b : Reg) (s : State) : Out :=
  .next (regOp g d a b (fun a b => (a >>> fieldPos b) &&& w64 (fieldMask b)) s)
/-- BINS (R122): also reads gd. -/
def execBins (g : Guard) (d a b : Reg) (s : State) : Out :=
  .next (s.issueReg g [d, a, b] d (fun l =>
    let b := l.reg b
    let m := w64 (fieldMask b)
    (l.reg d &&& ~~~(m <<< fieldPos b)) ||| ((l.reg a &&& m) <<< fieldPos b)))

end Sys2Proof.Machine
end

