-- ==== Sys2Proof/Machine/Vector.lean ====
section
/-! DEFINITION. Short-vector integer, float, conversion and permute instructions (R123-R138). -/

namespace Sys2Proof.Machine

/-! ## Short-vector integer (R123-R126) -/

/-- A lane as an integer, signed or unsigned. -/
def laneInt (x : W64) (w i : Nat) (sg : Bool) : Int := if sg then slane x w i else (lane x w i : Int)
/-- A lane-wise operation on integers, each result taken modulo 2^w (R124). -/
def vecOp (g : Guard) (d a b : Reg) (h : Shape) (sg : Bool) (f : Int → Int → Int) (s : State) : State :=
  regOp g d a b (fun a b =>
    ofLanes h.width h.lanes (fun i => patOf h.width (f (laneInt a h.width i sg) (laneInt b h.width i sg)))) s
/-- An integer saturated to a lane's range (R124). -/
def saturate (w : Nat) (sg : Bool) (x : Int) : Int :=
  if sg then clampInt (-(2 ^ (w - 1))) (2 ^ (w - 1) - 1) x else clampInt 0 (2 ^ w - 1) x

/-- VADD (R124). -/
def execVadd (g : Guard) (d a b : Reg) (h : Shape) (s : State) : Out :=
  .next (vecOp g d a b h false (fun a b => a + b) s)
/-- VSUB (R124). -/
def execVsub (g : Guard) (d a b : Reg) (h : Shape) (s : State) : Out :=
  .next (vecOp g d a b h false (fun a b => a - b) s)
/-- VMUL (R124). -/
def execVmul (g : Guard) (d a b : Reg) (h : Shape) (s : State) : Out :=
  .next (vecOp g d a b h false (fun a b => a * b) s)
/-- VMIN (R124). -/
def execVmin (g : Guard) (d a b : Reg) (sg : Bool) (h : Shape) (s : State) : Out :=
  .next (vecOp g d a b h sg min s)
/-- VMAX (R124). -/
def execVmax (g : Guard) (d a b : Reg) (sg : Bool) (h : Shape) (s : State) : Out :=
  .next (vecOp g d a b h sg max s)
/-- VADDS (R124). -/
def execVadds (g : Guard) (d a b : Reg) (sg : Bool) (h : Shape) (s : State) : Out :=
  .next (vecOp g d a b h sg (fun a b => saturate h.width sg (a + b)) s)
/-- VSUBS (R124). -/
def execVsubs (g : Guard) (d a b : Reg) (sg : Bool) (h : Shape) (s : State) : Out :=
  .next (vecOp g d a b h sg (fun a b => saturate h.width sg (a - b)) s)

/-- Sum of the integers f 0 to f (n - 1). -/
def sumInt (f : Nat → Int) : Nat → Int
  | 0 => 0
  | n + 1 => sumInt f n + f n

/-- VDOT (R125). -/
def execVdot (g : Guard) (d a b : Reg) (sg : Bool) (s : State) : Out :=
  .next (regOp g d a b (fun a b =>
    ofLanes 32 2 (fun j => patOf 32 (sumInt (fun i => laneInt a 8 (4 * j + i) sg * laneInt b 8 (4 * j + i) sg) 4))) s)
/-- VRED (R126). -/
def execVred (g : Guard) (d a : Reg) (sg : Bool) (h : Shape) (s : State) : Out :=
  .next (regOp1 g d a (fun a => BitVec.ofInt 64 (sumInt (fun i => laneInt a h.width i sg) h.lanes)) s)

/-! ## Float (R127-R132) -/

/-- A float instruction of every lane of a format, with its flags (R127). -/
def floatOp (g : Guard) (uses : List Reg) (d : Reg) (f : FFmt) (op : Line → Nat → Nat × Flags) (s : State) : State :=
  s.issueLine g uses (fun l =>
    let r := floatLanes f.width (64 / f.width) (op l)
    .ok ((l.setReg d r.1).addFlags r.2).advance)

/-- The value of lane i of a register. -/
def Line.fv (l : Line) (f : FFmt) (r : Reg) (i : Nat) : FV := f.format.unpack (lane (l.reg r) f.width i)

/-- FADD (R128). -/
def execFadd (g : Guard) (d a b : Reg) (f : FFmt) (s : State) : Out :=
  .next (floatOp g [d, a, b] d f (fun l i => f.format.addV l.round (l.fv f a i) (l.fv f b i)) s)
/-- FSUB (R128). -/
def execFsub (g : Guard) (d a b : Reg) (f : FFmt) (s : State) : Out :=
  .next (floatOp g [d, a, b] d f (fun l i => f.format.addV l.round (l.fv f a i) (l.fv f b i).neg) s)
/-- FMUL (R128). -/
def execFmul (g : Guard) (d a b : Reg) (f : FFmt) (s : State) : Out :=
  .next (floatOp g [d, a, b] d f (fun l i => f.format.mulV l.round (l.fv f a i) (l.fv f b i)) s)
/-- FMIN (R129). -/
def execFmin (g : Guard) (d a b : Reg) (f : FFmt) (s : State) : Out :=
  .next (floatOp g [d, a, b] d f (fun l i => f.format.minMax false (lane (l.reg a) f.width i) (lane (l.reg b) f.width i)) s)
/-- FMAX (R129). -/
def execFmax (g : Guard) (d a b : Reg) (f : FFmt) (s : State) : Out :=
  .next (floatOp g [d, a, b] d f (fun l i => f.format.minMax true (lane (l.reg a) f.width i) (lane (l.reg b) f.width i)) s)

/-- A pattern with its sign bit given; a NaN becomes the canonical one, without a flag (R84, R130). -/
def withSign (f : FFormat) (p : Nat) (neg : Bool) : Nat × Flags :=
  if (f.unpack p).isNan then (f.qnan, .none) else (f.signed neg (p % 2 ^ (f.ebits + f.fbits)), .none)

/-- FABS (R130). -/
def execFabs (g : Guard) (d a : Reg) (f : FFmt) (s : State) : Out :=
  .next (floatOp g [d, a] d f (fun l i => withSign f.format (lane (l.reg a) f.width i) false) s)
/-- FNEG (R130). -/
def execFneg (g : Guard) (d a : Reg) (f : FFmt) (s : State) : Out :=
  .next (floatOp g [d, a] d f (fun l i => withSign f.format (lane (l.reg a) f.width i) (!(l.fv f a i).sign)) s)
/-- FDIV (R128). -/
def execFdiv (g : Guard) (d a b : Reg) (f : FFmt) (s : State) : Out :=
  .next (floatOp g [d, a, b] d f (fun l i => f.format.divV l.round (l.fv f a i) (l.fv f b i)) s)
/-- FSQRT (R128). -/
def execFsqrt (g : Guard) (d a : Reg) (f : FFmt) (s : State) : Out :=
  .next (floatOp g [d, a] d f (fun l i => f.format.sqrtV l.round (l.fv f a i)) s)
/-- FFMA: gd is read and written (R131). -/
def execFfma (g : Guard) (d a b : Reg) (f : FFmt) (s : State) : Out :=
  .next (floatOp g [d, a, b] d f (fun l i => f.format.fmaV l.round (l.fv f a i) (l.fv f b i) (l.fv f d i)) s)
/-- FRCP: FDIV with dividend 1.0 (R132). -/
def execFrcp (g : Guard) (d a : Reg) (f : FFmt) (s : State) : Out :=
  .next (floatOp g [d, a] d f (fun l i => f.format.divV l.round (.fin false 1 0) (l.fv f a i)) s)
/-- FEXP2 (R132). -/
def execFexp2 (g : Guard) (d a : Reg) (f : FFmt) (s : State) : Out :=
  .next (floatOp g [d, a] d f (fun l i => f.format.exp2V l.round (l.fv f a i)) s)
/-- FLOG2 (R132). -/
def execFlog2 (g : Guard) (d a : Reg) (f : FFmt) (s : State) : Out :=
  .next (floatOp g [d, a] d f (fun l i => f.format.log2V l.round (l.fv f a i)) s)

/-! ## Conversions (R133, R134) -/

/-- One lane converted (R96, R97). -/
def cvtLane (mode : Round) (dst src : CFmt) (p : Nat) : Nat × Flags :=
  match dst.float, src.float with
  | some fd, some fs => fd.convert mode (fs.unpack p)
  | none, some fs => toInt mode dst.width (fs.unpack p)
  | some fd, none => fd.ofInt mode (signed src.width p)
  | none, none =>
    (patOf dst.width (clampInt (-(2 ^ (dst.width - 1))) (2 ^ (dst.width - 1) - 1) (signed src.width p)), .none)

/-- CVT (R133): 64 / W lanes, W the wider format's width, the bits above them zero. -/
def execCvt (g : Guard) (d a : Reg) (dst src : CFmt) (s : State) : Out :=
  .next (s.issueLine g [d, a] (fun l =>
    let r := floatLanes dst.width (64 / max dst.width src.width)
      (fun i => cvtLane l.round dst src (lane (l.reg a) src.width i))
    .ok ((l.setReg d r.1).addFlags r.2).advance))

/-! ## Permutes (R135-R138) -/

/-- VSHUF (R136). -/
def execVshuf (g : Guard) (d a b : Reg) (h : Shape) (s : State) : Out :=
  .next (regOp g d a b (fun a b => ofLanes h.width h.lanes (fun i =>
    if lane b 8 i < h.lanes then lane a h.width (lane b 8 i) else 0)) s)
/-- VPACK of two doublewords (R137). -/
def vpack (w n : Nat) (a b : W64) : W64 :=
  ofLanes (w / 2) (2 * n) (fun i => if i < n then lane a w i else lane b w (i - n))
/-- VPACK (R137). -/
def execVpack (g : Guard) (d a b : Reg) (h : Shape) (s : State) : Out :=
  .next (regOp g d a b (vpack h.width h.lanes) s)
/-- VBCAST (R138). -/
def execVbcast (g : Guard) (d a : Reg) (h : Shape) (s : State) : Out :=
  .next (regOp1 g d a (fun a => ofLanes h.width h.lanes (fun _ => lane a h.width 0)) s)

end Sys2Proof.Machine
end

