-- ==== Sys2Proof/Machine/TileMath.lean ====
section
/-! DEFINITION. Arithmetic on tile elements: conversions, elementwise operations, reductions, quantisation, matrix sums and
the exponentials of attention (R86-R90, R96-R104, R148-R158, R178-R181). -/

namespace Sys2Proof.Machine

/-! ## Elements -/

/-- The conversion format of FMT 0 to 5 (R35, R133). -/
def tileCFmt (fmt : Nat) : CFmt :=
  match fmt with
  | 0 => .f32 | 1 => .bf | 2 => .h | 3 => .i32 | 4 => .i16 | _ => .i8
/-- Whether a FMT is float. -/
def floatFmt (fmt : Nat) : Bool := decide (fmt ≤ 2)
/-- A float element's value. -/
def elemFV (fmt p : Nat) : FV := match (tileCFmt fmt).float with | some f => f.unpack p | none => .nan false
/-- An integer element's value. -/
def elemInt (fmt p : Nat) : Int := signed (fmtBits fmt) p
/-- An element converted (R96, R97); equal formats copy the bits, a NaN's too (R152; DEDUCED for ACC.ST and ACC.LD, log 92). -/
def convElem (mode : Round) (dst src p : Nat) : Nat :=
  if dst = src then p else (cvtLane mode (tileCFmt dst) (tileCFmt src) p).1
/-- An integer saturated to a format. -/
def satElem (dst : Nat) (x : Int) : Nat :=
  patOf (fmtBits dst) (clampInt (-(2 ^ (fmtBits dst - 1))) (2 ^ (fmtBits dst - 1) - 1) x)

/-! ## Elementwise (R148-R150) -/

/-- One element of TADD, TSUB, TMUL or TMAX (R148). -/
def TBin.elem (o : TBin) (mode : Round) (fd fa fb x y : Nat) : Nat :=
  match (tileCFmt fd).float with
  | some f =>
    let a := elemFV fa x
    let b := elemFV fb y
    match o with
    | .add => (f.addV mode a b).1
    | .sub => (f.addV mode a b.neg).1
    | .mul => (f.mulV mode a b).1
    | .max => convElem mode fd 0 (fp32.minMax true (convElem .rne 0 fa x) (convElem .rne 0 fb y)).1
  | none =>
    let a := elemInt fa x
    let b := elemInt fb y
    satElem fd (match o with | .add => a + b | .sub => a - b | .mul => a * b | .max => if a < b then b else a)

/-- The float format of a FMT 0 to 2. -/
def floatOf (fmt : Nat) : FFormat := ((tileCFmt fmt).float).getD fp32

/-! ## Reductions (R151) -/

/-- The left fold of FP32 terms: sums by RNE, or maxima by R129. -/
def foldTerms (mx : Bool) : List Nat → Nat
  | [] => 0
  | t :: m => m.foldl (fun a x => if mx then (fp32.minMax true a x).1 else addRne a x) t

/-- The value that one line of a tile reduces to, in hd's format (R151).  first is hd's own element under .acc. -/
def reduceLine (mx : Bool) (mode : Round) (fd fa : Nat) (first : Option Nat) (xs : List Nat) : Nat :=
  if floatFmt fd then
    let terms := (match first with | some p => [convElem .rne 0 fd p] | none => []) ++ xs.map (convElem .rne 0 fa)
    convElem (if mx then mode else .rne) fd 0 (foldTerms mx terms)
  else
    let terms := (match first with | some p => [elemInt fd p] | none => []) ++ xs.map (elemInt fa)
    satElem fd (if mx then (match terms with | [] => 0 | t :: m => m.foldl max t)
      else signed 32 (patOf 32 (terms.foldl (· + ·) 0)))

/-! ## Quantisation (R88-R90, R155, R156) -/

/-- The scale of a scale/zero word. -/
def szScale (w : Nat) : FV := fp16.unpack (w % 65536)
/-- The zero point of a scale/zero word, for an INT8 or an INT4 group (R88). -/
def szZero (int8 : Bool) (w : Nat) : Int := if int8 then signed 8 (natBits w 16 8) else (natBits w 16 4 : Int)
/-- The stored value of a grouped element (R87). -/
def groupedInt (int8 : Bool) (p : Nat) : Int := if int8 then signed 8 p else (p % 16 : Int)
/-- The pattern of a grouped element. -/
def groupedPat (int8 : Bool) (x : Int) : Nat := if int8 then patOf 8 x else patOf 4 x

/-- Quantisation (R90). -/
def quantElem (mode : Round) (int8 : Bool) (scale : FV) (zero : Int) (x : FV) : Nat :=
  let lo : Int := if int8 then -128 else 0
  let hi : Int := if int8 then 127 else 15
  groupedPat int8 (match scale with
    | .fin false ms es =>
      if ms = 0 then zero
      else match x with
        | .nan _ => zero
        | .inf s => if s then lo else hi
        | .fin s m e =>
          let d := e - es
          let num := if 0 ≤ d then m * 2 ^ d.toNat else m
          let den := if 0 ≤ d then ms else ms * 2 ^ (-d).toNat
          clampInt lo hi (signedMag s (roundRat mode s num den).1 + zero)
    | _ => zero)

/-- Dequantisation into a float format (R89).  Where the value is zero R89 gives no sign; the model takes that of the scale times +0
(DESIGN CHOICE, log 78). -/
def dequantElem (mode : Round) (f : FFormat) (int8 : Bool) (sz q : Nat) : Nat :=
  let d := groupedInt int8 q - szZero int8 sz
  (f.mulV mode (szScale sz) (.fin (decide (d < 0)) d.natAbs 0)).1

/-- The lesser or greater of two finite values, as an integer and an exponent. -/
def extreme (mx : Bool) (a : Int × Int) (b : FV) : Int × Int :=
  match b with
  | .fin s m e =>
    let r := addExact a.1 a.2 (-(signedMag s m)) e
    if (if mx then decide (r.1 < 0) else decide (0 < r.1)) then (signedMag s m, e) else a
  | _ => a

/-- The parameters of a column under TQ.AUTO: the low 24 bits of its scale/zero word (R156). -/
def autoParams (int8 : Bool) (xs : List FV) : Nat :=
  let lo := xs.foldl (extreme false) (0, 0)
  let hi := xs.foldl (extreme true) (0, 0)
  let span := addExact hi.1 hi.2 (-lo.1) lo.2
  let p := (fp16.divV .rne (.fin false span.1.natAbs span.2) (.fin false (if int8 then 255 else 15) 0)).1
  let scale := if p = 0 then 0x3C00 else if p = fp16.inf then 0x7BFF else p
  let q := match fp16.unpack scale with
    | .fin _ ms es =>
      let d := lo.2 - es
      (roundRat .rne false (if 0 ≤ d then lo.1.natAbs * 2 ^ d.toNat else lo.1.natAbs)
        (if 0 ≤ d then ms else ms * 2 ^ (-d).toNat)).1
    | _ => 0
  let zero := if int8 then clampInt (-128) 127 ((q : Int) - 128) else clampInt 0 15 q
  (if int8 then patOf 8 zero else patOf 4 zero) * 65536 + scale

/-! ## Matrix sums (R98-R101, R158) -/

/-- A float matrix element: the products and the accumulator's value, if it takes part, summed exactly and rounded once
(R98, R99). -/
def floatDot (acc : Option FV) (ps : List (FV × FV)) : Nat :=
  let sum : FSum := ps.foldl (fun t p => t.add (p.1.mul p.2)) FSum.start
  (match acc with | some a => sum.add a | none => sum).round

/-- A group term: scale times an exact integer; a zero term has the sign of scale times +0 (R101, R158). -/
def groupTerm (scale : FV) (x : Int) : FV :=
  match scale with
  | .fin neg m e => if m = 0 ∨ x = 0 then .fin neg 0 0 else .fin (neg != decide (x < 0)) (m * x.natAbs) e
  | _ => scale.mul (.fin (decide (x < 0)) x.natAbs 0)

/-- A grouped matrix element (R101, R158). -/
def groupedDot (acc : Option FV) (terms : List FV) : Nat :=
  let sum : FSum := terms.foldl FSum.add FSum.start
  (match acc with | some a => sum.add a | none => sum).round

/-! ## Exponentials of attention (R179, R181) -/

/-- The exact difference of two values. -/
def FV.sub (a b : FV) : FV :=
  match a, b with
  | .nan _, _ => .nan false
  | _, .nan _ => .nan false
  | .inf s, .inf t => if s = t then .nan false else .inf s
  | .inf s, _ => .inf s
  | _, .inf t => .inf (!t)
  | .fin s m e, .fin t n g =>
    let r := addExact (signedMag s m) e (-(signedMag t n)) g
    .fin (decide (r.1 < 0)) r.1.natAbs r.2

/-- 2 to the power of an exact difference of FP32 values, rounded once to a format (R179). -/
def exp2Diff (f : FFormat) (x m : Nat) : Nat := (f.exp2V .rne ((fp32.unpack x).sub (fp32.unpack m))).1

/-- 2^x / d rounded once to FP32 (R181). -/
def exp2Div (x d : FV) : Nat :=
  match x with
  | .nan _ => fp32.qnan
  | .inf s => (fp32.divV .rne (if s then .fin false 0 0 else .inf false) d).1
  | .fin s m e =>
    match d with
    | .fin t n g =>
      if n = 0 then (fp32.divV .rne (.fin false 1 0) d).1
      else if m ≠ 0 ∧ (11 : Int) ≤ (bitLen m : Int) + e then (fp32.pack .rne t 1 (if s then -4000 else 4000) true).1
      else if m = 0 ∨ 0 ≤ e then (fp32.divV .rne (.fin false 1 (signedMag s m * 2 ^ e.toNat)) d).1
      else
        let k := (-e).toNat
        let i := signedMag s m / (2 ^ k : Int)
        let fr := (signedMag s m % (2 ^ k : Int)).toNat
        if fr = 0 then (fp32.divV .rne (.fin false 1 i) d).1
        else
          let w := bitLen n + 40
          let r := settle (fp32.fbits + 6)
            (fun p => ((exp2Bounds p fr k).1 * 2 ^ w / n, (exp2Bounds p fr k).2 * 2 ^ w / n + 1)) precisions
          (fp32.pack .rne t r.1 (r.2 + i - w - g) true).1
    | _ => (fp32.divV .rne (.fin false 1 0) d).1

end Sys2Proof.Machine
end

