-- ==== Sys2Proof/Machine/Tiles.lean ====
section
/-! DEFINITION. Tile operations at their issue: operand checks, memory translated for an operation, the order of operations,
and the instructions of majors 0x28 and 0x2D (R140-R156, R187). -/

namespace Sys2Proof.Machine

/-! ## Checks at issue (R141-R143, R187) -/

/-- A tile named by a register: a KIND 1 handle of a format that ok accepts, of the same shape as an earlier tile. -/
def State.tileAt (s : State) (e : Env) (r : Reg) (ok : Nat → Bool) (like : Option TileRef) : Except Stop TileRef :=
  match s.handleAt e (e.line.reg r) [1] with
  | .error x => .error x
  | .ok t =>
    if ok t.fmt && (match like with | some l => l.dim == t.dim | none => true) then .ok t
    else .error (.trap 0x0F (e.line.reg r) 0)

/-- Where a tile operation finds a translated address: one in the device's own aperture is an inbound access to itself (R392, R394), which
an access that both reads and writes makes twice. -/
def State.spanHome (s : State) (tenant acc pa : Nat) : Except Byte Nat :=
  match peerOf pa with
  | some (d, off) =>
    if d ≠ s.device then .ok pa
    else match (if acc = accWrite then none else s.inbound tenant off false), (if acc = accRead then none else s.inbound tenant off true) with
      | some c, _ => .error c
      | none, some c => .error c
      | none, none => .ok off
  | none => .ok pa

/-- A stretch of memory translated page by page (R143); fuel bounds the number of 64 KiB pieces.  A page that has MOVED is used where it
was (DEDUCED, log 95). -/
def State.spansAt (s : State) (u tenant acc : Nat) : Nat → Nat → Nat → Except (XFail × Nat) (List Span)
  | 0, _, _ => .ok []
  | fuel + 1, va, n =>
    if n = 0 then .ok []
    else match s.xlate u tenant va acc with
      | .error f => .error (f, va)
      | .ok t => match s.spanHome tenant acc (t.addr va) with
        | .error c => .error (.fault c, va)
        | .ok pa =>
          let k := min n (65536 - va % 65536)
          match s.spansAt u tenant acc fuel (addVa va k) (n - k) with
          | .error f => .error f
          | .ok ms => .ok (⟨va, pa, k, s.homeAttr t pa⟩ :: ms)

/-- A stretch of memory that an instruction reads or writes. -/
def State.spans (s : State) (e : Env) (va n acc : Nat) : Except Stop (List Span) :=
  match s.spansAt e.u e.line.tenant acc 3 va n with
  | .ok ms => .ok ms
  | .error (f, va') => .error (f.stop va' acc e.line.tenant)

/-- The bytes of a stretch as memory holds them, or the VA and cause of the first block that fails (R365). -/
def State.readSpans (s : State) : List Span → State × Except (Nat × Byte) (List Byte)
  | [] => (s, .ok [])
  | m :: ms =>
    let bad := (List.range ((m.pa + m.len - 1) / 64 - m.pa / 64 + 1)).foldl
      (fun (acc : State × Option (Nat × Byte)) i => match acc.2 with
        | some _ => acc
        | none => match acc.1.verify ((m.pa / 64 + i) * 64) m.attr.kslot with
          | (s1, some c) => (s1, some (addVa m.va ((m.pa / 64 + i) * 64 - m.pa), c))
          | (s1, none) => (s1, none)) (s, none)
    match bad with
    | (s1, some b) => (s1, .error b)
    | (s1, none) =>
      match s1.readSpans ms with
      | (s2, .error b) => (s2, .error b)
      | (s2, .ok bs) => (s2, .ok (Memory.readN s2.mem m.pa m.len ++ bs))

/-- The hint of accesses that carry none. -/
def plainHint : Hint := ⟨0, false⟩

/-- The blocks of 64 bytes that a stretch meets, at most fuel of them. -/
def Span.blocksN (m : Span) : Nat → List Span
  | 0 => []
  | fuel + 1 =>
    let k := min m.len (64 - m.pa % 64)
    if m.len = 0 then []
    else { m with len := k } :: Span.blocksN { m with va := addVa m.va k, pa := m.pa + k, len := m.len - k } fuel
/-- The blocks of 64 bytes that a stretch meets. -/
def Span.blocks (m : Span) : List Span := m.blocksN (m.len / 64 + 2)

/-- The arrival at its home of a write of one block (R215); id numbers the operation, u is the unit that an arrival record names. -/
def State.arriveBlock (s : State) (kind u id : Nat) (m : Span) : Admit :=
  s.arrive (.slice (s.homeNow m.attr m.pa)) (m.attr.trace && isStack m.pa) m.attr.kslot
    ⟨kind, s.device, u, m.attr.tenant, m.pa, m.len⟩ id

/-- Bytes of one block written at their home for a unit (R214, R364). -/
def State.storeSpan (s : State) (u : Nat) (m : Span) (bs : List Byte) : State × Option Byte :=
  let r := s.homeStore (s.homeNow m.attr m.pa) m.attr plainHint (cellsAt m.pa bs)
  (r.1.dropClean u m.pa m.len, r.2)

/-- Bytes written over blocks at their homes, one arrival after another (R215, R364): the state, what is left where a port holds an
arrival (R220), and the VA and cause of the first block that failed. -/
def State.sendBlocks (s : State) (kind u id : Nat) (bad : Option (Nat × Byte)) :
    List Span → List Byte → State × List Span × Option (Nat × Byte)
  | [], _ => (s, [], bad)
  | m :: ms, bs =>
    match s.arriveBlock kind u id m with
    | .hold s1 => (s1, m :: ms, bad)
    | .perform s1 =>
      let r := s1.storeSpan u m (bs.take m.len)
      let bad1 := match bad, r.2 with | some b, _ => some b | none, some c => some (m.va, c) | none, none => none
      r.1.sendBlocks kind u id bad1 ms (bs.drop m.len)

/-- The arrivals of blocks that one atomic update writes (R181): all pass, or one is held and none has passed. -/
def State.admitAll (s : State) (kind u id : Nat) (ms : List Span) : Admit :=
  s.admitList id (ms.map (fun m => (.slice (s.homeNow m.attr m.pa), m.attr.trace && isStack m.pa, m.attr.kslot,
    ⟨kind, s.device, u, m.attr.tenant, m.pa, m.len⟩)))

/-- The blocks of one atomic update written, once their arrivals have passed: the state, and the cause of a block that failed. -/
def State.storeAll (s : State) (u : Nat) : List Span → List Byte → State × Option Byte
  | [], _ => (s, none)
  | m :: ms, bs => match s.storeSpan u m (bs.take m.len) with
    | (s1, some c) => (s1, some c)
    | (s1, none) => s1.storeAll u ms (bs.drop m.len)

/-- A tile operation issued (R143): TILES up, CTX.PC on, and gd pending where it delivers a value.  An operation that reads
or writes memory sees every earlier store of the strand, so the unit's dirty lines are written back (R145).  pairs are the entries
of the grouped pairs that it names (R38). -/
def State.submit (s : State) (e : Env) (k : TileKind) (pend : Option Reg) (usesMem : Bool) (hs : List W64)
    (pairs : List Nat := []) : Except Stop State :=
  if 63 ≤ e.line.tiles then .error (.waste (.counters fullTiles))
  else
    let l0 := match pend with | some r => e.line.setPend r | none => e.line
    let s1 := s.setCtx e.va ⟨{ l0 with tiles := l0.tiles + 1 }.advance, e.book⟩
    let s2 := hs.foldl (fun s h => s.touchHandle e h) s1
    let s3 := if usesMem then s2.release e.u none else s2
    .ok { s3 with
      tileOps := s3.tileOps ++ [⟨s3.nextId, e.va, e.u, e.slot, e.line.tenant, e.line.round, k, pairs⟩]
      nextId := s3.nextId + 1 }

/-! ## Order of the operations of a context (R144) -/

/-- What an operation touches: tile bytes as (first, length), the accumulator, and page records. -/
structure Touches where
  tiles : List (Nat × Nat)
  acc : Bool
  pages : Bool
  deriving DecidableEq, Repr

/-- The bytes of a tile in the scratchpads. -/
def TileRef.bytes (t : TileRef) : Nat × Nat := (t.base 0, tileBytes t.fmt t.dim)

/-- The tiles that an operation names. -/
def TileKind.tiles : TileKind → List TileRef
  | .bin _ d a b => [d, a, b]
  | .scale d a _ => [d, a]
  | .rdiv d a b => [d, a, b]
  | .exp d a => [d, a]
  | .reduce _ _ _ d a => [d, a]
  | .cvt d a => [d, a]
  | .trans d a => [d, a]
  | .fill d _ => [d]
  | .get _ a _ => [a]
  | .set a _ _ => [a]
  | .quant _ d z a => [d, z, a]
  | .dequant d a z => [d, a, z]
  | .mma _ _ _ as bs szs => as ++ bs ++ szs
  | .accSt d _ _ => [d]
  | .accLd a _ => [a]
  | .attnQk q _ _ => q
  | .attnSm st g _ _ => st ++ [g]
  | .attnPv o st _ _ => o ++ st
  | .attnClose g st _ _ => g :: st
  | .ringStat _ r => [r]
  | .hndFree h => [h]
  | .accStRaw _ | .accLdRaw _ | .accZ | .hndNew _ _ | .hndInfo _ _ | .kvMap _ _ _ | .kvMass _ _ _ => []

/-- What an operation touches (R144). -/
def TileKind.touches (k : TileKind) : Touches where
  tiles := match k with
    | .ringStat _ _ | .hndFree _ => []
    | k => k.tiles.map TileRef.bytes
  acc := match k with
    | .mma _ _ _ _ _ _ | .accSt _ _ _ | .accStRaw _ | .accLd _ _ | .accLdRaw _ | .accZ | .attnQk _ _ _ | .attnSm _ _ _ _ => true
    | _ => false
  pages := match k with
    | .attnQk _ _ _ | .attnPv _ _ _ _ | .attnClose _ _ _ _ | .kvMap _ _ _ | .kvMass _ _ _ => true
    | _ => false

/-- Whether two stretches of bytes meet. -/
def overlap (a b : Nat × Nat) : Bool := decide (a.1 < b.1 + b.2) && decide (b.1 < a.1 + a.2)

/-- Whether two operations touch something in common: the accumulator of one IU, a page record, or tile elements, taken by
whole tiles. -/
def TileOp.meets (a b : TileOp) : Bool :=
  let x := a.kind.touches
  let y := b.kind.touches
  (x.acc && y.acc && a.unit == b.unit) || (x.pages && y.pages) || x.tiles.any (fun t => y.tiles.any (overlap t))

/-- Whether an operation is one that the tile vector unit takes (R154). -/
def TileKind.vector : TileKind → Bool
  | .bin _ _ _ _ | .scale _ _ _ | .rdiv _ _ _ | .exp _ _ | .reduce _ _ _ _ _ | .cvt _ _ | .trans _ _ | .fill _ _ | .get _ _ _
  | .set _ _ _ | .quant _ _ _ _ | .dequant _ _ _ => true
  | _ => false

/-- Whether an operation waits for an earlier one: of its context, with something in common (R144), or of its IU's tile vector unit,
which takes its operations in order of issue (R154). -/
def State.tileBlocked (s : State) (op : TileOp) : Bool :=
  s.tileOps.any (fun o => decide (o.id < op.id) &&
    ((o.ctx == op.ctx && o.meets op) || (o.unit == op.unit && o.kind.vector && op.kind.vector)))

/-- Whether the stores of a strand that precede an operation are performed (R145). -/
def State.storesBefore (s : State) (op : TileOp) : Bool :=
  s.released op.unit op.id &&
  s.wire.all (fun m => decide (op.id < m.1) || (match m.2 with
    | .sync rq => rq.ctx != op.ctx
    | _ => true))

/-! ## Major 0x28 (R147-R153) -/

/-- FMT 0 to 5. -/
def numFmt (f : Nat) : Bool := decide (f ≤ 5)
/-- Any FMT. -/
def anyFmt (_ : Nat) : Bool := true

/-- TADD, TSUB, TMUL and TMAX (R148): tiles of one shape, all float or all integer. -/
def binBody (o : TBin) (d a b : Reg) (e : Env) (s : State) : Except Stop State := do
  let td ← s.tileAt e d numFmt none
  let ta ← s.tileAt e a numFmt (some td)
  let tb ← s.tileAt e b numFmt (some td)
  if floatFmt td.fmt = floatFmt ta.fmt ∧ floatFmt ta.fmt = floatFmt tb.fmt then
    s.submit e (.bin o td ta tb) none false [td.handle, ta.handle, tb.handle]
  else .error (.trap 0x0F (e.line.reg b) 0)

/-- TADD (R148). -/
def execTadd (g : Guard) (d a b : Reg) (s : State) : Out := .next (s.issueWith g false false [d, a, b] (binBody .add d a b))
/-- TSUB (R148). -/
def execTsub (g : Guard) (d a b : Reg) (s : State) : Out := .next (s.issueWith g false false [d, a, b] (binBody .sub d a b))
/-- TMUL (R148). -/
def execTmul (g : Guard) (d a b : Reg) (s : State) : Out := .next (s.issueWith g false false [d, a, b] (binBody .mul d a b))
/-- TMAX (R148). -/
def execTmax (g : Guard) (d a b : Reg) (s : State) : Out := .next (s.issueWith g false false [d, a, b] (binBody .max d a b))

/-- TSCALE (R149): hb holds the pair s and t. -/
def execTscale (g : Guard) (d a b : Reg) (s : State) : Out :=
  .next (s.issueWith g false false [d, a, b] (fun e s => do
    let td ← s.tileAt e d floatFmt none
    let ta ← s.tileAt e a floatFmt (some td)
    s.submit e (.scale td ta (e.line.reg b)) none false [td.handle, ta.handle]))
/-- TSCALE.RDIV (R149): the divisor tile is FP32. -/
def execTscaleRdiv (g : Guard) (d a b : Reg) (s : State) : Out :=
  .next (s.issueWith g false false [d, a, b] (fun e s => do
    let td ← s.tileAt e d floatFmt none
    let ta ← s.tileAt e a floatFmt (some td)
    let tb ← s.tileAt e b (fun f => f == 0) (some td)
    s.submit e (.rdiv td ta tb) none false [td.handle, ta.handle, tb.handle]))
/-- TEXP (R150). -/
def execTexp (g : Guard) (d a : Reg) (s : State) : Out :=
  .next (s.issueWith g false false [d, a] (fun e s => do
    let td ← s.tileAt e d floatFmt none
    let ta ← s.tileAt e a floatFmt (some td)
    s.submit e (.exp td ta) none false [td.handle, ta.handle]))

/-- TRSUM and TRMAX (R151): float and integer tiles are not mixed. -/
def reduceBody (mx acc col : Bool) (d a : Reg) (e : Env) (s : State) : Except Stop State := do
  let td ← s.tileAt e d numFmt none
  let ta ← s.tileAt e a numFmt (some td)
  if floatFmt td.fmt = floatFmt ta.fmt then
    s.submit e (.reduce mx acc col td ta) none false [td.handle, ta.handle]
  else .error (.trap 0x0F (e.line.reg a) 0)
/-- TRSUM (R151). -/
def execTrsum (g : Guard) (d a : Reg) (acc col : Bool) (s : State) : Out :=
  .next (s.issueWith g false false [d, a] (reduceBody false acc col d a))
/-- TRMAX (R151). -/
def execTrmax (g : Guard) (d a : Reg) (acc col : Bool) (s : State) : Out :=
  .next (s.issueWith g false false [d, a] (reduceBody true acc col d a))

/-- TCVT (R152). -/
def execTcvt (g : Guard) (d a : Reg) (s : State) : Out :=
  .next (s.issueWith g false false [d, a] (fun e s => do
    let td ← s.tileAt e d numFmt none
    let ta ← s.tileAt e a numFmt (some td)
    s.submit e (.cvt td ta) none false [td.handle, ta.handle]))
/-- TTRANS (R152): one FMT, one of 0 to 5 or 8. -/
def execTtrans (g : Guard) (d a : Reg) (s : State) : Out :=
  .next (s.issueWith g false false [d, a] (fun e s => do
    let td ← s.tileAt e d (fun f => numFmt f || f == 8) none
    let ta ← s.tileAt e a (fun f => f == td.fmt) (some td)
    s.submit e (.trans td ta) none false [td.handle, ta.handle]))
/-- TFILL (R152). -/
def execTfill (g : Guard) (d a : Reg) (s : State) : Out :=
  .next (s.issueWith g false false [d, a] (fun e s => do
    let td ← s.tileAt e d anyFmt none
    s.submit e (.fill td (e.line.reg a)) none false [td.handle]))
/-- Doublewords of a tile (R153). -/
def TileRef.words (t : TileRef) : Nat := tileBytes t.fmt t.dim / 8
/-- TGET (R153). -/
def execTget (g : Guard) (d a b : Reg) (s : State) : Out :=
  .next (s.issueWith g false false [d, a, b] (fun e s => do
    let ta ← s.tileAt e a anyFmt none
    s.submit e (.get d ta ((e.line.reg b).toNat % ta.words)) (some d) false [ta.handle]))
/-- TSET: gs, written in the d field, is the value (R153). -/
def execTset (g : Guard) (d a b : Reg) (s : State) : Out :=
  .next (s.issueWith g false false [d, a, b] (fun e s => do
    let ta ← s.tileAt e a anyFmt none
    s.submit e (.set ta ((e.line.reg b).toNat % ta.words) (e.line.reg d)) none false [ta.handle]))

/-! ## Major 0x2D (R155, R156) -/

/-- TQ and TQ.AUTO (R155, R156). -/
def quantBody (auto : Bool) (d a : Reg) (e : Env) (s : State) : Except Stop State := do
  let p ← s.handleAt e (e.line.reg d) [3]
  let (td, tz) ← s.pairOf e p
  let ta ← s.tileAt e a floatFmt (some td)
  s.submit e (.quant auto td tz ta) none false [p.handle, ta.handle] [p.entry]
/-- TQ (R155). -/
def execTq (g : Guard) (d a : Reg) (s : State) : Out := .next (s.issueWith g false false [d, a] (quantBody false d a))
/-- TQ.AUTO (R156). -/
def execTqAuto (g : Guard) (d a : Reg) (s : State) : Out := .next (s.issueWith g false false [d, a] (quantBody true d a))
/-- TDQ (R155). -/
def execTdq (g : Guard) (d a : Reg) (s : State) : Out :=
  .next (s.issueWith g false false [d, a] (fun e s => do
    let td ← s.tileAt e d floatFmt none
    let p ← s.handleAt e (e.line.reg a) [3]
    let (ta, tz) ← s.pairOf e p
    if ta.dim = td.dim then s.submit e (.dequant td ta tz) none false [td.handle, p.handle] [p.entry]
    else .error (.trap 0x0F (e.line.reg a) 0)))

end Sys2Proof.Machine
end

