-- ==== Sys2Proof/Machine/Matrix.lean ====
section
/-! DEFINITION. The matrix unit and the accumulator: TMMA, the ACC instructions, matrix periods and steps (R157-R167). -/

namespace Sys2Proof.Machine

/-! ## The accumulator's owner and holds (R161, R166) -/

/-- Whether a context passes the owner check; a privileged one does where priv says so (R161). -/
def State.ownsAcc (s : State) (e : Env) (priv : Bool) : Bool := (s.unit e.u).accOwn == e.va || (priv && e.line.priv)
/-- The trap of the owner check (R161). -/
def State.notOwner (s : State) (e : Env) : Stop := .trap 0x0B (w64 (s.unit e.u).accOwn) 0

/-- Whether no step is latched or running (R166). -/
def Unit.matrixIdle (x : Unit) : Bool := x.latch.isEmpty && x.running.isNone

/-- What R166 does before an ACC instruction of a context: another than the owner waits until no step is latched or running,
and from then on no latch accepts a step. -/
def State.accWait (s : State) (e : Env) : Option Stop :=
  if (s.unit e.u).accOwn = e.va ∨ (s.unit e.u).matrixIdle = true then none
  else some (.park (.acc e.u) (fun s => s.modUnit e.u (fun x => { x with accHold := NatSet.insert x.accHold e.va })))

/-- The hold of a context ends when its instruction issues (R166). -/
def State.endAccHold (s : State) (e : Env) : State :=
  if (s.unit e.u).accHold.contains e.va then
    (s.modUnit e.u (fun x => { x with accHold := x.accHold.filter (fun c => c != e.va) })).wakeAcc e.u none
  else s

/-- Whether an attention instruction wastes its turn because a context holds the latches (R166). -/
def State.accHeld (s : State) (e : Env) : Bool := !(s.unit e.u).accHold.isEmpty

/-! ## TMMA (R157-R160) -/

/-- Whether the latch of a context's slot takes a step (R159, R166). -/
def State.latchFree (s : State) (e : Env) : Bool :=
  (Assoc.get (s.unit e.u).latch e.slot).isNone && !(s.accHeld e)

/-- Steps put into the latch of the slot, as the operation that submit issues next (R159, R160). -/
def State.latchSteps (s : State) (e : Env) (n : Nat) (k : TileKind) (usesMem : Bool) (hs : List W64) (pairs : List Nat := []) :
    Except Stop State :=
  if !(s.latchFree e) then .error (.waste (.acc e.u))
  else match s.submit e k none usesMem hs pairs with
    | .error x => .error x
    | .ok s1 => .ok (s1.modUnit e.u (fun x => { x with latch := Assoc.set x.latch e.slot ⟨s1.nextId - 1, n⟩ }))

/-- The class of a step and the length of its runs (R158). -/
def mmaClass (fa kindB fb : Nat) : Option (MClass × Nat) :=
  if kindB = 1 then
    if fa = 1 ∧ fb = 1 ∨ fa = 2 ∧ fb = 2 then some (.f16, 1)
    else if fa = 0 ∧ fb = 0 then some (.f32, 1)
    else if fa = 5 ∧ fb = 5 then some (.int, 2)
    else none
  else if fa = 5 ∧ fb = 6 then some (.grouped, 2)
  else if fa = 5 ∧ fb = 7 then some (.grouped, 4)
  else none

/-- A run of n grouped pairs of one data format, each entry with its two tiles before the next entry (R141, R158, R187): the data
tiles, the scale/zero tiles and the pairs' entries. -/
def State.pairRunAt (s : State) (e : Env) (h : W64) (fmt : Nat) : Nat → Except Stop (List TileRef × List TileRef × List Nat)
  | 0 => .ok ([], [], [])
  | n + 1 =>
    match s.pairRunAt e h fmt n with
    | .error x => .error x
    | .ok ts =>
      let r := if n = 0 then s.checkHandle e.u e.line.tenant h [3]
        else s.entryAt e.u e.line.tenant h (handleIndex h + n) none [3]
      match r with
      | .error f => .error (f.stop h e.line.tenant)
      | .ok p =>
        if p.dim = 32 ∧ p.fmt = fmt then
          match s.pairOf e { p with handle := h } with
          | .error x => .error x
          | .ok (d, z) => .ok (ts.1 ++ [d], ts.2.1 ++ [z], ts.2.2 ++ [p.entry])
        else .error (.trap 0x0F h 0)

/-- TMMA and TMMA.Z (R157-R161). -/
def mmaBody (z : Bool) (a b : Reg) (k : BitVec 2) (e : Env) (s : State) : Except Stop State := do
  let ha := e.line.reg a
  let hb := e.line.reg b
  if !(s.ownsAcc e false) then .error (s.notOwner e)
  else
    let a0 ← s.handleAt e ha [1]
    if a0.dim ≠ 32 then .error (.trap 0x0F ha 0)
    else
      let b0 ← s.handleAt e hb [1, 3]
      if b0.dim ≠ 32 then .error (.trap 0x0F hb 0)
      else match mmaClass a0.fmt b0.kind b0.fmt with
        | none => .error (.trap 0x0F hb 0)
        | some (cls, n) =>
          if k ≠ 0 ∧ cls ≠ .f32 then .error (.trap 0x0F ha 0)
          else
            let as ← s.runAt e ha [1] (fun _ t => t.dim == 32 && t.fmt == a0.fmt) n
            if cls = .grouped then
              let (ds, zs, ps) ← s.pairRunAt e hb b0.fmt n
              s.latchSteps e 1 (.mma z cls k.toNat as ds zs) false [ha, hb] ps
            else
              let bs ← s.runAt e hb [b0.kind] (fun _ t => t.dim == 32 && t.fmt == b0.fmt) n
              s.latchSteps e 1 (.mma z cls k.toNat as bs []) false [ha, hb]

/-- TMMA (R158). -/
def execTmma (g : Guard) (a b : Reg) (k : BitVec 2) (s : State) : Out :=
  .next (s.issueWith g false false [a, b] (mmaBody false a b k))
/-- TMMA.Z (R158). -/
def execTmmaZ (g : Guard) (a b : Reg) (k : BitVec 2) (s : State) : Out :=
  .next (s.issueWith g false false [a, b] (mmaBody true a b k))

/-! ## The ACC instructions (R161-R166) -/

/-- An ACC operation once its operands are checked (R166): the wait, the hold's end, the issue. -/
def State.accSubmit (s : State) (e : Env) (k : TileKind) (usesMem : Bool) (hs : List W64) : Except Stop State :=
  match s.accWait e with
  | some x => .error x
  | none => (s.endAccHold e).submit e k none usesMem hs

/-- A quadrant's tile (R162): FMT 0 to 5, and quadrant 0 for a 32x32 tile. -/
def State.quadTile (s : State) (e : Env) (r : Reg) (q : BitVec 2) : Except Stop TileRef :=
  match s.tileAt e r numFmt none with
  | .error x => .error x
  | .ok t => if t.dim = 32 ∧ q ≠ 0 then .error (.trap 0x0F (e.line.reg r) 0) else .ok t

/-- The 4,096 bytes of a raw form (R164). -/
def State.rawSpans (s : State) (e : Env) (v : W64) (acc : Nat) : Except Stop (List Span) :=
  if va56 v % 64 ≠ 0 then .error (.trap 0x03 (w64 (va56 v)) 0) else s.spans e (va56 v) 4096 acc

/-- ACC.ST (R163). -/
def execAccSt (g : Guard) (d : Reg) (i : Bool) (q : BitVec 2) (s : State) : Out :=
  .next (s.issueWith g false false [d] (fun e s =>
    if !(s.ownsAcc e true) then .error (s.notOwner e)
    else match s.quadTile e d q with
      | .error x => .error x
      | .ok t => s.accSubmit e (.accSt t i q.toNat) false [t.handle]))
/-- ACC.ST.RAW (R163). -/
def execAccStRaw (g : Guard) (a : Reg) (s : State) : Out :=
  .next (s.issueWith g false false [a] (fun e s =>
    if !(s.ownsAcc e true) then .error (s.notOwner e)
    else match s.rawSpans e (e.line.reg a) accWrite with
      | .error x => .error x
      | .ok m => s.accSubmit e (.accStRaw m) true []))
/-- ACC.LD (R164). -/
def execAccLd (g : Guard) (a : Reg) (q : BitVec 2) (s : State) : Out :=
  .next (s.issueWith g false false [a] (fun e s =>
    if !(s.ownsAcc e true) then .error (s.notOwner e)
    else match s.quadTile e a q with
      | .error x => .error x
      | .ok t => s.accSubmit e (.accLd t q.toNat) false [t.handle]))
/-- ACC.LD.RAW (R164). -/
def execAccLdRaw (g : Guard) (a : Reg) (s : State) : Out :=
  .next (s.issueWith g false false [a] (fun e s =>
    if !(s.ownsAcc e true) then .error (s.notOwner e)
    else match s.rawSpans e (e.line.reg a) accRead with
      | .error x => .error x
      | .ok m => s.accSubmit e (.accLdRaw m) true []))
/-- ACC.Z (R164). -/
def execAccZ (g : Guard) (s : State) : Out :=
  .next (s.issueWith g false false [] (fun e s =>
    if !(s.ownsAcc e true) then .error (s.notOwner e) else s.accSubmit e .accZ false []))
/-- ACC.OWN (R165). -/
def execAccOwn (g : Guard) (d : Reg) (s : State) : Out :=
  .next (s.issueWith g false false [d] (fun e s =>
    .ok (s.setCtx e.va ⟨(e.line.setReg d (w64 (s.unit e.u).accOwn)).advance, e.book⟩)))
/-- Whether an operation of a context on the accumulator of a unit is still to take effect (R144). -/
def State.accPending (s : State) (e : Env) : Bool :=
  s.tileOps.any (fun o => o.ctx == e.va && o.unit == e.u && o.kind.touches.acc)

/-- ACC.OWN.SET (R165, R166).  It waits, without parking, until the operations on the accumulator that its context issued before it have
taken effect, the owner's latched steps among them (R144). -/
def execAccOwnSet (g : Guard) (a : Reg) (s : State) : Out :=
  .next (s.issueWith g true false [a] (fun e s =>
    match s.accWait e with
    | some x => .error x
    | none => if !(s.unit e.u).matrixIdle || s.accPending e then .error (.hold id) else .ok (((s.endAccHold e).modUnit e.u (fun x => { x with accOwn := va56 (e.line.reg a) })).setCtx e.va
        ⟨e.line.advance, e.book⟩)))

/-! ## Accumulator words -/

/-- Word (m, n) of a unit's accumulator. -/
def Unit.accWord (x : Unit) (m n : Nat) : Nat := ((Assoc.get x.acc (m * 32 + n)).getD 0).toNat
/-- The accumulator's words given by row and column; words of zero are not listed. -/
def accImage (f : Nat → Nat → Nat) : List (Nat × W32) :=
  (List.range 1024).filterMap (fun i =>
    let w : W32 := BitVec.ofNat 32 (f (i / 32) (i % 32))
    if w = 0 then none else some (i, w))
/-- A unit's accumulator written whole. -/
def State.setAcc (s : State) (u : Nat) (f : Nat → Nat → Nat) : State := s.modUnit u (fun x => { x with acc := accImage f })

/-! ## Steps (R158, R178, R180) -/

/-- Element (r, c) of a tile of a list. -/
def State.elemOf (s : State) (ts : List TileRef) (i r c : Nat) : Nat :=
  match ts[i]? with
  | some t => s.elem (t.base 0) t.fmt t.dim r c
  | none => 0
/-- The FMT of a tile of a list. -/
def fmtOf (ts : List TileRef) (i : Nat) : Nat := match ts[i]? with | some t => t.fmt | none => 0

/-- Element (m, n) that a TMMA leaves (R98-R101, R158). -/
def State.mmaElem (s : State) (u : Nat) (z : Bool) (cls : MClass) (k : Nat) (as bs szs : List TileRef) (m n : Nat) : Nat :=
  let acc := (s.unit u).accWord m n
  let facc := if z then none else some (fp32.unpack acc)
  match cls with
  | .f16 => floatDot facc ((List.range 32).map (fun i =>
      (elemFV (fmtOf as 0) (s.elemOf as 0 m i), elemFV (fmtOf bs 0) (s.elemOf bs 0 i n))))
  | .f32 => floatDot facc ((List.range 8).map (fun i =>
      (fp32.unpack (s.elemOf as 0 m (8 * k + i)), fp32.unpack (s.elemOf bs 0 (8 * k + i) n))))
  | .int =>
    patOf 32 ((if z then 0 else (acc : Int)) + sumInt (fun i =>
      signed 8 (s.elemOf as (i / 32) m (i % 32)) * signed 8 (s.elemOf bs (i / 32) (i % 32) n)) 64)
  | .grouped =>
    groupedDot facc ((List.range bs.length).map (fun p =>
      let int8 := fmtOf bs p == 6
      let sz := s.elemOf szs p 0 n
      groupTerm (szScale sz) (sumInt (fun i =>
        signed 8 (s.elemOf as p m i) * (groupedInt int8 (s.elemOf bs p i n) - szZero int8 sz)) 32)))

/-- BF16 element i of the bytes of a page record from an offset (R174). -/
def pageBf (bs : List Byte) (off i : Nat) : FV := bf16.unpack (ofBytes ((bs.drop (off + 2 * i)).take 2))
/-- VALID of token t of a page record's bytes (R174). -/
def pageValid (bs : List Byte) (t : Nat) : Bool := (ofBytes ((bs.drop (0x4080 + 4 * t)).take 4)).testBit 31

/-- Step b of an ATTN.QK (R178). -/
def State.qkStep (s : State) (u : Nat) (q : List TileRef) (page : List Byte) (b : Nat) : State :=
  let x := s.unit u
  s.setAcc u (fun m t =>
    if b = 3 ∧ pageValid page t = false then fp32.signed true fp32.inf
    else floatDot (if b = 0 then none else some (fp32.unpack (x.accWord m t)))
      ((List.range 32).map (fun i => (bf16.unpack (s.elemOf q b m i), pageBf page (t * 256) (32 * b + i)))))

/-- Step b of an ATTN.PV (R180): invalid rows of V read as +0. -/
def State.pvStep (s : State) (o st : List TileRef) (page : List Byte) (b : Nat) : State :=
  match o[b]? with
  | none => s
  | some ob => s.setTile ob 0 (fun q n =>
      floatDot (some ((fp32.unpack (s.elemOf st 0 q 2)).mul (fp32.unpack (s.elemOf o b q n))))
        ((List.range 32).map (fun t =>
          (bf16.unpack (s.elemOf st 1 q t),
           if pageValid page t then pageBf page (0x2000 + t * 256) (32 * b + n) else .fin false 0 0))))

/-- Step b of a latched operation, or the trap with which the operation ends where its page fails the integrity check (log 24). -/
def State.matrixStep (s : State) (op : TileOp) (b : Nat) : State × Option DTrap :=
  match op.kind with
  | .mma z cls k as bs szs => (s.setAcc op.unit (s.mmaElem op.unit z cls k as bs szs), none)
  | .attnQk q _ m => match s.readSpans m with
    | (s1, .error (va, c)) => (s1, some ⟨c, w64 va, 0, 0⟩)
    | (s1, .ok bs) => (s1.qkStep op.unit q bs b, none)
  | .attnPv o st _ m => match s.readSpans m with
    | (s1, .error (va, c)) => (s1, some ⟨c, w64 va, 0, 0⟩)
    | (s1, .ok bs) => (s1.pvStep o st bs b, none)
  | _ => (s, none)

/-- Steps of a latched operation (R160). -/
def TileKind.steps : TileKind → Nat
  | .attnQk _ _ _ | .attnPv _ _ _ _ => 4
  | _ => 1

/-- The end of a tile operation at its context's line (R143, R146): its value, PEND and TILES, on whichever device the line is. -/
def State.tileReply (s : State) (va : Nat) (out : Option (Reg × Option W64)) : State :=
  (s.forward va [5, w64 (match out with | some (r, _) => r.toNat | none => 8),
      (match out with | some (_, some v) => v | _ => 0)]).getD (s.modLine va (fun l =>
    let l1 := match out with
      | some (r, some v) => (l.setReg r v).clearPend r
      | some (r, none) => l.clearPend r
      | none => l
    { l1 with tiles := l.tiles - 1 }))

/-- An operation's end at its context's line (R143): a delivered register, a delivered trap, and TILES down by one. -/
def State.tileDone (s : State) (op : TileOp) (out : Option (Reg × Option W64)) (t : Option DTrap) : State :=
  let s2 := { s with tileOps := s.tileOps.filter (fun o => o.id != op.id) }.tileReply op.ctx out
  (match t with | some t => s2.deliverTrap op.ctx t | none => s2).wake op.ctx

/-- The tile operation of a number. -/
def State.tileOp? (s : State) (id : Nat) : Option TileOp := s.tileOps.find? (fun o => o.id == id)

/-- MATRIX_PERIOD (R159): at the start of a period the step in the latch of the slot that IU_MROT names starts, if its
operands have arrived: every earlier operation that it waits for is complete. -/
def execMatrixPeriod (u : Nat) (s : State) : Out :=
  let x := s.unit u
  if decide (1536 ≤ u) || !(s.unitUp u) || x.cycle % 16 != 0 || x.periodDone || x.running.isSome || s.faulted then
    noOccasion "MATRIX_PERIOD"
  else
    let s1 := s.modUnit u (fun x => { x with periodDone := true })
    let p := x.cycle / 16 % 16
    if rev4 p < x.level ∨ x.mrotv.getLsbD p = false then .next s1
    else match Assoc.get x.latch (rotSlot x.mrot p) with
      | none => .next s1
      | some l => match s.tileOp? l.op with
        | none => .next s1
        | some op =>
          if s.tileBlocked op || !(s.storesBefore op) then .next s1
          else
            let s2 := s1.modUnit u (fun x => { x with
              running := some (l.op, x.cycle + 16)
              step := op.kind.steps - l.left
              latch := if l.left ≤ 1 then Assoc.erase x.latch (rotSlot x.mrot p)
                else Assoc.set x.latch (rotSlot x.mrot p) ⟨l.op, l.left - 1⟩ })
            .next (if l.left ≤ 1 then s2.wakeAcc u (some (rotSlot x.mrot p)) else s2)

/-- MATRIX_STEP_COMPLETE (R159): the running step has written its result; the operation ends with its last step. -/
def execMatrixStepComplete (u : Nat) (s : State) : Out :=
  let x := s.unit u
  match x.running with
  | none => noOccasion "MATRIX_STEP_COMPLETE"
  | some (id, due) =>
    match s.tileOp? id with
    | none => .next ((s.modUnit u (fun x => { x with running := none })).wakeAcc u none)
    | some op =>
      let mine := x.latch.filter (fun l => l.2.op == id)
      let left := (mine.map (fun l => l.2.left)).headD 0
      if x.cycle < due then noOccasion "MATRIX_STEP_COMPLETE"
      else match (s.modUnit u (fun x => { x with running := none })).matrixStep op x.step with
        | (s1, none) => .next ((if left = 0 then s1.tileDone op none none else s1).wakeAcc u none)
        | (s1, some t) =>
          let s2 := (s1.tileDone op none (some t)).modUnit u (fun x => { x with latch := x.latch.filter (fun l => l.2.op != id) })
          .next (mine.foldl (fun s l => s.wakeAcc u (some l.1)) (s2.wakeAcc u none))

end Sys2Proof.Machine
end

