-- ==== Sys2Proof/Machine/Rings.lean ====
section
/-! DEFINITION. Rings, stage rings and handles: RING and STG instructions, their performance at the ring's home, HND
instructions and the handle table's free list (R168-R173, R343-R345, R413). -/

namespace Sys2Proof.Machine

/-! ## Ring operations at their issue (R169, R344) -/

/-- A ring handle (R168, R343). -/
def State.ringAt (s : State) (e : Env) (r : Reg) : Except Stop TileRef := s.handleAt e (e.line.reg r) [2]

/-- A ring operation of a context sent to the ring's home: the context waits for it, and it counts in TILES until it is done (R20, R143,
R169). -/
def ringIssue (push : Bool) (ring t : TileRef) (hs : List W64) (d : Reg) (e : Env) : Except Stop State :=
  if 63 ≤ e.line.tiles then .error (.waste (.counters fullTiles))
  else .error (.park (.ring ring.handle) (fun s =>
    ((hs.foldl (fun s h => s.touchHandle e h) s).modLine e.va (fun l => { l with tiles := l.tiles + 1 })).post
      (.ringOp ⟨.ctx e.va, e.u, push, false, ring, some t, 0, d, .device, s.nextId⟩)))

/-- RING.PUSH: hd is the ring, ha the source tile of the ring's shape and format (R169). -/
def ringPushBody (d a : Reg) (e : Env) (s : State) : Except Stop State := do
  let ring ← s.ringAt e d
  let t ← s.tileAt e a (fun f => f == ring.fmt) (some ring)
  ringIssue true ring t [ring.handle, t.handle] d e
/-- RING.POP: hd is the destination tile, ha the ring (R169). -/
def ringPopBody (d a : Reg) (e : Env) (s : State) : Except Stop State := do
  let t ← s.tileAt e d anyFmt none
  let ring ← s.ringAt e a
  if ring.dim = t.dim ∧ ring.fmt = t.fmt then ringIssue false ring t [t.handle, ring.handle] d e
  else .error (.trap 0x0F ring.handle 0)

/-- RING.PUSH (R169). -/
def execRingPush (g : Guard) (d a : Reg) (s : State) : Out := .next (s.issueWith g false false [d, a] (ringPushBody d a))
/-- RING.POP (R169). -/
def execRingPop (g : Guard) (d a : Reg) (s : State) : Out := .next (s.issueWith g false false [d, a] (ringPopBody d a))
/-- RING.STAT (R170). -/
def execRingStat (g : Guard) (d a : Reg) (s : State) : Out :=
  .next (s.issueWith g false false [d, a] (fun e s => do
    let ring ← s.ringAt e a
    s.submit e (.ringStat d ring) (some d) false [ring.handle]))

/-- STG.PUSH and STG.POP (R343, R344): synchronising accesses, which release as their reach says (R203). -/
def stageBody (push : Bool) (d a v : Reg) (r : Reach) (e : Env) (s : State) : Except Stop State := do
  if e.line.openMsg then .error (.trap 0x13 0 0)
  else
    let ring ← s.ringAt e a
    if e.line.loads ≠ 0 ∨ e.line.stores ≠ 0 then .error (.waste (.counters 0x00004040))
    else
      .error (.park (.stage ring.handle) (fun s =>
        let s1 := s.touchHandle e ring.handle
        (if wideReach r then s1.release e.u none else s1).post
          (.ringOp ⟨.ctx e.va, e.u, push, true, ring, none, e.line.reg v, d, r, s.nextId⟩)))

/-- STG.PUSH (R344). -/
def execStgPush (g : Guard) (a b : Reg) (r : Reach) (s : State) : Out :=
  .next (s.issueWith g false false [a, b] (stageBody true a a b r))
/-- STG.POP (R344). -/
def execStgPop (g : Guard) (d a : Reg) (r : Reach) (s : State) : Out :=
  .next (s.issueWith g false false [d, a] (stageBody false d a a r))
/-- STG.STAT (R345): the value of RING.STAT as a delivery that counts in LOADS. -/
def execStgStat (g : Guard) (d a : Reg) (s : State) : Out :=
  .next (s.issueWith g false false [d, a] (fun e s => do
    let ring ← s.ringAt e a
    if 63 ≤ e.line.loads then .error (.waste (.counters fullLoads))
    else
      let p := s.ringPos ring
      .ok (((s.touchHandle e ring.handle).setCtx e.va ⟨e.line.startLoad d, e.book⟩).post
        (.load e.va d (w64 (ring.slots * 2 ^ 40 + p.2 * 2 ^ 16 + p.1)) false))))

/-! ## Ring operations at the ring's home (R169, R344) -/

/-- Whether an operation can proceed (R169, R344). -/
def State.ringCan (s : State) (rq : RingReq) : Bool :=
  if rq.push then decide (s.ringCount rq.ring < rq.ring.slots) else decide (0 < s.ringCount rq.ring)

/-- RINGPOS after a push or a pop (R35). -/
def ringStep (push : Bool) (p : Nat × Nat) : W64 :=
  if push then w64 ((p.2 + 1) % 65536 * 65536 + p.1) else w64 (p.2 * 65536 + (p.1 + 1) % 65536)

/-- Whether a governor entry, idle or not, names a ring. -/
def State.govNames (s : State) (e : Gov) (ring : TileRef) : Bool :=
  match s.queueTenant e.prod with
  | none => false
  | some t => match s.govHandle t (w64 e.ring) with | some r => r.entry == ring.entry | none => false

/-- The governor entries that name a ring count its operation (R314). -/
def State.govCount (s : State) (ring : TileRef) : State :=
  s.clusters.foldl (fun s' c =>
    if c.2.gov.any (fun e => s.govNames e ring) then
      s'.modCluster c.1 (fun x => { x with gov := x.gov.map (fun e =>
        if s.govNames e ring then { e with ops := e.ops + 1 } else e) })
    else s') s

/-- The engine command of a number. -/
def State.cmd? (s : State) (id : Nat) : Option Cmd := s.cmds.find? (fun c => c.id == id)
/-- The state with an engine command changed. -/
def State.modCmd (s : State) (id : Nat) (f : Cmd → Cmd) : State :=
  { s with cmds := s.cmds.map (fun c => if c.id = id then f c else c) }

/-- A ring operation performed (R169, R344): the slot, the position, the governors' counts, and the reply: a context's wait
ends; a COPY.T that pushes goes on with its completion word, and one that pops with the writes of its rows (R278). -/
def State.ringPerform (s : State) (rq : RingReq) : State :=
  let p := s.ringPos rq.ring
  let base := rq.ring.base ((if rq.push then p.2 else p.1) % max 1 rq.ring.slots)
  let n := tileBytes rq.ring.fmt rq.ring.dim
  let word := w64 (ofBytes (s.padRead base 8))
  let s1 :=
    if rq.stage then (if rq.push then s.padWrite base (bytesOf rq.word.toNat 8) else s)
    else match rq.tile, rq.who with
      | none, .cmd id => if rq.push then s.padWrite base ((s.cmd? id).elim [] (fun c => c.plan.flatMap (fun p => p.2))) else s
      | none, _ => s
      | some t, _ => if rq.push then s.padWrite base (s.padRead (t.base 0) n) else s.padWrite (t.base 0) (s.padRead base n)
  let s2 := (s1.writeEntry rq.ring 16 (ringStep rq.push p)).govCount rq.ring
  match rq.who with
  | .ctx va =>
    s2.post (.served va (if rq.stage && !rq.push then some rq.reg else none) word (rq.stage && wideReach rq.reach))
  | .cmd id => s2.modCmd id (fun c =>
      if rq.push then { c with phase := .ended 0, plan := [] }
      else
        let rb := rowBytes rq.ring.fmt rq.ring.dim
        { c with phase := .marked
                 plan := (chunks rb rq.ring.dim (s.padRead base n)).zipIdx.map (fun r => (addVa (va56 c.b) (r.2 * bits c.c 0 32), r.1)) })
  | .tile _ | .record _ _ _ _ => s2

/-- The operations of a ring served from the head of its deferred list while they can proceed (R169). -/
def State.serveRing (s : State) : List RingReq → State × List RingReq
  | [] => (s, [])
  | rq :: m => if s.ringCan rq then (s.ringPerform rq).serveRing m else (s, rq :: m)

/-- A ring's deferred list. -/
def State.ringList (s : State) (entry : Nat) : List RingReq := (Assoc.get s.ringLists entry).getD []
/-- A ring's deferred list replaced. -/
def State.setRingList (s : State) (entry : Nat) (l : List RingReq) : State :=
  { s with ringLists := match l with | [] => Assoc.erase s.ringLists entry | _ => Assoc.set s.ringLists entry l }

/-- What R413 does to a ring operation whose ring is lost: cause 0x10 for a context, status 0x02 for a COPY.T. -/
def State.ringLost (s : State) (rq : RingReq) : State :=
  match rq.who with
  | .ctx va =>
    let word := match s.ctx? va with | some c => c.book.word | none => 0
    s.post (.dropped va ⟨0x10, rq.ring.handle, 0, word⟩)
  | .cmd id => s.modCmd id (fun c => { c with phase := .ended 2 })
  | .tile _ | .record _ _ _ _ => s

/-- A ring operation arrives at its home (R169, R344): one whose ring has been lost meanwhile is not performed (R413); any other is performed where it can proceed, and then the deferred list served from
its head; or appended to the list. -/
def State.ringArrive (s : State) (rq : RingReq) : State :=
  let l := s.ringList rq.ring.entry
  if bits (s.readEntry rq.ring 0) 48 16 ≠ handleGen rq.ring.handle ∨ bits (s.readEntry rq.ring 0) 0 2 ≠ 2 then s.ringLost rq
  else if s.ringCan rq then
    let r := (s.ringPerform rq).serveRing l
    r.1.setRingList rq.ring.entry r.2
  else s.setRingList rq.ring.entry (l ++ [rq])

/-- Whether an earlier tile operation of the context touches the tile of a ring operation (R144). -/
def State.ringBlocked (s : State) (rq : RingReq) : Bool :=
  match rq.who, rq.tile with
  | .ctx va, some t => s.tileOps.any (fun o => o.ctx == va && o.kind.touches.tiles.any (overlap t.bytes))
  | _, _ => false

/-- RING_OP_AT_HOME (R169). -/
def execRingOpAtHome (id : Nat) (s : State) : Out :=
  match s.msg? id with
  | some (.ringOp rq) =>
    if rq.stage || s.ringBlocked rq then noOccasion "RING_OP_AT_HOME" else .next ((s.dropMsg id).ringArrive rq)
  | _ => noOccasion "RING_OP_AT_HOME"

/-- STAGE_OP_AT_HOME (R344): after the release of its reach (R203). -/
def execStageOpAtHome (id : Nat) (s : State) : Out :=
  match s.msg? id with
  | some (.ringOp rq) =>
    if rq.stage && s.released rq.unit id then .next ((s.dropMsg id).ringArrive rq) else noOccasion "STAGE_OP_AT_HOME"
  | _ => noOccasion "STAGE_OP_AT_HOME"

/-! ## Handles (R171-R173) -/

/-- Word 0x00 of an entry with a GEN and a KIND, its other fields from a word, its reserved bits 0 (R4, R35). -/
def entryWord (w : W64) (gen kind : Nat) : W64 :=
  w64 (gen * 2 ^ 48 + bits w 32 8 * 2 ^ 32 + bits w 12 2 * 2 ^ 12 + bits w 8 4 * 2 ^ 8 + bits w 4 2 * 16 + kind)

/-- HND.NEW (R171): the placement is the issuing IU, or the one that bit 63 names; 1536 stands for an invalid one.  The spec does not say
what an IU of a fenced cluster is here; the model takes it as an invalid placement (DESIGN CHOICE, log 82). -/
def State.placement (s : State) (u : Nat) (v : W64) : Nat :=
  if v = 0 then u
  else
    let iu := bits v 8 4 * 96 + bits v 12 7
    if bit v 63 ∧ bits v 19 44 = 0 ∧ bits v 0 8 = 0 ∧ bits v 12 7 ≤ 95 ∧ s.unitUp iu = true then iu else 1536

/-- HND.FREE (R173). -/
def execHndFree (g : Guard) (a : Reg) (s : State) : Out :=
  .next (s.issueWith g false false [a] (fun e s => do
    let t ← s.handleAt e (e.line.reg a) [1, 2, 3]
    s.submit e (.hndFree t) none false [t.handle]))
/-- HND.INFO (R173): word 0x00 of the entry, or 0 where the checks other than the kind's fail. -/
def execHndInfo (g : Guard) (d a : Reg) (s : State) : Out :=
  .next (s.issueWith g false false [d, a] (fun e s =>
    let h := e.line.reg a
    match s.checkHandle e.u e.line.tenant h [1, 2, 3] with
    | .ok t => s.submit e (.hndInfo d (entryWord (s.readEntry t 0) (bits (s.readEntry t 0) 48 16) (bits (s.readEntry t 0) 0 2)))
        (some d) false [h]
    | .error .invalid => s.submit e (.hndInfo d 0) (some d) false []
    | .error f => .error (f.stop h e.line.tenant)))

/-- The lowest offset of a run of n free units in a scratchpad, used being the runs in use by rising offset (R171). -/
def freeUnits (n : Nat) : Nat → List (Nat × Nat) → Option Nat
  | at', [] => if at' + n ≤ 4032 then some at' else none
  | at', (o, k) :: m => if at' + n ≤ o then some at' else freeUnits n (max at' (o + k)) m

/-- Runs of units in use in a scratchpad. -/
def State.unitsUsed (s : State) (iu : Nat) : List (Nat × Nat) := (Assoc.get s.scratchUsed iu).getD []
/-- Runs of units in use replaced. -/
def State.setUnitsUsed (s : State) (iu : Nat) (l : List (Nat × Nat)) : State :=
  { s with scratchUsed := match l with | [] => Assoc.erase s.scratchUsed iu | _ => Assoc.set s.scratchUsed iu l }

/-- Units of a tile or a ring. -/
def TileRef.units (t : TileRef) : Nat := (if t.kind = 2 then t.slots else 1) * tileUnits t.fmt t.dim

/-- Runs of units that the tiles and rings of the handle tables hold in a scratchpad, those that the loader filled among them (R78,
R79); an entry is read through the page that software gave for it (log 74). -/
def State.tableRuns (s : State) (iu : Nat) : List (Nat × Nat) :=
  s.tenants.flatMap (fun t => (List.range t.2.hlen).filterMap (fun i =>
    let va := addVa t.2.htab.toNat (i * 32)
    match s.pageOf t.1 va with
    | none => none
    | some e => match s.entryRead 0 (e.addr va) e.kslot none [1, 2] with
      | some r => if r.iu = iu ∧ i ≠ 0 then some (r.off, r.units) else none
      | none => none))

/-- Whether some operation that passed its check on an entry is not complete (R38): one checked while an HND.FREE waits passed its check
too, and holds the free back. -/
def State.entryBusy (s : State) (entry : Nat) : Bool :=
  let ring (rq : RingReq) : Bool := rq.ring.entry == entry || (match rq.tile with | some t => t.entry == entry | none => false)
  s.tileOps.any (fun o => (match o.kind with | .hndFree _ => false | _ => true) &&
    (o.pairs.contains entry || o.kind.tiles.any (fun t => t.entry == entry))) ||
  s.wire.any (fun m => match m.2 with | .ringOp rq => ring rq | _ => false) ||
  s.ringLists.any (fun l => l.2.any ring)

/-- Whether some operation that passed its check on a freed tile or ring still holds it (R173). -/
def State.spaceHeld (s : State) (t : TileRef) : Bool :=
  let same (x : TileRef) : Bool := x.entry == t.entry && x.iu == t.iu && x.off == t.off
  let ring (rq : RingReq) : Bool := same rq.ring || rq.tile.any same
  s.tileOps.any (fun o => o.kind.tiles.any same) || s.cmds.any (fun c => c.tile.any same) ||
  s.wire.any (fun m => match m.2 with | .ringOp rq => ring rq | _ => false) || s.ringLists.any (fun l => l.2.any ring)

/-- The space of freed tiles and rings that no operation holds any more, back in its scratchpad (R173). -/
def State.sweepSpace (s : State) : State :=
  let done := s.spaceDue.filter (fun t => !(s.spaceHeld t))
  done.foldl (fun s t => s.setUnitsUsed t.iu (Assoc.erase (s.unitsUsed t.iu) t.off))
    { s with spaceDue := s.spaceDue.filter (fun t => s.spaceHeld t) }

/-- Runs of units in use in a scratchpad, by rising offset: those that HND.NEW gave, those of the tables' entries and those freed but
still held (R78, R79, R171, R173). -/
def State.runsUsed (s : State) (iu : Nat) : List (Nat × Nat) :=
  (s.unitsUsed iu ++ s.tableRuns iu ++ (s.spaceDue.filter (fun t => t.iu == iu)).map (fun t => (t.off, t.units))).foldl
    (fun m r => Assoc.set m r.1 (max r.2 ((Assoc.get m r.1).getD 0))) []

/-- The head of a tenant's free list: the entry's index, physical address, key slot, GEN and the next index (R171). -/
structure Head where
  index : Nat
  pa : Nat
  kslot : Nat
  gen : Nat
  next : Nat

/-- The head of the free list as an HND.NEW that issues finds it, if the list holds an entry: its page and its block are checked at the
instruction (R37, R143).  A head at or beyond TEN_HLEN is an empty list: the spec does not say what it is (DESIGN CHOICE,
log 75). -/
def State.freeEntry (s : State) (e : Env) : Except Stop (State × Option Head) :=
  let t := s.tenant e.line.tenant
  if t.hfree = 0 ∨ t.hlen ≤ t.hfree then .ok (s, none)
  else
    let va := addVa t.htab.toNat (t.hfree * 32)
    match s.xlate e.u e.line.tenant va accRead with
    | .error f => .error (f.stop va accRead e.line.tenant)
    | .ok x => match s.verify (x.addr va) x.kslot with
      | (_, some _) => .error (.bad (w64 va) (x.addr va) x.kslot)
      | (s1, none) =>
        let gen := bits (Memory.dword s1.mem (x.addr va)) 48 16
        .ok (s1.touchTlb e.u x, some ⟨t.hfree, x.addr va, x.kslot, if gen = 0 then 1 else gen,
          bits (Memory.dword s1.mem (x.addr va + 16)) 0 24⟩)

/-- An entry's four words written. -/
def State.fillEntry (s : State) (pa kslot : Nat) (w0 w8 w10 w18 : W64) : State :=
  s.storeOwn kslot (cellsAt pa (wordsBytes [w0, w8, w10, w18]))

/-- The fields of a descriptor that an entry keeps, with a GEN (R35, R171). -/
def descWord (desc : W64) (gen : Nat) : W64 := entryWord desc gen (bits desc 0 2)
/-- Whether a descriptor is one that HND.NEW accepts (R171). -/
def descOk (desc : W64) : Bool :=
  let kind := bits desc 0 2
  let slots := bits desc 32 8
  let fmt := bits desc 8 4
  decide (fmt ≤ 8) && decide (bits desc 4 2 ≤ 1) &&
  ((kind == 1 && slots == 0) || (kind == 2 && decide (1 ≤ slots) && decide (slots ≤ 16))) &&
  ((fmt == 6 || fmt == 7) == (bits desc 12 2 != 0))
/-- A handle. -/
def handleOf (index gen : Nat) : W64 := w64 (index * 65536 + gen)

/-- HND.NEW performed (R171): the handle, or 0 with nothing changed. -/
def State.makeHandle (s : State) (tenant : Nat) (head : Option Head) (desc : W64) (place : Nat) : State × W64 :=
  let dim := if bits desc 4 2 = 0 then 16 else 32
  let n := (if bits desc 0 2 = 2 then bits desc 32 8 else 1) * tileUnits (bits desc 8 4) dim
  match head, descOk desc && decide (place < 1536) with
  | some h, true =>
    match freeUnits n 0 (s.sweepSpace.runsUsed place) with
    | none => (s, 0)
    | some off =>
      let w8 := w64 (off * 2 ^ 20 + place % 96 * 2 ^ 12 + place / 96 * 2 ^ 8 + place / 96 / 4 * 16)
      let s1 := (s.sweepSpace.fillEntry h.pa h.kslot (descWord desc h.gen) w8 0 0).modTenant tenant
        (fun t => { t with hfree := h.next })
      ((s1.setUnitsUsed place (Assoc.set (s1.unitsUsed place) off n)).padWrite (padAddr place (off * 64))
        (List.replicate (n * 64) 0), handleOf h.index h.gen)
  | _, _ => (s, 0)

/-- HND.NEW.PAIR performed (R172). -/
def State.makePair (s : State) (tenant : Nat) (head : Option Head) (d z : TileRef) : State × W64 :=
  match head with
  | none => (s, 0)
  | some h =>
    let w0 := w64 (h.gen * 2 ^ 48 + d.group * 2 ^ 12 + d.fmt * 2 ^ 8 + (if d.dim = 16 then 0 else 16) + 3)
    ((s.fillEntry h.pa h.kslot w0 0 d.handle z.handle).modTenant tenant (fun t => { t with hfree := h.next }),
      handleOf h.index h.gen)

/-- HND.NEW (R171).  The spec does not say at what moment of its operation the entry and the space are taken; the model takes both as it
issues, so that every page that it needs is checked at the instruction (R37, R143), and the handle is delivered when the
operation completes (DESIGN CHOICE, log 81). -/
def execHndNew (g : Guard) (d a b : Reg) (s : State) : Out :=
  .next (s.issueWith g false false [d, a, b] (fun e s => do
    let (s1, head) ← s.freeEntry e
    let r := s1.makeHandle e.line.tenant head (e.line.reg a) (s.placement e.u (e.line.reg b))
    r.1.submit e (.hndNew d r.2) (some d) false []))
/-- HND.NEW.PAIR (R172): a data tile of FMT 6 or 7 and a scale/zero tile of the same shape.  Its entry is taken as HND.NEW's is (log 81). -/
def execHndNewPair (g : Guard) (d a b : Reg) (s : State) : Out :=
  .next (s.issueWith g false false [d, a, b] (fun e s => do
    let td ← s.tileAt e a (fun f => f == 6 || f == 7) none
    let tz ← s.tileAt e b (fun f => f == 8) (some td)
    let (s1, head) ← s.freeEntry e
    let r := s1.makePair e.line.tenant head td tz
    r.1.submit e (.hndNew d r.2) (some d) false [td.handle, tz.handle] [td.entry, tz.entry]))

/-- A GEN after a free or an invalidation (R35). -/
def nextGen (g : Nat) : Nat := if g = 65535 then 1 else g + 1
/-- Word 0x00 with its GEN moved on and KIND 0, reserved bits 0 (R4, R173). -/
def freedWord (w : W64) : W64 := entryWord w (nextGen (bits w 48 16)) 0

/-- A tile's or ring's space on its way back to its scratchpad (R173). -/
def State.freeSpace (s : State) (t : TileRef) : State :=
  if t.kind = 3 then s else { s with spaceDue := s.spaceDue ++ [t] }

/-- HND.FREE performed (R173): nothing where the entry has been freed since the check. -/
def State.hndFree (s : State) (op : TileOp) (t : TileRef) : State :=
  let w := s.readEntry t 0
  if bits w 48 16 ≠ handleGen t.handle ∨ bits w 0 2 = 0 then s
  else
    (((s.writeEntry t 0 (freedWord w)).writeEntry t 16 (w64 (s.tenant op.tenant).hfree)).modTenant op.tenant
      (fun x => { x with hfree := handleIndex t.handle })).freeSpace t

end Sys2Proof.Machine
end

