-- ==== Sys2Proof/Machine/Attention.lean ====
section
/-! DEFINITION. Attention and key-value instructions at their issue, and the completion of tile operations (R143, R147-R156,
R163-R183, R186). -/

namespace Sys2Proof.Machine

/-! ## Page records (R174, R186) -/

/-- A page record's VA: 256-byte aligned (R174). -/
def pageVa (e : Env) (r : Reg) : Except Stop Nat :=
  let p := va56 (e.line.reg r)
  if p % 256 ≠ 0 then .error (.trap 0x03 (w64 p) 0) else .ok p
/-- The wait of an instruction that names a page under compaction (R186). -/
def State.pageWait (s : State) (e : Env) (p : Nat) : Option Stop :=
  if s.pagesUnder.contains (p, e.line.tenant) then some (.park (.page (w64 (addVa p 0x4000))) (fun s => s)) else none
/-- Bytes of a page record (R174). -/
def pageBytes : Nat := 16640

/-- A run of 32x32 tiles of given formats (R176). -/
def State.attnRun (s : State) (e : Env) (r : Reg) (fmts : List Nat) : Except Stop (List TileRef) :=
  s.runAt e (e.line.reg r) [1] (fun i t => t.dim == 32 && fmts[i]? == some t.fmt) fmts.length

/-! ## Instructions (R177-R183) -/

/-- ATTN.QK (R178). -/
def execAttnQk (g : Guard) (a b : Reg) (s : State) : Out :=
  .next (s.issueWith g false false [a, b] (fun e s => do
    if !(s.ownsAcc e false) then .error (s.notOwner e)
    else
      let q ← s.attnRun e a [1, 1, 1, 1]
      let p ← pageVa e b
      let m ← s.spans e p pageBytes accRead
      match s.pageWait e p with
      | some x => .error x
      | none => s.latchSteps e 4 (.attnQk q (w64 p) m) true [e.line.reg a]))
/-- ATTN.SM (R179): it translates nothing at issue. -/
def execAttnSm (g : Guard) (d a b : Reg) (i : BitVec 4) (s : State) : Out :=
  .next (s.issueWith g false false [d, a, b] (fun e s => do
    if !(s.ownsAcc e false) then .error (s.notOwner e)
    else
      let st ← s.attnRun e d [0, 1]
      let gs ← s.attnRun e a [0]
      let p ← pageVa e b
      match s.pageWait e p, gs with
      | some x, _ => .error x
      | none, gt :: _ => if s.accHeld e then .error (.waste (.acc e.u)) else s.submit e (.attnSm st gt (w64 p) i.toNat) none false [e.line.reg d, e.line.reg a]
      | none, [] => .ok s))
/-- ATTN.PV (R180). -/
def execAttnPv (g : Guard) (d a b : Reg) (s : State) : Out :=
  .next (s.issueWith g false false [d, a, b] (fun e s => do
    if !(s.ownsAcc e false) then .error (s.notOwner e)
    else
      let o ← s.attnRun e d [0, 0, 0, 0]
      let st ← s.attnRun e a [0, 1]
      let p ← pageVa e b
      let m ← s.spans e p pageBytes accRead
      match s.pageWait e p with
      | some x => .error x
      | none => s.latchSteps e 4 (.attnPv o st (w64 p) m) true [e.line.reg d, e.line.reg a]))
/-- ATTN.CLOSE (R181): only its handle checks are made at issue. -/
def execAttnClose (g : Guard) (d a : Reg) (n : BitVec 4) (s : State) : Out :=
  .next (s.issueWith g false false [d, a] (fun e s => do
    let gs ← s.attnRun e d [0]
    let st ← s.attnRun e a [0, 1]
    match gs with
    | gt :: _ =>
      if s.accHeld e then .error (.waste (.acc e.u))
      else s.submit e (.attnClose gt st n.toNat 0) none true [e.line.reg d, e.line.reg a]
    | [] => .ok s))

/-- Bytes of one block as a load of the strand finds them when an instruction issues (R145, R270): a context line at its owner (R31),
or memory; or the stop of their place or of their block's check. -/
def State.issuePiece (s : State) (e : Env) (va n : Nat) : Except Stop (State × List Byte) :=
  match s.place e va accRead with
  | .error x => .error x
  | .ok p => match s.readPlace e.u p va n ⟨0, false⟩ with
    | (_, .error _) => match p with
      | .line _ t => .error (.bad (w64 va) (t.addr va) t.kslot)
      | .mem pa a _ _ => .error (.bad (w64 va) pa a.kslot)
    | (s1, .ok bs) => .ok (s1, bs)

/-- Bytes of memory as the strand sees them when an instruction issues, block by block. -/
def State.issueBytesN (s : State) (e : Env) : Nat → Nat → Nat → Except Stop (State × List Byte)
  | 0, _, _ => .ok (s, [])
  | fuel + 1, va, n =>
    if n = 0 then .ok (s, [])
    else
      let k := min n (64 - va % 64)
      match s.issuePiece e va k with
      | .error x => .error x
      | .ok (s1, bs) => match s1.issueBytesN e fuel (addVa va k) (n - k) with
        | .error x => .error x
        | .ok (s2, cs) => .ok (s2, bs ++ cs)

/-- Up to 64 bytes of memory as the strand sees them when an instruction issues. -/
def State.issueBytes (s : State) (e : Env) (va n : Nat) : Except Stop (State × List Byte) := s.issueBytesN e 2 va n

/-- KV.MAP (R175, R183): the value is read when it issues.  The spec does not say whether an index at or above L is judged before the page
list is read, nor what a pool base that is not a multiple of 256 makes of a page record's VA; the model reads page list[0] in
every case, with whatever trap, miss or wait that meets, and takes the computed VA as it is (DESIGN CHOICE, log 76). -/
def execKvMap (g : Guard) (d a b : Reg) (s : State) : Out :=
  .next (s.issueWith g false false [d, a, b] (fun e s => do
    let desc := va56 (e.line.reg a)
    if desc % 64 ≠ 0 then .error (.trap 0x03 (w64 desc) 0)
    else
      let (s, db) ← s.issueBytes e desc 64
      let word (i : Nat) : Nat := ofBytes ((db.drop (8 * i)).take 8)
      let (s, lb) ← s.issueBytes e (word 1 % 2 ^ 56) 4
      let rec0 := addVa (word 0) (ofBytes lb * pageBytes)
      let i := (e.line.reg b).toNat
      if word 3 % 2 ^ 32 ≤ i then
        match s.pageWait e rec0 with
        | some x => .error x
        | none => s.submit e (.kvMap d (w64 desc) 0) (some d) true []
      else
        let (s, rb) ← s.issueBytes e (addVa (word 2) (4 * i)) 4
        let r := ofBytes rb
        let (s, pe) ← s.issueBytes e (addVa (word 0) (natBits r 0 26 * pageBytes + 0x4080 + 4 * natBits r 26 5)) 4
        match s.pageWait e rec0 with
        | some x => .error x
        | none => s.submit e (.kvMap d (w64 desc) (w64 (ofBytes pe * 2 ^ 32 + r))) (some d) true []))
/-- KV.MASS (R183). -/
def execKvMass (g : Guard) (d a : Reg) (j : BitVec 4) (s : State) : Out :=
  .next (s.issueWith g false false [d, a] (fun e s => do
    let p ← pageVa e a
    let m ← s.spans e (addVa p (0x4000 + 8 * j.toNat)) 8 accRead
    match s.pageWait e p with
    | some x => .error x
    | none => s.submit e (.kvMass d (w64 p) m) (some d) true []))

/-! ## Softmax over a page of scores (R179) -/

/-- What row q of an ATTN.SM computes: the new maximum, the rescale factor, the row sum and the exponentials in FP32 and
BF16. -/
structure SoftRow where
  m : Nat
  sum : Nat
  alpha : Nat
  seen : Nat
  p32 : List Nat
  p16 : List Nat

/-- Row q of an ATTN.SM (R179). -/
def softRow (score : Nat → Nat) (oldM oldS seen : Nat) : SoftRow :=
  let ninf := fp32.signed true fp32.inf
  let fresh := seen % 2 ^ 31 == 0
  let mOld := if fresh then ninf else oldM
  let sOld := if fresh then 0 else oldS
  let mPg := foldTerms true ((List.range 32).map score)
  let mNew := (fp32.minMax true mOld mPg).1
  let one := 0x3F800000
  let dead := mNew == ninf
  let alpha := if dead then one else exp2Diff fp32 mOld mNew
  let p32 := (List.range 32).map (fun t => if dead then 0 else exp2Diff fp32 (score t) mNew)
  let p16 := (List.range 32).map (fun t => if dead then 0 else exp2Diff bf16 (score t) mNew)
  let rowSum := foldTerms false p32
  ⟨mNew, (fp32.fmaV .rne (fp32.unpack sOld) (fp32.unpack alpha) (fp32.unpack rowSum)).1, alpha, addRne seen one, p32, p16⟩

/-- ATTN.SM performed (R179); where the stage is a tile of the stats run it is written last (DESIGN CHOICE, log 94). -/
def State.softmax (s : State) (u : Nat) (st : List TileRef) (stage : TileRef) (page : W64) (i : Nat) : State :=
  let x := s.unit u
  let rows := (List.range 32).map (fun q =>
    softRow (x.accWord q) (s.elemOf st 0 q 0) (s.elemOf st 0 q 1) (s.elemOf st 0 q 3))
  let row (q : Nat) : SoftRow := nth rows q ⟨0, 0, 0, 0, [], []⟩
  match st with
  | s0 :: s1 :: _ =>
    let a := s.setTile s0 0 (fun q c =>
      match c with
      | 0 => (row q).m
      | 1 => (row q).sum
      | 2 => (row q).alpha
      | 3 => (row q).seen
      | _ => s.elemOf st 0 q c)
    let b := a.setTile s1 0 (fun q t => nth (row q).p16 t 0)
    b.setTile stage 0 (fun r c =>
      if r = 2 * i then nth (row 0).p32 c 0
      else if r = 2 * i + 1 then
        (match c with
          | 0 => (row 0).m
          | 2 => bits page 0 32
          | 3 => bits page 32 32
          | _ => 0)
      else b.elem (stage.base 0) stage.fmt stage.dim r c)
  | _ => s

/-! ## Tile operations performed (R148-R156, R163, R164) -/

/-- Element (r, c) of a tile. -/
def State.at' (s : State) (t : TileRef) (r c : Nat) : Nat := s.elem (t.base 0) t.fmt t.dim r c
/-- A line of a tile: row i, or column i under .c. -/
def State.lineOf (s : State) (t : TileRef) (col : Bool) (i : Nat) : List Nat :=
  (List.range t.dim).map (fun j => if col then s.at' t j i else s.at' t i j)

/-- Quantisation of a tile into a grouped pair (R155, R156): the state with the pair's tiles written.  R156 keeps [31:24] of a
scale/zero word and gives no value for [23:20] where the zero point is 4 bits wide; the model writes 0 there (DESIGN CHOICE,
log 77). -/
def State.quantTile (s : State) (auto : Bool) (mode : Round) (d z a : TileRef) : State :=
  let int8 := d.fmt == 6
  let s1 := if auto then
      s.setTile z 0 (fun r n =>
        if r = 0 then
          s.at' z 0 n / 2 ^ 24 * 2 ^ 24 + autoParams int8 ((s.lineOf a true n).map (elemFV a.fmt))
        else s.at' z r n)
    else s
  s1.setTile d 0 (fun k n => quantElem mode int8 (szScale (s1.at' z 0 n)) (szZero int8 (s1.at' z 0 n))
    (elemFV a.fmt (s.at' a k n)))

/-- The first of a quadrant's rows and columns in the accumulator (R162). -/
def quadBase (t : TileRef) (q : Nat) : Nat × Nat := if t.dim = 16 then (16 * (q / 2), 16 * (q % 2)) else (0, 0)

/-- What an operation leaves: the state, a value for a register, and a trap for its context. -/
structure TileResult where
  s : State
  out : Option (Reg × Option W64)
  trap : Option DTrap

/-- A state without a value or a trap. -/
def TileResult.of (s : State) : TileResult := ⟨s, none, none⟩

/-- An operation performed whole: every source is read before a destination is written (R143). -/
def State.tilePerform (s : State) (op : TileOp) : TileResult :=
  let mode := op.round
  match op.kind with
  | .bin o d a b => .of (s.setTile d 0 (fun r c => o.elem mode d.fmt a.fmt b.fmt (s.at' a r c) (s.at' b r c)))
  | .scale d a st => .of (s.setTile d 0 (fun r c =>
      ((floatOf d.fmt).fmaV mode (elemFV a.fmt (s.at' a r c)) (fp32.unpack (bits st 0 32)) (fp32.unpack (bits st 32 32))).1))
  | .rdiv d a b => .of (s.setTile d 0 (fun r c =>
      ((floatOf d.fmt).divV mode (elemFV a.fmt (s.at' a r c)) (fp32.unpack (s.at' b r 1))).1))
  | .exp d a => .of (s.setTile d 0 (fun r c => ((floatOf d.fmt).exp2V mode (elemFV a.fmt (s.at' a r c))).1))
  | .reduce mx acc col d a => .of (s.setTile d 0 (fun r c =>
      if (if col then r else c) = 0 then
        reduceLine mx mode d.fmt a.fmt (if acc then some (s.at' d r c) else none) (s.lineOf a col (if col then c else r))
      else s.at' d r c))
  | .cvt d a => .of (s.setTile d 0 (fun r c => convElem mode d.fmt a.fmt (s.at' a r c)))
  | .trans d a => .of (s.setTile d 0 (fun r c => s.at' a c r))
  | .fill d v => .of (s.setTile d 0 (fun _ _ => bits v 0 (fmtBits d.fmt)))
  | .get r a idx => ⟨s, some (r, some (w64 (ofBytes (s.padRead (a.base 0 + 8 * idx) 8)))), none⟩
  | .set a idx v => .of (s.padWrite (a.base 0 + 8 * idx) (bytesOf v.toNat 8))
  | .quant auto d z a => .of (s.quantTile auto mode d z a)
  | .dequant d a z => .of (s.setTile d 0 (fun k n =>
      dequantElem mode (floatOf d.fmt) (a.fmt == 6) (s.at' z 0 n) (s.at' a k n)))
  | .accSt d i q =>
    let b := quadBase d q
    .of (s.setTile d 0 (fun r c =>
      convElem mode d.fmt (if i then 3 else 0) ((s.unit op.unit).accWord (b.1 + r) (b.2 + c))))
  | .accLd a q =>
    let b := quadBase a q
    let x := s.unit op.unit
    .of (s.setAcc op.unit (fun m n =>
      if b.1 ≤ m ∧ m < b.1 + a.dim ∧ b.2 ≤ n ∧ n < b.2 + a.dim then
        convElem .rne (if floatFmt a.fmt then 0 else 3) a.fmt (s.at' a (m - b.1) (n - b.2))
      else x.accWord m n))
  | .accLdRaw m => match s.readSpans m with
    | (s1, .error (va, c)) => ⟨s1, none, some ⟨c, w64 va, 0, 0⟩⟩
    | (s1, .ok bs) => .of (s1.setAcc op.unit (fun r c => ofBytes ((bs.drop ((r * 32 + c) * 4)).take 4)))
  | .accZ => .of (s.modUnit op.unit (fun x => { x with acc := [] }))
  | .ringStat r ring =>
    let p := s.ringPos ring
    ⟨s, some (r, some (w64 (ring.slots * 2 ^ 40 + p.2 * 2 ^ 16 + p.1))), none⟩
  | .hndFree t => .of (s.hndFree op t)
  | .hndInfo r v | .hndNew r v => ⟨s, some (r, some v), none⟩
  | .attnSm st g page i => .of (s.softmax op.unit st g page i)
  | .kvMap r _ v => ⟨s, some (r, some v), none⟩
  | .kvMass r _ m => match s.readSpans m with
    | (s1, .error (va, c)) => ⟨s1, some (r, none), some ⟨c, w64 va, 0, 0⟩⟩
    | (s1, .ok bs) => ⟨s1, some (r, some (w64 (ofBytes bs))), none⟩
  | .accStRaw _ | .mma _ _ _ _ _ _ | .attnQk _ _ _ | .attnPv _ _ _ _ | .attnClose _ _ _ _ =>
    .of s

/-- The 4,096 bytes of an accumulator (R163). -/
def Unit.accBytes (x : Unit) : List Byte :=
  (List.range 1024).flatMap (fun i => bytesOf (x.accWord (i / 32) (i % 32)) 4)

/-- A store of the accumulator's bytes, taken up where a port left it (R163, R220). -/
def State.storeAcc (s : State) (op : TileOp) (m : List Span) : Out :=
  let left := m.foldl (fun n x => n + x.len) 0
  match s.sendBlocks 1 op.unit op.id none (m.flatMap Span.blocks) (((s.unit op.unit).accBytes).drop (4096 - left)) with
  | (s1, [], bad) => .next (s1.tileDone op none (bad.map (fun b => ⟨b.2, w64 b.1, 0, 0⟩)))
  | (s1, rest, _) =>
    if s1 = s then noOccasion "TILE_OP_COMPLETE"
    else .next { s1 with tileOps := s1.tileOps.map (fun o => if o.id = op.id then { o with kind := .accStRaw rest } else o) }

/-- Whether a miss of an agent is on its way or in a walk (R271, R357). -/
def State.missing (s : State) (w : Who) : Bool :=
  s.wire.any (fun m => match m.2 with
    | .miss rq => rq.who == w
    | .missRefused rq _ => rq.who == w
    | _ => false) ||
  s.clusters.any (fun c => c.2.tsu.any (fun k => k.reqs.any (fun rq => rq.who == w)))

/-- A miss of a tile operation, on its way to the TSU of its unit's cluster, if it is not there yet (R181, R357). -/
def State.tileMiss (s : State) (op : TileOp) (va acc : Nat) : State :=
  if s.missing (.tile op.id) then s
  else s.post (.miss ⟨.tile op.id, op.unit, op.unit / 96, op.tenant, w64 va, acc, 0⟩)

/-- TILE_OP_COMPLETE (R143-R145): an operation that no earlier one holds back is performed and ends, wherever its context is. -/
def execTileOpComplete (id : Nat) (s : State) : Out :=
  match s.tileOp? id with
  | none => noOccasion "TILE_OP_COMPLETE"
  | some op =>
    if s.tileBlocked op || !(s.storesBefore op) then noOccasion "TILE_OP_COMPLETE"
    else match op.kind with
      | .mma _ _ _ _ _ _ | .attnQk _ _ _ | .attnPv _ _ _ _ | .attnClose _ _ _ _ => noOccasion "TILE_OP_COMPLETE"
      | .accStRaw m => s.storeAcc op m
      | .hndFree t =>
        if s.entryBusy t.entry then noOccasion "TILE_OP_COMPLETE"
        else .next ((s.hndFree op t).tileDone op none none)
      | _ => let r := s.tilePerform op
             .next (r.s.tileDone op r.out r.trap)

/-! ## ATTN.CLOSE performed (R181, R182) -/

/-- The end of an ATTN.CLOSE at a page that fails its check: cause 0x0E with the VA, the slot and the cause (R181).  R181 lists the causes
0x03, 0x05, 0x06 and 0x07; for a metadata block that fails its integrity check the model names 0x08 or 0x09 in the same way
(DESIGN CHOICE, log 24). -/
def State.closeFail (s : State) (op : TileOp) (i va : Nat) (cause : Byte) : State :=
  s.tileDone op none (some ⟨0x0E, w64 va, w64 (i + cause.toNat * 256), 0⟩)

/-- The masses of a page after the commit of staged slot i (R181): f scales the staged weights. -/
def massBytes (meta' : List Byte) (staged : Nat → Nat) (f : Nat) : List Byte :=
  (List.range 32).flatMap (fun t =>
    let old := ofBytes ((meta'.drop (4 * t)).take 4)
    let valid := (ofBytes ((meta'.drop (0x80 + 4 * t)).take 4)).testBit 31
    let d := (fp32.mulV .rne (fp32.unpack (staged t)) (fp32.unpack f)).1
    bytesOf (if valid then addRne old d else old) 4)

/-- The scale of a commit (R181). -/
def closeScale (ref m sum : Nat) : Nat :=
  if sum % 2 ^ 31 = 0 ∨ m = fp32.signed true fp32.inf then 0
  else exp2Div ((fp32.unpack ref).sub (fp32.unpack m)) (fp32.unpack sum)

/-- An ATTN.CLOSE held at a page slot. -/
def State.closeHold (s : State) (op : TileOp) (g : TileRef) (st : List TileRef) (n i : Nat) : State :=
  { s with tileOps := s.tileOps.map (fun o => if o.id = op.id then { o with kind := .attnClose g st n i } else o) }

/-- The commit of one staged page whose checks passed: one read, add and write of its masses (R181, R182); none where a replay port
holds it (R220). -/
inductive Commit where
  | done (s : State)
  | hold (s : State)
  | fail (s : State) (cause : Byte)

/-- The masses of a page, ms being the metadata at va + 0x4000, updated by scale f and weights. -/
def State.closePage' (s : State) (op : TileOp) (ms : List Span) (staged : Nat → Nat) (f : Nat) : Commit :=
  match s.readSpans ms with
  | (s1, .error (_, c)) => .fail s1 c
  | (s1, .ok bs) =>
    let out := (ms.map (fun m => { m with len := 128 })).flatMap Span.blocks
    match s1.admitAll 1 op.unit op.id out with
    | .hold s2 => .hold s2
    | .perform s2 => match s2.storeAll op.unit out (massBytes bs staged f) with
      | (s3, none) => .done s3
      | (s3, some c) => .fail s3 c

/-- An ATTN.CLOSE from page slot i on, at most fuel slots (R181): done, failed, or held at a slot. -/
def State.closeFrom (s : State) (op : TileOp) (g : TileRef) (st : List TileRef) (n : Nat) : Nat → Nat → State
  | 0, _ => s.tileDone op none none
  | fuel + 1, i =>
    if n < i then s.tileDone op none none
    else
      let word (c : Nat) : Nat := s.at' g (2 * i + 1) c
      let va := (word 2 + word 3 * 2 ^ 32) % 2 ^ 56
      if word 2 + word 3 * 2 ^ 32 = 0 then s.closeFrom op g st n fuel (i + 1)
      else if va % 256 ≠ 0 then s.closeFail op i va 0x03
      else match s.spansAt op.unit op.tenant accRmw 3 va pageBytes with
        | .error (.fault c, _) => s.closeFail op i va c
        | .error (.miss, at') => (s.closeHold op g st n i).tileMiss op at' accRmw
        | .ok _ =>
          if s.pagesUnder.contains (va, op.tenant) then s.closeHold op g st n i
          else match s.spansAt op.unit op.tenant accRmw 3 (addVa va 0x4000) 256 with
            | .error _ => s.closeHold op g st n i
            | .ok ms =>
              match s.closePage' op ms (fun t => s.at' g (2 * i) t)
                  (closeScale (word 0) (s.elemOf st 0 0 0) (s.elemOf st 0 0 1)) with
              | .done s1 => s1.closeFrom op g st n fuel (i + 1)
              | .hold s1 => s1.closeHold op g st n i
              | .fail s1 c => s1.closeFail op i va c

/-- ATTN_CLOSE_PERFORM (R181): the staged pages in slot order, from the first not yet committed. -/
def execAttnClosePerform (id : Nat) (s : State) : Out :=
  match s.tileOp? id with
  | none => noOccasion "ATTN_CLOSE_PERFORM"
  | some op =>
    match op.kind with
    | .attnClose g st n i =>
      if s.tileBlocked op || !(s.storesBefore op) then noOccasion "ATTN_CLOSE_PERFORM"
      else
        let s1 := s.closeFrom op g st n 17 i
        if s1 = s then noOccasion "ATTN_CLOSE_PERFORM" else .next s1
    | _ => noOccasion "ATTN_CLOSE_PERFORM"

/-! ## Soft errors of tiles and accumulators (R38, R410, R413) -/

/-- ACCUMULATOR_UNCORRECTABLE (R410): the accumulator and its owner are zero, the owner's context traps with cause 0x09 or the event is
counted where there is none, and latched steps are discarded; a step that runs goes on to its end, the last of its operation. -/
def execAccumulatorUncorrectable (u : Nat) (s : State) : Out :=
  if 1536 ≤ u ∨ s.unitUp u = false then noOccasion "ACCUMULATOR_UNCORRECTABLE"
  else
    let x := s.unit u
    let s1 := s.modUnit u (fun x => { x with acc := [], accOwn := 0, latch := [] })
    let s2 := if x.accOwn = 0 then s1.countCorrected 6 (u / 384) else s1.deliverTrap x.accOwn ⟨0x09, w64 x.accOwn, 6, 0⟩
    let s3 := x.latch.foldl (fun s l =>
      match s.tileOp? l.2.op with
      | some op => if x.running.any (fun r => r.1 == op.id) then s else s.tileDone op none none
      | none => s) s2
    .next (x.latch.foldl (fun s l => s.wakeAcc u (some l.1)) (s3.wakeAcc u none))

/-- TILE_UNCORRECTABLE (R38, R413): the entry's GEN moves on, its KIND becomes 0, the space is scrubbed and free, and a
ring's deferred list is emptied in order. -/
def execTileUncorrectable (tenant index : Nat) (s : State) : Out :=
  match s.units.findSome? (fun x => match s.entryAt x.1 tenant 0 index none [1, 2] with | .ok t => some t | .error _ => none)
  with
  | none => noOccasion "TILE_UNCORRECTABLE"
  | some t =>
    let n := (if t.kind = 2 then t.slots else 1) * tileBytes t.fmt t.dim
    let s1 := (((s.writeEntry t 0 (freedWord (s.readEntry t 0))).freeSpace t).padWrite (t.base 0) (List.replicate n 0))
    let l := s1.ringList t.entry
    .next (l.foldl (fun s rq => s.ringLost rq) (s1.setRingList t.entry []))

end Sys2Proof.Machine
end

