-- ==== Sys2Proof/Machine/Fabric.lean ====
section
/-! DEFINITION. The channel fabric: graph images, processing elements and the transform of a group (R240-R244). -/

namespace Sys2Proof.Machine

/-! ## Images (R240, R241) -/

/-- Word i of an image. -/
def imageWord (img : List W64) (i : Nat) : W64 := nth img i 0
/-- IN of an image. -/
def imageIn (img : List W64) : Nat := bits (imageWord img 0) 0 4
/-- OUT of an image. -/
def imageOut (img : List W64) : Nat := bits (imageWord img 0) 8 4
/-- LAT of an image. -/
def imageLat (img : List W64) : Nat := bits (imageWord img 0) 16 6
/-- Whether an image permits a direction. -/
def imagePermits (img : List W64) (write : Bool) : Bool := bit (imageWord img 0) (if write then 25 else 24)
/-- TRANSFORM of an image. -/
def imageTransform (img : List W64) : Bool := bit (imageWord img 0) 26
/-- CLASS of an image. -/
def imageClass (img : List W64) : Nat := bits (imageWord img 0) 32 8
/-- The configuration word of PE(r, c). -/
def peWord (img : List W64) (r c : Nat) : W64 := imageWord img (8 + 8 * r + c)
/-- Byte a of lookup bank b. -/
def bankByte (img : List W64) (b a : Nat) : Nat := bits (imageWord img (72 + 32 * b + a / 8)) (a % 8 * 8) 8

/-- OP of a configuration word. -/
def peOp (p : W64) : Nat := bits p 60 4
/-- AUX of a configuration word. -/
def peAux (p : W64) : Nat := bits p 32 8
/-- SH of a configuration word. -/
def peSh (p : W64) : Nat := bits p 40 6
/-- The lane width of a configuration word. -/
def peWidth (p : W64) : Nat := 8 * 2 ^ bits p 46 2

/-! ## Which images a slot accepts (R244) -/

/-- The AUX values that an operation allows (R242). -/
def auxOk (op aux : Nat) : Bool :=
  match op with
  | 3 | 12 => decide (aux < 4)
  | 7 | 8 => decide (aux < 2)
  | 9 => decide (aux ≤ 12)
  | 10 => decide (aux < 16) && !(natBits aux 2 1 == 1 && natBits aux 1 1 == 1)
  | 13 => decide (aux ≤ 5)
  | _ => aux == 0

/-- Whether PE(r, c)'s word is legal (R242, R243, R244). -/
def peOk (p : W64) (r : Nat) : Bool :=
  !(bit p 48) && auxOk (peOp p) (peAux p) && (r == 0 || (bits p 57 3 != 4 && bits p 54 3 != 4)) &&
  (r == 7 || !(bit p 49)) && (peOp p != 9 || bits p 46 2 == 0) && (peOp p != 10 || bits p 46 2 == 1) &&
  (peOp p != 15 || (decide (1 ≤ peSh p) && decide (peSh p ≤ 32)))

/-- Whether an image breaks none of the rules of R244. -/
def imageOk (img : List W64) : Bool :=
  let h := imageWord img 0
  img.length == 512 && decide (1 ≤ imageIn img) && decide (imageIn img ≤ 8) && decide (1 ≤ imageOut img) &&
  decide (imageOut img ≤ 8) && bits h 4 4 == 0 && bits h 12 4 == 0 && bits h 22 2 == 0 && bits h 27 5 == 0 &&
  bits h 40 24 == 0 && (List.range 7).all (fun i => imageWord img (1 + i) == 0) &&
  (List.range 24).all (fun i => imageWord img (488 + i) == 0) &&
  (List.range 64).all (fun i => peOk (peWord img (i / 8) (i % 8)) (i / 8))

/-! ## Processing elements (R241, R242) -/

/-- A source of PE(r, c): res holds the results of the previous step, block the input block of this one. -/
def peSource (img : List W64) (res block : List W64) (r c sel : Nat) : W64 :=
  let p := peWord img r c
  let from' (r c route : Nat) : W64 := if bit (peWord img r c) route then nth res (8 * r + c) 0 else 0
  match sel with
  | 0 => if r = 0 then 0 else from' (r - 1) c 51
  | 1 => if c = 7 then 0 else from' r (c + 1) 50
  | 2 => if r = 7 then 0 else from' (r + 1) c 53
  | 3 => if c = 0 then 0 else from' r (c - 1) 52
  | 4 => nth block c 0
  | 5 => let w := peWidth p
         ofLanes w (64 / w) (fun _ => bits p 0 32)
  | 6 => nth res (8 * r + c) 0
  | _ => 0

/-- Group dequantise (R242): the scale and zero come whole from zs. -/
def peDequant (aux : Nat) (a zs : W64) : W64 :=
  let f := if natBits aux 3 1 = 1 then fp16 else bf16
  let int8 := natBits aux 2 1 == 1
  let q (i : Nat) : Nat := if int8 then bits a (32 * natBits aux 0 1 + 8 * i) 8 else bits a (16 * (aux % 4) + 4 * i) 4
  ofLanes 16 4 (fun i => dequantElem .rne f int8 (bits zs 0 32) (q i))

/-- Whether two lanes stand in the relation of AUX[2:0] (R242). -/
def peCompare (aux w x y : Nat) : Bool :=
  match aux % 8 with
  | 0 => x == y
  | 1 => x != y
  | 2 => decide (signed w x < signed w y)
  | 3 => decide (signed w x ≤ signed w y)
  | 4 => decide (x < y)
  | _ => decide (x ≤ y)

/-- The result of an operation other than delay (R242). -/
def peResult (img : List W64) (p a b : W64) : W64 :=
  let w := peWidth p
  let n := 64 / w
  let aux := peAux p
  let s := peSh p % w
  let less (i : Nat) : Bool :=
    if natBits aux 0 1 = 1 then decide (lane a w i < lane b w i) else decide (slane a w i < slane b w i)
  match peOp p with
  | 0 => ofLanes w n (fun i => lane a w i + lane b w i)
  | 1 => ofLanes w n (fun i => lane a w i + 2 ^ w - lane b w i)
  | 2 => ofLanes w n (fun i => lane a w i * lane b w i)
  | 3 => ofLanes w n (fun i =>
      if natBits aux 0 1 = 0 then lane a w i * 2 ^ s
      else if natBits aux 1 1 = 1 then patOf w (slane a w i / 2 ^ s) else lane a w i / 2 ^ s)
  | 4 => a &&& b
  | 5 => a ||| b
  | 6 => ofLanes w n (fun i => if natBits (lane b w i) (w - 1) 1 = 1 then lane a w i else bits p 0 32)
  | 7 => ofLanes w n (fun i => if less i then lane a w i else lane b w i)
  | 8 => ofLanes w n (fun i => if less i then lane b w i else lane a w i)
  | 9 => ofLanes 8 8 (fun i => bankByte img (aux % 16) (lane a 8 i))
  | 10 => peDequant aux a (if bits p 54 3 = 5 then w64 (bits p 0 32) else b)
  | 11 => vpack w n a b
  | 12 => ofLanes w n (fun i =>
      let v := lane a (w / 2) (i + n * natBits aux 0 1)
      if natBits aux 1 1 = 1 then patOf w (signed (w / 2) v) else v)
  | 13 => ofLanes w n (fun i => if peCompare aux w (lane a w i) (lane b w i) then 2 ^ w - 1 else 0)
  | _ => a

/-! ## Groups (R243) -/

/-- The array between two steps: the results, the A sources of earlier steps (latest first) and the output so far. -/
structure PeArray where
  res : List W64
  hist : List (List W64)
  out : List W64

/-- One step of the array. -/
def arrayStep (img : List W64) (ins outs : Nat) (input : List W64) (x : PeArray) (step : Nat) : PeArray :=
  let block := if step < ins then (input.drop (8 * step)).take 8 else []
  let as := (List.range 64).map (fun i => peSource img x.res block (i / 8) (i % 8) (bits (peWord img (i / 8) (i % 8)) 57 3))
  let res := (List.range 64).map (fun i =>
    let p := peWord img (i / 8) (i % 8)
    if peOp p = 15 then nth (nth x.hist (peSh p - 1) []) i 0
    else peResult img p (nth as i 0) (peSource img x.res block (i / 8) (i % 8) (bits p 54 3)))
  let lat := imageLat img
  { res := res
    hist := (as :: x.hist).take 32
    out := if lat ≤ step ∧ step - lat < outs then
        x.out ++ (List.range 8).map (fun c => if bit (peWord img 7 c) 49 then nth res (56 + c) 0 else 0)
      else x.out }

/-- The output words of a group of ins input blocks and outs output blocks (R243). -/
def graphGroup (img : List W64) (ins outs : Nat) (input : List W64) : List W64 :=
  ((List.range (max ins outs + imageLat img)).foldl (arrayStep img ins outs input) ⟨[], [], []⟩).out

/-- The input and output blocks of a group in a direction: on a write stream the window's group, OUT blocks, is the input
and its image in the region, IN blocks, the output (R247; log 18). -/
def groupBlocks (img : List W64) (write : Bool) : Nat × Nat :=
  if write then (imageOut img, imageIn img) else (imageIn img, imageOut img)

/-- Doublewords of bytes. -/
def toWords (bs : List Byte) : List W64 := (chunks 8 (bs.length / 8 + 1) bs).map (fun b => w64 (ofBytes b))

end Sys2Proof.Machine
end

