-- ==== Sys2Proof/Machine/EngineMem.lean ====
section
/-! DEFINITION. How engines reach memory, push, run and complete commands (R209-R213, R270-R275, R307, R356, R364, R398). -/

namespace Sys2Proof.Machine

/-! ## Element accesses (R271, R275, R356, R364, R392, R394, R398) -/

/-- An element access: what it yields, a translation miss, or the VA and cause with which the element faults. -/
inductive Access (α : Type) where
  | ok (s : State) (x : α)
  | miss (s : State) (va acc : Nat)
  | fault (s : State) (va : Nat) (cause : Byte)

/-- The translation of an engine's access: the entry, the physical address and its page. -/
def State.engAt (s : State) (c : Cmd) (va acc : Nat) : Except XFail (TlbEntry × Nat × PageAttr) :=
  match s.xlate c.unit c.tenant va acc with
  | .error f => .error f
  | .ok t =>
    let pa := t.addr va
    if isStack pa && !(s.hostBias pa) then
      if (s.pageRec (pa / 65536)).moved then .error (.fault 0x06) else .ok (t, pa, t.attr)
    else match peerOf pa with
      | some (d, off) =>
        if d = s.device then
          match s.inbound c.tenant off (acc == accWrite) with
          | some x => .error (.fault x)
          | none => .ok (t, off, s.inboundAttr off)
        else .ok (t, pa, t.attr)
      | none => .ok (t, pa, t.attr)

/-- The first page of a stretch that an access cannot use. -/
def State.engCheck (s : State) (c : Cmd) (acc : Nat) : Nat → Nat → Nat → Access PUnit
  | 0, _, _ => .ok s ⟨⟩
  | fuel + 1, va, n =>
    if n = 0 then .ok s ⟨⟩
    else match s.engAt c va acc with
      | .error .miss => .miss s va acc
      | .error (.fault x) => .fault s va x
      | .ok _ =>
        let k := min n (65536 - va % 65536)
        s.engCheck c acc fuel (addVa va k) (n - k)

/-- Pages that a stretch of n bytes can meet. -/
def pagesOf (n : Nat) : Nat := n / 65536 + 2

/-- Bytes read at their homes, block by block, each verified (R365). -/
def State.engReadN (s : State) (c : Cmd) (h : Hint) : Nat → Nat → Nat → Access (List Byte)
  | 0, _, _ => .ok s []
  | fuel + 1, va, n =>
    if n = 0 then .ok s []
    else match s.engAt c va accRead with
      | .error .miss => .miss s va accRead
      | .error (.fault x) => .fault s va x
      | .ok (t, pa, a) =>
        match s.verify pa a.kslot with
        | (s1, some x) => .fault s1 va x
        | (s1, none) =>
          let k := min n (64 - va % 64)
          let bs := Memory.readN s1.mem pa k
          match ((s1.touchTlb c.unit t).l2Access (s1.homeNow a pa) pa a.kslot a.tenant h).engReadN c h fuel (addVa va k) (n - k) with
          | .ok s2 m => .ok s2 (bs ++ m)
          | x => x

/-- n bytes from a VA. -/
def State.engRead (s : State) (c : Cmd) (va n : Nat) : Access (List Byte) := s.engReadN c plainHint (n / 64 + 2) va n

/-- Bytes of one block written at their home: the state, and whether the port holds the arrival (R215, R220).  A write to a
block that fails is discarded and reported (R364, R406). -/
def State.engBlock (s : State) (c : Cmd) (kind unit : Nat) (h : Hint) (pa : Nat) (a : PageAttr) (bs : List Byte) :
    State × Bool :=
  match s.arrive (.slice (s.homeNow a pa)) (a.trace && isStack pa) a.kslot ⟨kind, s.device, unit, a.tenant, pa, bs.length⟩ c.id with
  | .hold s1 => (s1, true)
  | .perform s1 =>
    let r := s1.homeStore (s1.homeNow a pa) a h (cellsAt pa bs)
    let s2 := if r.2.isSome then r.1.notice 0x04 0 [0, w64 pa, 0] else r.1
    ((s2.tellPeer pa (peerStore pa bs)).dropClean c.unit pa bs.length, false)

/-- How far a write came: done, or where a miss, a fault or a port stopped it, with the bytes left. -/
inductive Written where
  | done (s : State)
  | miss (s : State) (va : Nat) (left : List Byte)
  | fault (s : State) (va : Nat) (cause : Byte) (left : List Byte)
  | hold (s : State) (va : Nat) (left : List Byte)

/-- Bytes written at their homes, block by block. -/
def State.engWriteN (s : State) (c : Cmd) (kind unit : Nat) (h : Hint) : Nat → Nat → List Byte → Written
  | 0, _, _ => .done s
  | fuel + 1, va, bs =>
    match bs with
    | [] => .done s
    | _ =>
      match s.engAt c va accWrite with
      | .error .miss => .miss s va bs
      | .error (.fault x) => .fault s va x bs
      | .ok (t, pa, a) =>
        let k := 64 - va % 64
        match s.engBlock c kind unit h pa a (bs.take k) with
        | (s1, true) => .hold s1 va bs
        | (s1, false) => (s1.touchTlb c.unit t).engWriteN c kind unit h fuel (addVa va k) (bs.drop k)

/-- Bytes written from a VA. -/
def State.engWrite (s : State) (c : Cmd) (kind unit : Nat) (h : Hint) (va : Nat) (bs : List Byte) : Written :=
  s.engWriteN c kind unit h (bs.length / 64 + 2) va bs

/-! ## A run of a command (R213, R271, R273, R275) -/

/-- How far a command came in an event: elements before e performed and more to do; its end with a completion word; a fault
of element e; a miss at element e; a port that holds an arrival of element e. -/
inductive Run where
  | more (s : State) (e : Nat)
  | done (s : State) (word : W64)
  | fault (s : State) (e va : Nat) (cause : Byte)
  | miss (s : State) (e va acc : Nat)
  | hold (s : State) (e : Nat)

/-- Elements performed one after another, at most fuel of them. -/
def engLoop (f : State → Nat → Run) : Nat → State → Nat → Run
  | 0, s, e => .more s e
  | n + 1, s, e => match f s e with
    | .more s1 e1 => engLoop f n s1 e1
    | r => r

/-- A status with a RESIDUAL (R273). -/
def statusWord (status residual : Nat) : W64 := w64 (residual * 2 ^ 24 + status)
/-- The completion word of a hand-back (R273, R275). -/
def handWord (residual : Nat) (cause : Byte) (bounds : Bool) : W64 :=
  w64 (residual * 2 ^ 24 + cause.toNat * 2 ^ 16 + b2n bounds * 256 + 1)

/-- Rows of the tile or ring of a COPY.T, as its handle gave them at the push. -/
def Cmd.rows (c : Cmd) : Nat := (nth c.desc 0 0).toNat

/-- The elements that RESIDUAL counts (R273, R278, R280-R282). -/
def Cmd.total (c : Cmd) : Nat :=
  match c.op with
  | .copy => bits c.c 0 40
  | .copyT => c.rows
  | .gath | .gathii | .scat => bits c.c 32 24
  | .graphLoad _ | .streamOpen => c.c.toNat
  | .streamClose => 0
  | .collAr | .collBc => bits c.c 0 32
  | .kvEvict => c.elem
  | .cpf | .pinFetch =>
    if c.b = 0 then 0 else (va56 c.a + c.b.toNat - 1) / 64 - va56 c.a / 64 + 1

/-- The command after a fault, with what its RESIDUAL counts. -/
def Cmd.handed (c : Cmd) (residual va : Nat) (cause : Byte) : Cmd :=
  { c with phase := .handed (handWord residual cause c.bounds) (w64 va) (w64 residual), plan := [] }

/-- A miss of a command sent to the TSU of its unit's cluster (R271, R357). -/
def State.engMiss (s : State) (c : Cmd) (va acc : Nat) : State :=
  s.post (.miss ⟨.cmd c.id, c.unit, c.unit / 96, c.tenant, w64 va, acc, 0⟩)

/-- What an event leaves of a command's run; one that changes nothing has no occasion. -/
def State.afterRun (s0 : State) (name : String) (c : Cmd) (r : Run) : Out :=
  match r with
  | .more s e => .next (s.modCmd c.id (fun c => { c with elem := e }))
  | .done s w => .next (s.modCmd c.id (fun c => { c with phase := .ended w, plan := [] }))
  | .fault s e va x => .next (s.modCmd c.id (fun c => c.handed (c.total - e) va x))
  | .miss s e va acc => .next ((s.modCmd c.id (fun c => { c with elem := e })).engMiss c va acc)
  | .hold s e =>
    let s1 := s.modCmd c.id (fun c => { c with elem := e })
    if s1 = s0 then noOccasion name else .next s1

/-- The stretches of addresses that a command may touch, as (VA, bytes), each table of a gather within its bounds (R210, R256, R259, R277 to
R281, R284); none where its words do not bound them: a stream's window, whose region lies elsewhere, or a KV.EVICT, whose pages its
descriptor's tables name. -/
def Cmd.stretches (c : Cmd) : Option (List (Nat × Nat)) :=
  let word := if va56 c.d = 0 then [] else [(va56 c.d, 8)]
  let n := bits c.c 32 24
  let esz := 2 ^ bits c.c 0 2
  let dw (i : Nat) : Nat := (nth c.desc i 0).toNat
  let mem := va56 (if bit c.c 63 then c.b else c.a)
  match c.op with
  | .copy =>
    if isWindow (va56 c.a) || isWindow (va56 c.b) then none
    else some (word ++ [(va56 c.a, bits c.c 0 40), (va56 c.b, bits c.c 0 40)])
  | .copyT =>
    if isWindow mem then none
    else some (word ++ (List.range c.rows).map (fun i => (addVa mem (i * bits c.c 0 32), 256)))
  | .gath | .gathii | .scat =>
    some (word ++ [(dw 0 % 2 ^ 56, dw 1 % 2 ^ 32 * esz), (dw 2 % 2 ^ 56, n * 8), (va56 c.b, n * esz)] ++
      (if c.op = .gathii then [(dw 3 % 2 ^ 56, dw 4 % 2 ^ 32 * 8)] else []))
  | .graphLoad _ => some (word ++ [(va56 c.a, 4096)])
  | .streamOpen => some (word ++ [(va56 c.a, c.c.toNat)])
  | .streamClose => some word
  | .collAr | .collBc => some (word ++ [(va56 c.b, 4 * bits c.c 0 32)])
  | .kvEvict => none
  | .cpf | .pinFetch => some (word ++ [(va56 c.a, c.b.toNat)])

/-- Whether a command may touch one of n pages (R396; log 54). -/
def State.cmdTouches (s : State) (c : Cmd) (first n : Nat) : Bool :=
  match c.stretches with
  | none => s.mapsPages c.tenant first n
  | some l => l.any (fun x => s.mapsTo c.tenant x.1 x.2 first n)

/-- Whether a command can start or go on: the release half of its push is complete, no command of its fence is outstanding,
none before it in its queue is still to be performed, no miss of it is under way, and no change placed before its push is to a page
that it may touch (R209-R212, R271, R281, R396). -/
def State.canRun (s : State) (c : Cmd) : Bool :=
  !s.faulted && s.released c.unit c.id &&
  s.wire.all (fun m => decide (c.id < m.1) || (match m.2 with
    | .sync rq => rq.ctx != c.ctx
    | .moonlet v _ _ _ _ _ _ => v != c.ctx
    | .frameInc v _ _ _ _ => v != c.ctx
    | m => match m.pagesChanged with
      | some (p, k) => !(s.cmdTouches c p k)
      | none => true)) &&
  s.cmds.all (fun x => !(c.deps.contains x.id) &&
    !(x.unit == c.unit && x.queue == c.queue && decide (x.id < c.id) && (match x.phase with
      | .ended _ | .handed _ _ _ | .draining => false
      | _ => true))) &&
  !(s.missing (.cmd c.id))

/-! ## The push (R20, R209, R212, R270, R272) -/

/-- The ids of outstanding commands that the fences of a context order before a push into a queue (R212). -/
def State.fenceDeps (s : State) (b : Book) (q : Nat) : List Nat :=
  (s.cmds.filter (fun c => b.fences.any (fun f => f.1.getLsbD q && f.2.contains c.id))).map (fun c => c.id)

/-- Commands of a queue of a unit: 16 entries (R12). -/
def State.queueUsed (s : State) (u q : Nat) : Nat := (s.cmds.filter (fun c => c.unit == u && c.queue == q)).length

/-- A command to push. -/
structure Push where
  op : EngOp
  queue : Nat
  a : W64
  b : W64
  c : W64
  d : W64
  desc : List W64

/-- The push of a command (R270): held by a fence across units or devices, by a full ENGS or by a full queue, or done.  p30 says what the
instruction writes there when it is done, and tri that it never waits. -/
def State.push (s : State) (e : Env) (p : Push) (tri p30 : Bool) (f : State → State) : Except Stop State :=
  let deps := s.fenceDeps e.book p.queue
  let foreign := s.cmds.any (fun c => deps.contains c.id && c.unit != e.u) ||
    e.book.fences.any (fun f => f.1.getLsbD p.queue && f.2.any (fun i => decide (2 ^ 48 ≤ i)))
  let refuse : Except Stop State := .ok (s.setCtx e.va ⟨(e.line.setP 30#5 false).advance, e.book⟩)
  if foreign then (if tri then refuse else .error (.waste (.counters 0x00400000)))
  else if 63 ≤ e.line.engs then (if tri then refuse else .error (.waste (.counters fullEngs)))
  else if 16 ≤ s.queueUsed e.u p.queue then (if tri then refuse else .error (.park (.queue p.queue) (fun s => s)))
  else
    let l := if p30 then e.line.setP 30#5 true else e.line
    let s1 := (f (s.setCtx e.va ⟨{ l with engs := l.engs + 1 }.advance, e.book⟩)).release e.u none
    let c : Cmd := ⟨s1.nextId, p.op, e.va, e.u, p.queue, e.line.tenant, p.a, p.b, p.c, p.d, p.desc, deps, .queued, 0, false,
      none, [], 0, false⟩
    .ok { s1 with cmds := s1.cmds ++ [c], nextId := s1.nextId + 1 }

/-- A check of an alignment (R270): the offending value is named. -/
def alignAt (v : W64) (n : Nat) : Except Stop PUnit :=
  if va56 v % n ≠ 0 then .error (.trap 0x03 (w64 (va56 v)) 0) else .ok ⟨⟩

/-! ## Completion (R210, R272, R275, R307) -/

/-- The context that has waited longest for an entry of a queue of a unit (R307). -/
def State.queueWaiter (s : State) (u q : Nat) : Option Nat :=
  (s.lines.foldl (fun (best : Option (Nat × Nat)) c =>
    if c.2.line.st = .waiting ∧ c.2.line.wait = .queue q ∧ c.2.book.ranOn = some u then
      match best with
      | none => some (c.1, c.2.book.stamp)
      | some b => if c.2.book.stamp < b.2 then some (c.1, c.2.book.stamp) else best
    else best) none).map (fun r => r.1)

/-- Pages under compaction that a KV.EVICT marked: their VAs (R185). -/
def Cmd.marks (c : Cmd) : List Nat :=
  match c.op with
  | .kvEvict => (c.desc.drop 8).map (fun p => addVa (va56 (nth c.desc 0 0)) (p.toNat * pageBytes))
  | _ => []

/-- The marks of a compaction ended, and every waiter on one of its pages READY (R186, R307). -/
def State.unmark (s : State) (c : Cmd) : State :=
  match c.marks with
  | [] => s
  | ps =>
    let s1 := { s with pagesUnder := ps.foldl (fun l p => l.erase (p, c.tenant)) s.pagesUnder }
    s1.lines.foldl (fun s x =>
      match x.2.line.wait with
      | .page m =>
        if x.2.line.st = .waiting ∧ x.2.line.tenant = c.tenant ∧ ps.any (fun p => addVa p 0x4000 == va56 m) then
          s.makeReady x.1
        else s
      | _ => s) s1

/-- The end of a command at its context's line: ENGS down by one, on whichever device the line is (R272), whose fences no longer name it
(R212). -/
def State.cmdReply (s : State) (va id : Nat) : State :=
  (s.forward va [6, w64 (s.farCmd id)]).getD (s.modCtx va (fun c =>
    { line := { c.line with engs := c.line.engs - 1 },
      book := if id < 2 ^ 48 then c.book
        else { c.book with fences := c.book.fences.map (fun f => (f.1, f.2.filter (fun i => i != id))) } }))

/-- The end of a command once its completion word is dealt with (R272, R275): ENGS down by one at the line, the trap
delivered, the entry freed, and one waiter for the queue READY. -/
def State.freeCmd (s : State) (c : Cmd) (t : Option DTrap) : State :=
  let s1 := ({ s with cmds := s.cmds.filter (fun x => x.id != c.id) }).unmark c
  let s2 := s1.cmdReply c.ctx c.id
  let s3 := (match t with | some t => s2.deliverTrap c.ctx t | none => s2).wake c.ctx
  match s3.queueWaiter c.unit c.queue with
  | some va => s3.makeReady va
  | none => s3

/-- A completion-word FILL performed at its home (R210, R262): the word, its bit, and the deferred list served. -/
def State.fillWord (s0 : State) (c : Cmd) (a : PageAttr) (pa : Nat) (word : W64) : State :=
  let s := (s0.l2Yield pa).tellPeer pa [2, w64 SyncOp.fill.code, w64 pa, word]
  match s.storeBlock a.kslot (cellsAt pa (bytesOf word.toNat 8)) with
  | (s1, some _) => s1.notice 0x04 0 [0, w64 pa, 0]
  | (s1, none) => ((s1.setFull pa true).dropClean c.unit pa 8).serveWord pa

/-- The completion of a command (R272): the FILL, then the rest.  A d of zero, or a translation that fails, means no FILL. -/
def State.completeCmd (s : State) (name : String) (c : Cmd) (word : W64) (t : Option DTrap) : Out :=
  if s.faulted || s.missing (.cmd c.id) then noOccasion name
  else if va56 c.d = 0 then .next (s.freeCmd c t)
  else match s.xlate c.unit c.tenant (va56 c.d) accRmw with
    | .error .miss => .next (s.engMiss c (va56 c.d) accRmw)
    | .error (.fault _) => .next (s.freeCmd c t)
    | .ok e =>
      match s.wordHome c.tenant (e.addr (va56 c.d)) with
      | .error _ => .next (s.freeCmd c t)
      | .ok (_, pa) =>
        let a := s.homeAttr e pa
        if isStack pa && (s.pageRec (pa / 65536)).moved then .next (s.freeCmd c t)
        else
          match s.arrive (.stack (stackOf pa)) (a.trace && isStack pa) a.kslot ⟨5, s.device, c.unit, a.tenant, pa, 8⟩ c.id with
          | .hold s1 => if s1 = s then noOccasion name else .next s1
          | .perform s1 => .next (((s1.touchTlb c.unit e).fillWord c a pa word).freeCmd c t)

/-- ENGINE_COMPLETE (R272). -/
def execEngineComplete (id : Nat) (s : State) : Out :=
  match s.cmd? id with
  | none => noOccasion "ENGINE_COMPLETE"
  | some c => match c.phase with
    | .ended w => s.completeCmd "ENGINE_COMPLETE" c w none
    | _ => noOccasion "ENGINE_COMPLETE"

/-- ENGINE_HAND_BACK (R275). -/
def execEngineHandBack (id : Nat) (s : State) : Out :=
  match s.cmd? id with
  | none => noOccasion "ENGINE_HAND_BACK"
  | some c => match c.phase with
    | .handed w va detail => s.completeCmd "ENGINE_HAND_BACK" c w (some ⟨0x0E, va, detail, 0⟩)
    | _ => noOccasion "ENGINE_HAND_BACK"

end Sys2Proof.Machine
end

