-- ==== Sys2Proof/Machine/Engines.lean ====
section
/-! DEFINITION. The engine instructions and the runs of COPY, COPY.T, GATH, GATHII, SCAT, GRAPH.LOAD, STREAM.OPEN,
STREAM.CLOSE, CPF and PIN (R234-R237, R245-R247, R254, R256, R259, R277-R283, R287). -/

namespace Sys2Proof.Machine

/-! ## Instructions (R64, R270, R277-R284) -/

/-- The four command words of an engine instruction, pushed (R270). -/
def State.pushWords (s : State) (e : Env) (op : EngOp) (q : Nat) (a b c d : Reg) (desc : List W64) (tri : Bool)
    (f : State → State) : Except Stop State :=
  s.push e ⟨op, q, e.line.reg a, e.line.reg b, e.line.reg c, e.line.reg d, desc⟩ tri tri f

/-- A descriptor read at push (R270): 64-byte aligned, its doublewords. -/
def State.readDesc (s : State) (e : Env) (v : W64) (n : Nat) : Except Stop (State × List W64) :=
  match s.issueBytes e (va56 v) n with
  | .error x => .error x
  | .ok (s1, bs) => .ok (s1, toWords bs)

/-- COPY (R277). -/
def execCopy (g : Guard) (a b c d : Reg) (q1 tri : Bool) (s : State) : Out :=
  .next (s.issueWith g false false [a, b, c, d] (fun e s => do
    let _ ← alignAt (e.line.reg d) 8
    s.pushWords e .copy (b2n q1) a b c d [] tri (fun s => s)))

/-- COPY.T (R278): the memory VA, the stride and the completion word are multiples of 8, the handle a tile's or a ring's. -/
def execCopyT (g : Guard) (a b c d : Reg) (q1 tri : Bool) (s : State) : Out :=
  .next (s.issueWith g false false [a, b, c, d] (fun e s => do
    let dir := bit (e.line.reg c) 63
    let mem := if dir then e.line.reg b else e.line.reg a
    let h := if dir then e.line.reg a else e.line.reg b
    let _ ← alignAt mem 8
    let _ ← alignAt (w64 (bits (e.line.reg c) 0 32)) 8
    let _ ← alignAt (e.line.reg d) 8
    let t ← s.handleAt e h [1, 2]
    s.pushWords e .copyT (b2n q1) a b c d [w64 t.dim] tri (fun s => s.touchHandle e h)))

/-- GATH, GATHII and SCAT (R279). -/
def gatherBody (op : EngOp) (a b c d : Reg) (tri : Bool) (e : Env) (s : State) : Except Stop State := do
  let _ ← alignAt (e.line.reg a) 64
  let _ ← alignAt (e.line.reg b) (2 ^ bits (e.line.reg c) 0 2)
  let _ ← alignAt (e.line.reg d) 8
  let (s1, ws) ← s.readDesc e (e.line.reg a) 64
  s1.pushWords e op 2 a b c d ws tri (fun s => s)
/-- GATH (R279). -/
def execGath (g : Guard) (a b c d : Reg) (tri : Bool) (s : State) : Out :=
  .next (s.issueWith g false false [a, b, c, d] (gatherBody .gath a b c d tri))
/-- GATHII (R279). -/
def execGathii (g : Guard) (a b c d : Reg) (tri : Bool) (s : State) : Out :=
  .next (s.issueWith g false false [a, b, c, d] (gatherBody .gathii a b c d tri))
/-- SCAT (R279). -/
def execScat (g : Guard) (a b c d : Reg) (tri : Bool) (s : State) : Out :=
  .next (s.issueWith g false false [a, b, c, d] (gatherBody .scat a b c d tri))

/-- GRAPH.LOAD, GRAPH.LOAD.F and STREAM.OPEN (R281): the image's or region's VA is 64-byte aligned. -/
def graphBody (op : EngOp) (a b c d : Reg) (tri : Bool) (e : Env) (s : State) : Except Stop State := do
  let _ ← alignAt (e.line.reg a) 64
  let _ ← alignAt (e.line.reg d) 8
  s.pushWords e op 3 a b c d [] tri (fun s => s)
/-- GRAPH.LOAD (R281). -/
def execGraphLoad (g : Guard) (a b c d : Reg) (tri : Bool) (s : State) : Out :=
  .next (s.issueWith g false false [a, b, c, d] (graphBody (.graphLoad false) a b c d tri))
/-- GRAPH.LOAD.F (R281). -/
def execGraphLoadF (g : Guard) (a b c d : Reg) (tri : Bool) (s : State) : Out :=
  .next (s.issueWith g false false [a, b, c, d] (graphBody (.graphLoad true) a b c d tri))
/-- STREAM.OPEN (R281). -/
def execStreamOpen (g : Guard) (a b c d : Reg) (tri : Bool) (s : State) : Out :=
  .next (s.issueWith g false false [a, b, c, d] (graphBody .streamOpen a b c d tri))
/-- STREAM.CLOSE (R281, R283). -/
def execStreamClose (g : Guard) (a b c d : Reg) (tri : Bool) (s : State) : Out :=
  .next (s.issueWith g false false [a, b, c, d] (fun e s => do
    let _ ← alignAt (e.line.reg d) 8
    s.pushWords e .streamClose 3 a b c d [] tri (fun s => s)))

/-- COLL.AR and COLL.BC (R284). -/
def collBody (op : EngOp) (a b c d : Reg) (tri : Bool) (e : Env) (s : State) : Except Stop State := do
  let _ ← alignAt (e.line.reg a) 64
  let _ ← alignAt (e.line.reg b) 4
  let _ ← alignAt (e.line.reg d) 8
  let (s1, ws) ← s.readDesc e (e.line.reg a) 64
  s1.pushWords e op 4 a b c d ws tri (fun s => s)
/-- COLL.AR (R284). -/
def execCollAr (g : Guard) (a b c d : Reg) (tri : Bool) (s : State) : Out :=
  .next (s.issueWith g false false [a, b, c, d] (collBody .collAr a b c d tri))
/-- COLL.BC (R284). -/
def execCollBc (g : Guard) (a b c d : Reg) (tri : Bool) (s : State) : Out :=
  .next (s.issueWith g false false [a, b, c, d] (collBody .collBc a b c d tri))

/-- KV.EVICT: gd is the completion word's VA, ga the descriptor's, gb the mark (R184). -/
def execKvEvict (g : Guard) (d a b : Reg) (s : State) : Out :=
  .next (s.issueWith g false false [d, a, b] (fun e s => do
    let _ ← alignAt (e.line.reg a) 64
    let _ ← alignAt (e.line.reg d) 8
    if e.line.tiles ≠ 0 then .error (.waste (.counters 0x40000000))
    else s.push e ⟨.kvEvict, 5, e.line.reg a, e.line.reg b, 0, e.line.reg d, []⟩ false false (fun s => s)))

/-- CPF (R256). -/
def execCpf (g : Guard) (a : Reg) (s : State) : Out :=
  .next (s.issueWith g false false [a] (fun e s => do
    let _ ← alignAt (e.line.reg a) 8
    let (s1, ws) ← s.readDesc e (e.line.reg a) 32
    let _ ← alignAt (nth ws 3 0) 8
    s1.push e ⟨.cpf, 6, nth ws 0 0, nth ws 1 0, nth ws 2 0, nth ws 3 0, []⟩ false false (fun s => s)))

/-! ## Pin windows (R235-R237, R259) -/

/-- Whether two stretches of addresses meet. -/
def stretchesMeet (a n b m : Nat) : Bool := decide (a < b + m) && decide (b < a + n)

/-- Whether PIN refuses a window for its words or its quota (R236): ws are the descriptor's words, v the way mask.  Addresses count
without their byte [63:56] (R353). -/
def State.pinRefused (s : State) (tenant : Nat) (ws : List W64) (v : W64) : Bool :=
  let base := (nth ws 0 0).toNat
  let len := (nth ws 1 0).toNat
  let num := bits (nth ws 2 0) 0 4
  let others := (s.tenant tenant).pins.filter (fun p => p.num != num)
  base % 65536 != 0 || len == 0 || len % 65536 != 0 || bits (nth ws 2 0) 4 60 != 0 || nth ws 3 0 != 0 ||
  bits v 12 52 != 0 || bits v 0 12 == 0 || others.any (fun p => stretchesMeet (base % 2 ^ 56) len (p.base % 2 ^ 56) p.len) ||
  decide ((s.tenant tenant).pinq < (others.foldl (fun n p => n + p.len) len) / 65536)

/-- What the translation of one page of a window gives (R236, R248, R259): its physical page and key slot, a page that is left out, or a
TRANSFORMED page, which refuses the window. -/
inductive PinPage where
  | page (pa kslot : Nat)
  | left
  | refused
  deriving DecidableEq, Repr

/-- The page of an entry as a PIN takes it: left out where it cannot be read, has moved, or is no page of stack memory. -/
def State.pinPage (s : State) (t : TlbEntry) (tenant va : Nat) : PinPage :=
  let pa := t.addr va
  if t.transformed then .refused
  else match s.checkEntry t tenant va accRead with
    | .error _ => .left
    | .ok _ =>
      if !(isStack pa) || s.hostBias pa || (s.pageRec (pa / 65536)).moved then .left else .page (pa / 65536) t.kslot

/-- The n pages of a window from a VA on, looked up as PIN issues (R248, R259), each as its virtual and physical page and its key slot;
none where one is TRANSFORMED.  A page that the TSU found for this PIN, or reported as absent, is known from then on; the first
that is neither known nor in the unit's TLB is missed. -/
def State.pinPages (s : State) (u tenant : Nat) (b : Book) : Nat → Nat → Except Nat (Option (List (Nat × Nat × Nat)))
  | 0, _ => .ok (some [])
  | n + 1, va =>
    let known : Option PinPage :=
      match (s.unit u).tlb.find? (fun t => t.covers tenant va) with
      | some t => some (s.pinPage t tenant va)
      | none => match b.found.find? (fun f => f.1 == va / 65536) with
        | some f => some (.page f.2.1 f.2.2)
        | none => if b.absent.contains (va / 65536) then some .left else none
    match known with
    | none => .error va
    | some .refused => .ok none
    | some .left => s.pinPages u tenant b n (addVa va 65536)
    | some (.page p k) => match s.pinPages u tenant b n (addVa va 65536) with
      | .ok (some ps) => .ok (some ((va / 65536, p, k) :: ps))
      | r => r

/-- The lines of a window's pages unpinned (R236, R237). -/
def State.unpinPages (s : State) (pages : List Nat) : State :=
  match pages with
  | [] => s
  | _ =>
    { s with hstacks := s.hstacks.map (fun k => (k.1, { k.2 with
        msc := k.2.msc.map (fun m => (m.1, m.2.map (fun l =>
          if pages.contains (l.line / 1024) then { l with pinned := false } else l))) })) }

/-- The lines of one page that a memory-side cache already holds, pinned from the moment PIN translates the page (R236), while the set
holds fewer than twelve pinned lines (R237; log 68). -/
def State.pinPresent (s : State) (page : Nat) : State :=
  let pinSet (ls : List MscLine) : List MscLine :=
    ls.foldl (fun out l =>
      if l.line / 1024 = page ∧ (out.filter (fun x => x.pinned)).length < 12 then
        out.map (fun x => if x.way = l.way then { x with pinned := true } else x)
      else out) ls
  s.modStack (stackOf (page * 65536)) (fun k => { k with
    msc := k.msc.map (fun m => (m.1, if m.2.any (fun l => l.line / 1024 == page) then pinSet m.2 else m.2)) })

/-- A window ended (R236, R237). -/
def State.endWindow (s : State) (tenant num : Nat) : State :=
  let old := (s.tenant tenant).pins.filter (fun p => p.num == num)
  (s.modTenant tenant (fun t => { t with pins := t.pins.filter (fun p => p.num != num) })).unpinPages
    ((old.flatMap (fun p => p.pages)).map (fun x => x.2))

/-- The pages of a tenant's windows that satisfy a test lose their pinning, the windows keeping their lengths (R237). -/
def State.losePins (s : State) (tenant : Nat) (p : Nat → Nat → Bool) : State :=
  let lost := ((s.tenant tenant).pins.flatMap (fun w => w.pages)).filter (fun x => p x.1 x.2)
  match lost with
  | [] => s
  | _ => (s.modTenant tenant (fun t => { t with
      pins := t.pins.map (fun w => { w with pages := w.pages.filter (fun x => !(p x.1 x.2)) }) })).unpinPages
        (lost.map (fun x => x.2))

/-- PIN (R235, R236, R248, R259).  It translates every page of the window once as it issues: a TRANSFORMED one refuses it, and one that is
absent or not readable is left out.  From then on the lines of the pages found are pinned. -/
def execPin (g : Guard) (a v : Reg) (s : State) : Out :=
  .next (s.issueWith g false false [a, v] (fun e s => do
    let _ ← alignAt (e.line.reg a) 8
    let (s1, ws) ← s.readDesc e (e.line.reg a) 32
    let m := e.line.reg v
    let clear (b : Book) : Book := { b with absent := [], found := [] }
    let refuse : Except Stop State := .ok (s1.setCtx e.va ⟨(e.line.setP 30#5 false).advance, clear e.book⟩)
    if s1.pinRefused e.line.tenant ws m then refuse
    else match s1.pinPages e.u e.line.tenant e.book ((nth ws 1 0).toNat / 65536) (va56 (nth ws 0 0)) with
    | .error va => .error (.miss (w64 va) accRead e.line.tenant)
    | .ok none => refuse
    | .ok (some ps) =>
      let num := bits (nth ws 2 0) 0 4
      let w : PinWin := ⟨num, (nth ws 0 0).toNat, (nth ws 1 0).toNat, m.setWidth 12, ps.map (fun x => (x.1, x.2.1))⟩
      s1.push e ⟨.pinFetch, 6, nth ws 0 0, nth ws 1 0, w64 num, 0, ps.flatMap (fun x => [w64 x.1, w64 x.2.1, w64 x.2.2])⟩ false true
        (fun s =>
          let s2 := ((List.range ((nth ws 1 0).toNat / 65536)).foldl (fun s i =>
            s.touchPage e.u e.line.tenant (addVa (va56 (nth ws 0 0)) (i * 65536))) (s.endWindow e.line.tenant num)).modBook e.va clear
          ps.foldl (fun s x => s.pinPresent x.2.1) (s2.modTenant e.line.tenant (fun t => { t with pins := t.pins ++ [w] })))))

/-- UNPIN (R64, R237, R259): it acts at once; a number not in use does nothing. -/
def execUnpin (g : Guard) (a : Reg) (s : State) : Out :=
  .next (s.issueWith g false false [a] (fun e s =>
    .ok ((s.endWindow e.line.tenant (bits (e.line.reg a) 0 4)).setCtx e.va ⟨e.line.advance, e.book⟩)))

/-! ## QFENCE, WAITC, WLIM (R212, R276, R287) -/

/-- QFENCE (R212, R287). -/
def execQfence (g : Guard) (mask : BitVec 7) (s : State) : Out :=
  .next (s.issueWith g false false [] (fun e s =>
    let ids := (s.cmds.filter (fun c => c.ctx == e.va)).map (fun c => c.id) ++ e.book.farCmds
    let live := e.book.fences.filter (fun f => s.cmds.any (fun c => f.2.contains c.id) || f.2.any (fun i => decide (2 ^ 48 ≤ i)))
    let fs := if mask = 0 ∨ ids.isEmpty then live else live ++ [(mask, ids)]
    .ok (s.setCtx e.va ⟨e.line.advance, { e.book with fences := fs }⟩)))

/-- WAITC (R276, R287): it parks at once; a return that counted ENGS or TILES invalidates. -/
def execWaitc (g : Guard) (a : Reg) (s : State) : Out :=
  .next (s.issueWith g false false [a] (fun e s =>
    let cond : W32 := (e.line.reg a).setWidth 32
    if !(e.line.meets cond) then .error (.park (.counters cond) (fun s => s))
    else
      let s1 := if cond.getLsbD 22 || cond.getLsbD 30 then s.invalidate e.u else s
      .ok (s1.setCtx e.va ⟨e.line.advance, e.book⟩)))

/-- WLIM (R268, R287): not local to a CIU. -/
def execWlim (g : Guard) (a : Reg) (s : State) : Out :=
  .next (s.issueLineHome g [a] (fun l => { l with wlimit := (l.reg a).setWidth 16 }.advance))

/-! ## Stream windows (R246, R247, R282, R283) -/

/-- Stack, stream number and offset of a window VA. -/
def windowOf (va : Nat) : Nat × Nat × Nat :=
  let w := (va - 0xF0000000000000) / 2 ^ 36
  (w / 64, w % 64, va % 2 ^ 36)

/-- The open stream of a tenant at a window VA, with its slot, if its generation is the slot's (R247). -/
def State.streamAt (s : State) (tenant va : Nat) : Option (Stream × GraphSlot) :=
  let w := windowOf va
  match (s.stack w.1).streams.find? (fun x => x.k == w.2.1 && x.tenant == tenant) with
  | none => none
  | some x => match Assoc.get (s.stack w.1).graphs x.slot with
    | some g => if g.loaded ∧ g.gen = x.gen then some (x, g) else none
    | none => none

/-- The stream of a command under way: none once it was closed, though its number may be open again (R283). -/
def State.streamOf (s : State) (c : Cmd) (va : Nat) : Option (Stream × GraphSlot) := if c.closed then none else s.streamAt c.tenant va

/-- Bytes of a stream's window (R246). -/
def windowLen (x : Stream) (g : GraphSlot) : Nat := x.len * imageOut g.image / imageIn g.image

/-- The physical address and page of byte o of a stream's region. -/
def Stream.at' (x : Stream) (o : Nat) : Nat × PageAttr :=
  let p := nth x.pages ((x.first + o) / 65536) (0, ⟨0, 0, 0, false, false⟩)
  (p.1 + (x.first + o) % 65536, p.2)

/-- Blocks of a region read and verified, from byte o on. -/
def State.regionRead (s : State) (x : Stream) : Nat → Nat → State × Except Byte (List Byte)
  | 0, _ => (s, .ok [])
  | n + 1, o =>
    let p := x.at' o
    match s.verify p.1 p.2.kslot with
    | (s1, some c) => (s1, .error c)
    | (s1, none) =>
      match s1.regionRead x n (o + 64) with
      | (s2, .ok bs) => (s2, .ok (Memory.readN s1.mem p.1 64 ++ bs))
      | r => r

/-- Output group k of a read stream (R247). -/
def State.readGroup (s : State) (x : Stream) (g : GraphSlot) (k : Nat) : State × Except Byte (List Byte) :=
  let b := groupBlocks g.image false
  match s.regionRead x b.1 (k * b.1 * 64) with
  | (s1, .ok bs) => (s1, .ok (wordsBytes (graphGroup g.image b.1 b.2 (toWords bs))))
  | r => r

/-- Blocks written to a region from byte o on: the blocks written, and whether a port holds the next (R220). -/
def State.regionWrite (s : State) (c : Cmd) (x : Stream) (h : Hint) : List (List Byte) → Nat → Nat → State × Nat × Bool
  | [], _, n => (s, n, false)
  | b :: m, o, n =>
    let p := x.at' o
    match s.engBlock c 2 c.unit h p.1 p.2 b with
    | (s1, true) => (s1, n, true)
    | (s1, false) => s1.regionWrite c x h m (o + 64) (n + 1)

/-! ## COPY (R277) -/

/-- The hints of the writes of a COPY. -/
def Cmd.copyHint (c : Cmd) : Hint := ⟨(c.c.setWidth 64).extractLsb' 40 2, bit c.c 42⟩

/-- Bytes moved between two VAs as one piece (R271, R277): no longer than keeps a forward copy of overlapping bytes exact. -/
def State.copyPiece (s : State) (c : Cmd) (len e : Nat) : Run :=
  if len ≤ e then .done s 0
  else
    let sv := addVa (va56 c.a) e
    let dv := addVa (va56 c.b) e
    match s.engAt c sv accRead with
    | .error .miss => .miss s e sv accRead
    | .error (.fault x) => .fault s e sv x
    | .ok (_, sp, a) =>
      match s.engAt c dv accWrite with
      | .error .miss => .miss s e dv accWrite
      | .error (.fault x) => .fault s e dv x
      | .ok (_, dp, _) =>
        let k0 := min (len - e) (min (64 - sv % 64) (64 - dv % 64))
        let k := if sp < dp ∧ dp < sp + k0 then dp - sp else k0
        let _ := a
        match s.engRead c sv k with
        | .miss s1 va x => .miss s1 e va x
        | .fault s1 va x => .fault s1 e va x
        | .ok s1 bs => match s1.engWrite c 2 c.unit c.copyHint dv bs with
          | .done s2 => .more s2 (e + k)
          | .miss s2 va _ => .miss s2 e va accWrite
          | .fault s2 va x _ => .fault s2 e va x
          | .hold s2 _ _ => .hold s2 e

/-- A group of a read stream copied out (R247): e counts bytes of the copy, to is where they go. -/
def State.fromWindow (s : State) (c : Cmd) (src dst len e : Nat) : Run :=
  match s.streamOf c src with
  | none => .done s (statusWord 0x09 (len - e))
  | some (x, g) =>
    if x.write then .done s 7
    else
      let o := (windowOf src).2.2 + e
      let stop' := min len (windowLen x g - (windowOf src).2.2)
      if stop' ≤ e then .done s (if stop' < len then statusWord 0x0A (len - e) else 0)
      else
        let size := imageOut g.image * 64
        let k := min (size - o % size) (stop' - e)
        let dv := addVa dst e
        match s.engCheck c accWrite 3 dv k with
        | .miss s1 va y => .miss s1 e va y
        | .fault s1 va y => .fault s1 e va y
        | .ok s1 _ => match s1.readGroup x g (o / size) with
          | (s2, .error y) => .fault s2 e (addVa src e) y
          | (s2, .ok bs) => match s2.engWrite c 2 c.unit c.copyHint dv ((bs.drop (o % size)).take k) with
            | .done s3 => .more s3 (e + k)
            | .miss s3 va left => .miss s3 (e + k - left.length) va accWrite
            | .fault s3 va y left => .fault s3 (e + k - left.length) va y
            | .hold s3 _ left => .hold s3 (e + k - left.length)

/-- The bytes of a partial group that a copy into a window begins with. -/
def windowHead (dst : Nat) (g : GraphSlot) : Nat :=
  let size := imageOut g.image * 64
  (size - (windowOf dst).2.2 % size) % size

/-- A whole group of a write stream copied in (R247): get yields bytes of the source from an offset; e counts the bytes written so far,
which follow the partial group that the copy may begin with; left gives what RESIDUAL counts after e bytes. -/
def State.toWindow (s : State) (c : Cmd) (get : State → Nat → Nat → Access (List Byte)) (dst len : Nat) (left : Nat → Nat)
    (h : Hint) (e : Nat) : Run :=
  match s.streamOf c dst with
  | none => .done s (statusWord 0x09 (left e))
  | some (x, g) =>
    if !x.write then .done s 7
    else
      let o := (windowOf dst).2.2
      let size := imageOut g.image * 64
      let e1 := windowHead dst g + e
      if min len (windowLen x g - o) < e1 + size then .done s (if e = len then 0 else statusWord 0x0A (left e))
      else match get s e1 size with
        | .miss s1 va y => .miss s1 e va y
        | .fault s1 va y => .fault s1 e va y
        | .ok s1 bs =>
          let b := groupBlocks g.image true
          let out := chunks 64 b.2 (wordsBytes (graphGroup g.image b.1 b.2 (toWords bs)))
          let base := (o + e1) / size * b.2 * 64
          match s1.regionWrite c x h (out.drop c.skip) (base + c.skip * 64) c.skip with
          | (s2, n, true) => .hold (s2.modCmd c.id (fun c => { c with skip := n })) e
          | (s2, _, false) => .more (s2.modCmd c.id (fun c => { c with skip := 0 })) (e + size)

/-- A COPY from element e on (R247, R277). -/
def State.copyStep (s : State) (id : Nat) (e : Nat) : Run :=
  match s.cmd? id with
  | none => .done s 0
  | some c =>
    let len := bits c.c 0 40
    let src := va56 c.a
    let dst := va56 c.b
    if len = 0 then .done s 0
    else match isWindow src, isWindow dst with
      | true, true => .done s 3
      | true, false => s.fromWindow c src dst len e
      | false, true => s.toWindow c (fun s o n => s.engRead c (addVa src o) n) dst len (fun e => len - e) c.copyHint e
      | false, false => s.copyPiece c len e

/-! ## COPY.T (R278) -/

/-- The memory VA of a COPY.T. -/
def Cmd.memVa (c : Cmd) : Nat := va56 (if bit c.c 63 then c.b else c.a)
/-- The handle of a COPY.T. -/
def Cmd.handle (c : Cmd) : W64 := if bit c.c 63 then c.a else c.b
/-- The hints of the writes of a COPY.T. -/
def Cmd.rowHint (c : Cmd) : Hint := ⟨c.c.extractLsb' 32 2, bit c.c 34⟩

/-- Rows as writes to memory (R278). -/
def Cmd.rowWrites (c : Cmd) (t : TileRef) (bs : List Byte) : List (Nat × List Byte) :=
  (chunks (rowBytes t.fmt t.dim) t.dim bs).zipIdx.map (fun r => (addVa c.memVa (r.2 * bits c.c 0 32), r.1))

/-- Bytes of the partial group that the rows of a COPY.T into a window begin with. -/
def Cmd.head (c : Cmd) : Nat := (nth c.desc 1 0).toNat
/-- Rows of a COPY.T into a window that are not wholly written after e bytes (R247). -/
def Cmd.rowsLeft (c : Cmd) (rb e : Nat) : Nat := c.rows - ((c.head + e) / rb - (c.head + rb - 1) / rb)

/-- The writes a command still has to make, one after another (R271): none left, or what stopped them.  Under whole every write is one
element, whose pages are checked before any of its bytes is written (R213). -/
def State.runPlan (s : State) (id kind unit : Nat) (h : Hint) (whole : Bool) : Nat → Written
  | 0 => .done s
  | fuel + 1 =>
    match s.cmd? id with
    | none => .done s
    | some c => match c.plan with
      | [] => .done s
      | (va, bs) :: m =>
        let keep (s : State) (va : Nat) (left : List Byte) : State := s.modCmd id (fun c => { c with plan := (va, left) :: m })
        let check : Access PUnit := if whole then s.engCheck c accWrite (pagesOf bs.length) va bs.length else .ok s ⟨⟩
        match check with
        | .miss s1 va' _ => .miss s1 va' bs
        | .fault s1 va' x => .fault s1 va' x bs
        | .ok s0 _ => match s0.engWrite c kind unit h va bs with
        | .done s1 => (s1.modCmd id (fun c => { c with plan := m })).runPlan id kind unit h whole fuel
        | .miss s1 va' left => .miss (keep s1 va' left) va' left
        | .fault s1 va' x left => .fault (keep s1 va' left) va' x left
        | .hold s1 va' left => .hold (keep s1 va' left) va' left

/-- Rows of memory read (R278): the bytes of rows r onward. -/
def State.readRows (s : State) (c : Cmd) (t : TileRef) : Nat → Nat → State × Except (Nat × Option (Nat × Byte)) (List Byte)
  | 0, _ => (s, .ok [])
  | n + 1, r =>
    let va := addVa c.memVa (r * bits c.c 0 32)
    match s.engRead c va (rowBytes t.fmt t.dim) with
    | .miss s1 va _ => (s1, .error (va, none))
    | .fault s1 va x => (s1, .error (r, some (va, x)))
    | .ok s1 bs => match s1.readRows c t n (r + 1) with
      | (s2, .ok m) => (s2, .ok (bs ++ m))
      | r => r

/-- Whether every row of a COPY.T's memory can be written. -/
def State.checkRows (s : State) (c : Cmd) (t : TileRef) : Nat → Access PUnit
  | 0 => .ok s ⟨⟩
  | n + 1 => match s.checkRows c t n with
    | .ok s1 _ => s1.engCheck c accWrite 3 (addVa c.memVa (n * bits c.c 0 32)) (rowBytes t.fmt t.dim)
    | x => x

/-- The rows that a COPY.T writes to a tile, one element each (R278). -/
def State.rowIn (s : State) (c : Cmd) (t : TileRef) (r : Nat) : Run :=
  if t.dim ≤ r then .done s 0
  else
    let rb := rowBytes t.fmt t.dim
    match s.engRead c (addVa c.memVa (r * bits c.c 0 32)) rb with
    | .miss s1 va x => .miss s1 r va x
    | .fault s1 va x => .fault s1 r va x
    | .ok s1 bs => .more (s1.padWrite (t.base 0 + r * rb) bs) (r + 1)

/-- Groups of a read stream gathered for a COPY.T, from byte e on (R247): the bytes, or where they stop and why. -/
def State.windowBytes (s : State) (c : Cmd) (len : Nat) : Nat → Nat → State × List Byte × Option (Except W64 Byte)
  | 0, _ => (s, [], none)
  | fuel + 1, e =>
    match s.streamAt c.tenant c.memVa with
    | none => (s, [], some (.error 9))
    | some (x, g) =>
      if x.write then (s, [], some (.error 7))
      else
        let o := (windowOf c.memVa).2.2 + e
        let stop' := min len (windowLen x g - (windowOf c.memVa).2.2)
        if stop' ≤ e then (s, [], if stop' < len then some (.error 10) else none)
        else
          let size := imageOut g.image * 64
          let k := min (size - o % size) (stop' - e)
          match s.readGroup x g (o / size) with
          | (s1, .error y) => (s1, [], some (.ok y))
          | (s1, .ok bs) =>
            let r := s1.windowBytes c len fuel (e + k)
            (r.1, (bs.drop (o % size)).take k ++ r.2.1, r.2.2)

/-- A COPY.T whose rows are bound for a ring waits at the ring's home (R169, R278). -/
def State.ringCmd (s : State) (c : Cmd) (t : TileRef) (push : Bool) (bs : List Byte) : State :=
  (s.modCmd c.id (fun c => { c with phase := .ringWait, plan := [(0, bs)] })).ringArrive
    ⟨.cmd c.id, c.unit, push, false, t, none, 0, 0, .device, c.id⟩

/-- What comes of the first pass of a COPY.T once its handle is valid (R247, R278): rows into a tile, one push or pop of a
ring, or rows out. -/
def State.copyTStart (s : State) (c : Cmd) (t : TileRef) (r : Nat) : Run :=
  let rb := rowBytes t.fmt t.dim
  let len := t.dim * rb
  let window := isWindow c.memVa
  let stay (s : State) : Run := .more s 0
  if window ∧ bits c.c 0 32 ≠ rb then .done s 3
  else if bit c.c 63 then
    if window then
      match s.streamAt c.tenant c.memVa with
      | none => .done s (statusWord 9 t.dim)
      | some (x, g) =>
        let s := s.modCmd c.id (fun k => { k with desc := [w64 t.dim, w64 (windowHead c.memVa g)] })
        if !x.write then .done s 7
        else if t.kind = 2 then stay (s.ringCmd c t false [])
        else stay (s.modCmd c.id (fun k => { k with phase := .marked, plan := c.rowWrites t (s.padRead (t.base 0) len) }))
    else if t.kind = 2 then
      match s.checkRows c t t.dim with
      | .miss s1 va y => .miss s1 0 va y
      | .fault s1 va y => .fault s1 0 va y
      | .ok s1 _ => stay (s1.ringCmd c t false [])
    else stay (s.modCmd c.id (fun k => { k with phase := .marked, plan := c.rowWrites t (s.padRead (t.base 0) len) }))
  else if window then
    let w := s.windowBytes c len 70 0
    let whole := w.2.1.length / rb
    let s1 := if t.kind = 2 then w.1 else w.1.padWrite (t.base 0) w.2.1
    let left := if t.kind = 2 then t.dim else t.dim - whole
    match w.2.2 with
    | none => if t.kind = 2 then stay (s1.ringCmd c t true w.2.1) else .done s1 0
    | some (.error st) => .done s1 (if st = 7 then 7 else statusWord st.toNat left)
    | some (.ok y) => .fault s1 (t.dim - left) (addVa c.memVa w.2.1.length) y
  else if t.kind = 2 then
    match s.readRows c t t.dim 0 with
    | (s1, .ok bs) => stay (s1.ringCmd c t true bs)
    | (s1, .error (va, none)) => .miss s1 0 va accRead
    | (s1, .error (_, some (va, x))) => .fault s1 0 va x
  else s.rowIn c t r

/-- A COPY.T at element r (R36, R37, R278): the second check of its handle comes first. -/
def State.copyTStep (s : State) (id r : Nat) : Run :=
  match s.cmd? id with
  | none => .done s 0
  | some c =>
    match c.phase with
    | .queued =>
      match c.tile with
      | some t => s.copyTStart c t r
      | none =>
        match s.checkHandle c.unit c.tenant c.handle [1, 2] with
        | .error .invalid => .done s 2
        | .error (.miss va) => .miss s 0 va accRead
        | .error (.fault x va) => .fault s 0 va x
        | .error (.bad x va pa k) => .fault (s.verify pa k).1 0 va x
        | .ok t => .more (s.modCmd id (fun c => { c with tile := some t })) 0
    | .marked =>
      if isWindow c.memVa then
        let data := c.plan.flatMap (fun p => p.2)
        match c.tile with
        | none => .done s 0
        | some t =>
          s.toWindow c (fun s o n => .ok s ((data.drop o).take n)) c.memVa data.length (c.rowsLeft (rowBytes t.fmt t.dim)) c.rowHint r
      else match s.runPlan id 2 c.unit c.rowHint true 64 with
        | .done s1 => .done s1 0
        | .miss s1 va _ => .miss s1 r va accWrite
        | .fault s1 va x _ =>
          let left := match s1.cmd? id with | some c => c.plan.length | none => 0
          .fault s1 (c.total - left) va x
        | .hold s1 _ _ => .hold s1 r
    | _ => .hold s r

/-! ## GATH, GATHII, SCAT (R279, R280) -/

/-- A number of n bytes read at a VA, which lies in one block. -/
def State.engNum (s : State) (c : Cmd) (va n : Nat) : Access Nat :=
  match s.engRead c va n with
  | .ok s1 bs => .ok s1 (ofBytes bs)
  | .miss s1 v x => .miss s1 v x
  | .fault s1 v x => .fault s1 v x

/-- Bytes of an element. -/
def Cmd.esz (c : Cmd) : Nat := 2 ^ bits c.c 0 2
/-- Bytes of an index. -/
def Cmd.isz (c : Cmd) : Nat := if bits c.c 2 2 = 0 then 4 else 8
/-- The hints of the writes of a gather or scatter. -/
def Cmd.gatherHint (c : Cmd) : Hint := ⟨c.c.extractLsb' 4 2, bit c.c 6⟩
/-- Word i of a command's descriptor. -/
def Cmd.dw (c : Cmd) (i : Nat) : Nat := (nth c.desc i 0).toNat

/-- Whether a gather's tables are aligned (R279). -/
def Cmd.tablesOk (c : Cmd) : Bool :=
  bits c.c 2 2 < 2 && va56 (nth c.desc 0 0) % c.esz == 0 && va56 (nth c.desc 2 0) % c.isz == 0 &&
  (c.op != .gathii || va56 (nth c.desc 3 0) % c.isz == 0)

/-- A continuation of an element's accesses. -/
def Access.andThen {α : Type} (x : Access α) (e : Nat) (f : State → α → Run) : Run :=
  match x with
  | .ok s a => f s a
  | .miss s va y => .miss s e va y
  | .fault s va y => .fault s e va y

/-- An element written (R280), with BOUNDS. -/
def State.gatherPut (s : State) (c : Cmd) (va v e : Nat) (bound : Bool) : Run :=
  match s.engWrite c 2 c.unit c.gatherHint va (bytesOf v c.esz) with
  | .done s1 => .more (if bound then s1.modCmd c.id (fun c => { c with bounds := true }) else s1) (e + 1)
  | .miss s1 v _ => .miss s1 e v accWrite
  | .fault s1 v x _ => .fault s1 e v x
  | .hold s1 _ _ => .hold s1 e

/-- Element i of a gather or scatter (R280). -/
def State.gatherStep (s : State) (id i : Nat) : Run :=
  match s.cmd? id with
  | none => .done s 0
  | some c =>
    let n := bits c.c 32 24
    let at' (base k size : Nat) : Nat := addVa (base % 2 ^ 56) (k * size)
    let boundA := c.dw 1 % 2 ^ 32
    let def' := c.dw 5 % 2 ^ (8 * c.esz)
    let dst := at' (va56 c.b) i c.esz
    if n = 0 then .done s 0
    else if !c.tablesOk then .done s 3
    else if n ≤ i then .done s (w64 (b2n c.bounds * 256))
    else
      (s.engNum c (at' (c.dw 2) i c.isz) c.isz).andThen i (fun s j =>
        match c.op with
        | .scat =>
          if j < boundA then
            (s.engNum c dst c.esz).andThen i (fun s v => s.gatherPut c (at' (c.dw 0) j c.esz) v i false)
          else .more (s.modCmd id (fun c => { c with bounds := true })) (i + 1)
        | .gathii =>
          if c.dw 4 % 2 ^ 32 ≤ j then s.gatherPut c dst def' i true
          else (s.engNum c (at' (c.dw 3) j c.isz) c.isz).andThen i (fun s k =>
            if boundA ≤ k then s.gatherPut c dst def' i true
            else (s.engNum c (at' (c.dw 0) k c.esz) c.esz).andThen i (fun s v => s.gatherPut c dst v i false))
        | _ =>
          if boundA ≤ j then s.gatherPut c dst def' i true
          else (s.engNum c (at' (c.dw 0) j c.esz) c.esz).andThen i (fun s v => s.gatherPut c dst v i false))

/-! ## Graph slots (R245, R281) -/

/-- A slot that holds nothing. -/
def GraphSlot.free : GraphSlot := ⟨false, false, none, 0, [], none⟩
/-- A slot of a stack. -/
def State.graph (s : State) (k slot : Nat) : GraphSlot := (Assoc.get (s.stack k).graphs slot).getD GraphSlot.free
/-- A slot replaced. -/
def State.setGraph (s : State) (k slot : Nat) (g : GraphSlot) : State :=
  s.modStack k (fun x => { x with graphs := Assoc.set x.graphs slot g })
/-- Whether a slot has open streams. -/
def State.slotOpen (s : State) (k slot : Nat) : Bool := (s.stack k).streams.any (fun x => x.slot == slot)
/-- A load that takes effect (R245): an empty image frees the slot. -/
def GraphSlot.load (g : GraphSlot) (tenant : Nat) (img : List W64) : GraphSlot :=
  if img.isEmpty then { g with loaded := false, draining := false, owner := none, image := [], held := none }
  else { g with loaded := true, draining := false, owner := some tenant, gen := nextGen g.gen, image := img, held := none }
/-- Whether a tenant acts as owner of a slot (R245). -/
def GraphSlot.owns (g : GraphSlot) (tenant : Nat) : Bool := tenant == 0 || g.owner == some tenant

/-- GRAPH.LOAD and GRAPH.LOAD.F (R244, R245, R281). -/
def State.graphLoad (s : State) (c : Cmd) (force : Bool) : Run :=
  let k := bits c.b 8 4
  let slot := bits c.b 0 4
  if 12 ≤ k ∨ s.stackUp k = false ∨ (c.c ≠ 0 ∧ c.c ≠ 4096) then .done s 3
  else
    let g := s.graph k slot
    let used := g.loaded || g.draining
    let busy := s.slotOpen k slot
    if used && !(g.owns c.tenant) then .done s 6
    else if g.draining || (busy && !force) then .done s 5
    else if !used && c.c == 0 then .done s 0
    else
      let take (s : State) (img : List W64) : Run :=
        if busy then
          .hold ((s.setGraph k slot { g with draining := true, held := some (img, c.tenant, c.id) }).modCmd c.id
            (fun c => { c with phase := .draining })) 0
        else .done (s.setGraph k slot (g.load c.tenant img)) 0
      if c.c = 0 then take s []
      else match s.engRead c (va56 c.a) 4096 with
        | .miss s1 va x => .miss s1 0 va x
        | .fault s1 va x => .fault s1 0 va x
        | .ok s1 bs => if imageOk (toWords bs) then take s1 (toWords bs) else .done s1 4

/-- The pages of a region translated for STREAM.OPEN, from page i on (R246, R282): TRANSFORMED is judged by the graph's CLASS,
and no page carries TRACE (R450). -/
def State.regionPages (s : State) (c : Cmd) (k : Nat) (img : List W64) (write : Bool) :
    Nat → Nat → Except Run (List (Nat × PageAttr))
  | 0, _ => .ok []
  | n + 1, va =>
    if isWindow va then .error (.fault s 0 va 0x05)
    else match (s.unit c.unit).tlb.find? (fun t => t.covers c.tenant va) with
      | none => .error (.miss s 0 va (if write then accWrite else accRead))
      | some t =>
        let pa := t.addr (va / 65536 * 65536)
        if !(if write then t.w else t.r) then .error (.fault s 0 va 0x05)
        else if isStack pa && !(s.hostBias pa) && !(s.keyOk c.tenant t.kslot) then .error (.fault s 0 va 0x05)
        else if unassigned pa then .error (.fault s 0 va 0x05)
        else if isStack pa && !(s.hostBias pa) && (s.pageRec (pa / 65536)).moved then .error (.fault s 0 va 0x06)
        else if !(isStack pa) || stackOf pa != k || s.hostBias pa || t.transformed != imageTransform img ||
            (t.transformed && t.cls != imageClass img) || t.trace then .error (.done s 8)
        else match s.regionPages c k img write n (addVa (va / 65536 * 65536) 65536) with
          | .ok ps => .ok ((pa, t.attr) :: ps)
          | .error r => .error r

/-- STREAM.OPEN (R245, R246, R281, R282). -/
def State.streamOpen (s : State) (c : Cmd) : Run :=
  let k := bits c.b 8 4
  let slot := bits c.b 0 4
  let write := bit c.b 16
  let len := c.c.toNat
  if 12 ≤ k ∨ s.stackUp k = false then .done s 3
  else
    let g := s.graph k slot
    if !(g.loaded || g.draining) then .done s 4
    else if !(g.owns c.tenant) then .done s 6
    else if g.draining then .done s 5
    else if !(imagePermits g.image write) then .done s 7
    else if len = 0 ∨ len % (64 * imageIn g.image) ≠ 0 ∨ 2 ^ 36 < len * imageOut g.image / imageIn g.image then .done s 8
    else
      let first := va56 c.a % 65536
      match s.regionPages c k g.image write ((first + len - 1) / 65536 + 1) (va56 c.a) with
      | .error r => r
      | .ok ps =>
        match (List.range 64).find? (fun n => !((s.stack k).streams.any (fun x => x.k == n))) with
        | none => .done s 5
        | some n =>
          let x : Stream := ⟨n, c.tenant, slot, g.gen, write, len, first, ps⟩
          let s1 := (List.range ((first + len - 1) / 65536 + 1)).foldl (fun s i =>
            s.touchPage c.unit c.tenant (addVa (va56 c.a / 65536 * 65536) (i * 65536))) s
          .done (s1.modStack k (fun y => { y with streams := y.streams ++ [x] }))
            (w64 (0xF0000000000000 + (k * 64 + n) * 2 ^ 36))

/-- Whether a copy has begun on a window (R283): it has moved a group, or is bound to the window with its rows taken. -/
def Cmd.onWindow (c : Cmd) (w : Nat × Nat) : Bool :=
  let meets (va : Nat) : Bool := isWindow va && (windowOf va).1 == w.1 && (windowOf va).2.1 == w.2
  match c.op with
  | .copy => (meets (va56 c.a) || meets (va56 c.b)) && (c.elem != 0 || c.skip != 0)
  | .copyT => meets c.memVa && bit c.c 63 && (c.phase == .ringWait || c.phase == .marked)
  | _ => false

/-- STREAM.CLOSE (R245, R283): the last stream of a Draining slot loads the image held. -/
def State.streamClose (s : State) (c : Cmd) : Run :=
  let va := va56 c.a
  let w := windowOf va
  if !(isWindow va) || w.2.2 != 0 then .done s 9
  else match (s.stack w.1).streams.find? (fun x => x.k == w.2.1 && x.tenant == c.tenant) with
    | none => .done s 9
    | some x =>
      let s1 := { s.modStack w.1 (fun y => { y with streams := y.streams.filter (fun z => z.k != x.k) }) with
        cmds := s.cmds.map (fun (y : Cmd) =>
          if y.tenant = c.tenant ∧ y.onWindow (w.1, w.2.1) = true then { y with closed := true } else y) }
      let g := s1.graph w.1 x.slot
      match g.held with
      | none => .done s1 0
      | some (img, t, id) =>
        if s1.slotOpen w.1 x.slot then .done s1 0
        else .done ((s1.setGraph w.1 x.slot (g.load t img)).modCmd id (fun c => { c with phase := .ended 0 })) 0

/-! ## CPF and the fetch of a pin window (R234, R237, R256, R259) -/

/-- A line brought into the memory-side cache of its stack as a load with a hint would bring it, and nowhere else (R234); one that the
cache holds is a hit.  The cause where its block fails. -/
def State.fetchMsc (s : State) (pa : Nat) (a : PageAttr) (h : Hint) : State × Option Byte :=
  if !(isStack pa) || s.hostBias pa then (s, none)
  else if (Assoc.get s.quarantine (pa / 64)).isNone && s.inMsc (pa / 64) a.kslot then (s.mscAccess pa a.kslot a.tenant h, none)
  else match s.verifyDram (pa / 64) a.kslot with
    | (s1, some c) => (s1, some c)
    | (s1, none) => (s1.mscAccess pa a.kslot a.tenant h, none)

/-- Line e of a CPF (R234). -/
def State.cpfStep (s : State) (c : Cmd) (e : Nat) : Run :=
  if c.total ≤ e then .done s 0
  else
    let va := if e = 0 then va56 c.a else addVa (va56 c.a / 64 * 64) (e * 64)
    match s.engAt c va accRead with
    | .error .miss => .miss s e va accRead
    | .error (.fault x) => .fault s e va x
    | .ok (t, pa, a) => match (s.touchTlb c.unit t).fetchMsc pa a ⟨c.c.extractLsb' 0 2, false⟩ with
      | (s1, some x) => .fault s1 e va x
      | (s1, none) => .more s1 (e + 1)

/-- The window of a fetch command, if the tenant still holds it. -/
def State.windowOfCmd (s : State) (c : Cmd) : Option PinWin :=
  (s.tenant c.tenant).pins.find? (fun p => p.num == c.c.toNat && p.base == c.a.toNat && p.len == c.b.toNat)

/-- The first line of the page after a line's. -/
def nextPage (e : Nat) : Nat := (e / 1024 + 1) * 1024

/-- The physical page and the key slot that PIN found for a page of its window. -/
def pinFound (page : Nat) : List W64 → Option (Nat × Nat)
  | v :: p :: k :: m => if v.toNat = page then some (p.toNat, k.toNat) else pinFound page m
  | _ => none

/-- Line e of the fetch of a pin window (R236, R259): a page that PIN left out, or whose pinning is lost since, is skipped, and a line
that fails its check hands the command back as a CPF's does. -/
def State.pinStep (s : State) (c : Cmd) (e : Nat) : Run :=
  if c.total ≤ e then .done s 0
  else match s.windowOfCmd c with
    | none => .done s 0
    | some w =>
      let va := addVa (va56 c.a) (e * 64)
      match pinFound (va / 65536) c.desc with
      | none => .more s (nextPage e)
      | some (p, k) =>
        if !(w.pages.contains (va / 65536, p)) then .more s (nextPage e)
        else match s.fetchMsc (p * 65536 + va % 65536) ⟨c.tenant, k, 0, true, false⟩ plainHint with
          | (s1, some x) => .fault s1 e va x
          | (s1, none) => .more s1 (e + 1)

end Sys2Proof.Machine
end

