-- ==== Sys2Proof/Machine/Compact.lean ====
section
/-! DEFINITION. Collectives, the key-value compactor, the start of engine commands and the end of a command at a fault
(R184-R186, R270, R284-R286, R357). -/

namespace Sys2Proof.Machine

/-! ## Collectives (R284-R286) -/

/-- P of a collective command. -/
def Cmd.ranks (c : Cmd) : Nat := natBits (c.dw 1) 0 16
/-- The rank of a collective command. -/
def Cmd.rank (c : Cmd) : Nat := natBits (c.dw 1) 16 16
/-- The root of a COLL.BC; 0 for COLL.AR. -/
def Cmd.root (c : Cmd) : Nat := if c.op = .collBc then natBits (c.dw 1) 32 16 else 0
/-- n of a collective command. -/
def Cmd.count (c : Cmd) : Nat := bits c.c 0 32
/-- Whether a collective command's values lie in range (R284). -/
def Cmd.collOk (c : Cmd) : Bool :=
  decide (1 ≤ c.ranks) && decide (c.ranks ≤ 4096) && decide (c.rank < c.ranks) && decide (c.root < c.ranks) &&
  decide (bits c.c 32 4 ≤ 1) && decide (bits c.c 36 4 ≤ (if c.op = .collBc then 0 else 2))

/-- Whether a command fits a group (R285). -/
def Group.fits (g : Group) (c : Cmd) : Bool :=
  g.p == c.ranks && g.n == c.count && g.fmt == bits c.c 32 4 && g.op == bits c.c 36 4 && g.root == c.root &&
  g.bc == (c.op == .collBc) && !(g.members.any (fun m => m.1 == c.rank)) &&
  !(g.guests.any (fun m => m.1 == c.rank))

/-- The access a participant's buffer takes: a COLL.BC reads its root's and writes the others', a COLL.AR does both. -/
def Cmd.collAcc (c : Cmd) : Nat := if c.op = .collBc then (if c.rank = c.root then accRead else accWrite) else accRmw

/-- The check of a participant's whole buffer. -/
def State.collCheck (s : State) (c : Cmd) : Access PUnit :=
  s.engCheck c c.collAcc (pagesOf (4 * c.count)) (va56 c.b) (4 * c.count)

/-- A collective command arrives (R284-R286): out of range, mismatched, one group too many, or a member of its group once its buffer
is checked. -/
def State.collJoin (s : State) (c : Cmd) : Run :=
  let key := nth c.desc 0 0
  let epoch := nth c.desc 2 0
  let waiting (s : State) : State := s.modCmd c.id (fun c => { c with phase := .grouped })
  if !c.collOk then .done s 3
  else match s.groups.find? (fun g => g.tenant == c.tenant && g.key == key && g.epoch == epoch) with
    | some g =>
      if g.fits c then
        (s.collCheck c).andThen 0 (fun s _ => .hold { waiting s with groups := s.groups.map (fun x =>
          if x.id = g.id then { x with members := x.members ++ [(c.rank, c.id)] } else x) } 0)
      else .done s 0x0B
    | none =>
      if 4096 ≤ s.groups.length then .done s 5
      else
        (s.collCheck c).andThen 0 (fun s _ =>
          .hold { waiting s with groups := s.groups ++ [⟨c.id, c.tenant, key, epoch, c.ranks, c.count, bits c.c 32 4,
            bits c.c 36 4, c.root, c.op == .collBc, [(c.rank, c.id)], []⟩] } 0)

/-- One element of a reduction (R103, R285).  That of one term is the term itself, a NaN's bits too (DEDUCED, log 93). -/
def collReduce (fmt op : Nat) (terms : List Nat) : Nat :=
  let add (a b : Nat) : Nat :=
    if fmt = 0 then
      (match op with | 0 => addRne a b | 1 => (fp32.minMax true a b).1 | _ => (fp32.minMax false a b).1)
    else
      (match op with
        | 0 => (a + b) % 2 ^ 32
        | 1 => if signed 32 a < signed 32 b then b else a
        | _ => if signed 32 a < signed 32 b then a else b)
  (mergeSlices add terms).getD 0

/-- The members' commands of a group in rank order. -/
def State.collMembers (s : State) (g : Group) : List Cmd :=
  (List.range g.p).filterMap (fun r => (g.members.find? (fun m => m.1 == r)).bind (fun m => s.cmd? m.2))

/-- A member leaves its group and is handed back with nothing performed (log 20). -/
def State.collDrop (s : State) (g : Group) (c : Cmd) (va : Nat) (x : Byte) : State :=
  { s.modCmd c.id (fun c => c.handed c.count va x) with
    groups := (s.groups.map (fun y => if y.id = g.id then { y with members := y.members.filter (fun m => m.2 != c.id) } else y)).filter
      (fun y => !(y.members.isEmpty && y.guests.isEmpty)) }

/-- The buffers of members read in turn, or the member that stopped it. -/
def State.collRead (s : State) : List Cmd → State × Except (Cmd × Nat × Option Byte) (List (List Byte))
  | [] => (s, .ok [])
  | c :: m =>
    match s.engRead c (va56 c.b) (4 * c.count) with
    | .miss s1 va _ => (s1, .error (c, va, none))
    | .fault s1 va x => (s1, .error (c, va, some x))
    | .ok s1 bs => match s1.collRead m with
      | (s2, .ok r) => (s2, .ok (bs :: r))
      | r => r

/-- The first member whose buffer cannot be used. -/
def State.collBad (s : State) : List Cmd → Option (Cmd × Nat × Option Byte)
  | [] => none
  | c :: m => match s.collCheck c with
    | .miss _ va _ => some (c, va, none)
    | .fault _ va x => some (c, va, some x)
    | .ok _ _ => s.collBad m

/-- A result's bytes for every participant. -/
def collResult (g : Group) (bufs : List (List Byte)) : List Byte :=
  if g.bc then (match bufs with | b :: _ => b | [] => [])
  else (List.range g.n).flatMap (fun e => bytesOf (collReduce g.fmt g.op
    (bufs.map (fun b => ofBytes ((b.drop (4 * e)).take 4)))) 4)

/-- The result written to one participant's buffer; what a port holds is left to the command (R220, R285). -/
def State.collWrite (s : State) (c : Cmd) (bs : List Byte) : State :=
  let s1 := s.modCmd c.id (fun c => { c with phase := .marked, plan := [(va56 c.b, bs)] })
  match s1.runPlan c.id 2 c.unit plainHint false 2 with
  | .done s2 => s2.modCmd c.id (fun c => { c with phase := .ended 0 })
  | .miss s2 _ _ => s2
  | .fault s2 va x left => s2.modCmd c.id (fun c => c.handed (left.length / 4) va x)
  | .hold s2 _ _ => s2

/-- The buffers of a group's ranks in rank order: bufs are those of the commands ms, the others the guests'. -/
def Group.buffers (g : Group) (ms : List Cmd) (bufs : List (List Byte)) : List (List Byte) :=
  let mine := (ms.map (fun c => c.rank)).zip bufs
  (List.range g.p).filterMap (fun r => match Assoc.get mine r with
    | some b => some b
    | none => (g.guests.find? (fun m => m.1 == r && (!g.bc || r == g.root))).map (fun m => (wordsBytes m.2.2).take (4 * g.n)))

/-- The result sent to the commands of a group that are on other devices (log 28). -/
def State.tellGuests (s : State) (g : Group) (bs : List Byte) : State :=
  { s with peerOut := s.peerOut ++ (g.guests.map (fun m => (m.2.1.1,
      [11, w64 m.2.1.2] ++ (chunks 8 (bs.length / 8 + 1) bs).map (fun b => w64 (ofBytes b))))) }

/-- COLLECTIVE_PERFORM (R285): when all ranks are present, every read comes before every write.  id is the group's, or a
member's. -/
def execCollectivePerform (id : Nat) (s : State) : Out :=
  match s.groups.find? (fun g => g.id == id || g.members.any (fun m => m.2 == id)) with
  | none => noOccasion "COLLECTIVE_PERFORM"
  | some g =>
    let ms := s.collMembers g
    if s.faulted || ms.length + g.guests.length != g.p || ms.any (fun c => s.missing (.cmd c.id)) then
      noOccasion "COLLECTIVE_PERFORM"
    else match s.collBad ms with
      | some (c, va, none) => .next (s.engMiss c va c.collAcc)
      | some (c, va, some x) => .next (s.collDrop g c va x)
      | none =>
        let readers := if g.bc then ms.filter (fun c => c.rank == g.root) else ms
        match s.collRead readers with
        | (s1, .error (c, va, none)) => .next (s1.engMiss c va accRead)
        | (s1, .error (c, va, some x)) => .next (s1.collDrop g c va x)
        | (s1, .ok bufs) =>
          let bs := collResult g (g.buffers readers bufs)
          let s2 := { s1 with groups := s1.groups.filter (fun y => y.id != g.id) }
          .next ((ms.foldl (fun s c =>
            if g.bc && c.rank == g.root then s.modCmd c.id (fun c => { c with phase := .ended 0 })
            else s.collWrite c bs) s2).tellGuests g bs)

/-! ## ENGINE_START (R270) -/

/-- What is left of a collective's writes. -/
def State.collGoOn (s : State) (c : Cmd) : Run :=
  match s.runPlan c.id 2 c.unit plainHint false 2 with
  | .done s1 => .done s1 0
  | .miss s1 va _ => .miss s1 0 va accWrite
  | .fault s1 va x left => .fault s1 (c.count - left.length / 4) va x
  | .hold s1 _ _ => .hold s1 0

/-- The run of a command at a start: at most 4,096 pieces in one event; the rest goes on at a later start. -/
def State.runCmd (s : State) (c : Cmd) : Run :=
  match c.op with
  | .copy => engLoop (fun s e => s.copyStep c.id e) 4096 s c.elem
  | .copyT => engLoop (fun s e => s.copyTStep c.id e) 4096 s c.elem
  | .gath | .gathii | .scat => engLoop (fun s e => s.gatherStep c.id e) 4096 s c.elem
  | .graphLoad f => s.graphLoad c f
  | .streamOpen => s.streamOpen c
  | .streamClose => s.streamClose c
  | .collAr | .collBc => if c.phase = .marked then s.collGoOn c else s.collJoin c
  | .cpf => engLoop (fun s e => s.cpfStep c e) 4096 s c.elem
  | .pinFetch => engLoop (fun s e => s.pinStep c e) 4096 s c.elem
  | .kvEvict => .hold s c.elem

/-- ENGINE_START (R270, R271): a queued command starts, or one that a miss or a port interrupted goes on. -/
def execEngineStart (id : Nat) (s : State) : Out :=
  match s.cmd? id with
  | none => noOccasion "ENGINE_START"
  | some c =>
    if c.op = .kvEvict ∨ !(c.phase = .queued ∨ c.phase = .marked) ∨ s.canRun c = false then noOccasion "ENGINE_START"
    else s.afterRun "ENGINE_START" c (s.runCmd c)

/-! ## The compactor (R184-R186) -/

/-- Whether the compactor of a channel die has no other KV.EVICT before it: one that has reached it stays there until its completion
word is filled (R186). -/
def State.compactorFree (s : State) (id die : Nat) : Bool :=
  s.cmds.all (fun c => c.id == id || c.op != .kvEvict || c.skip != die + 1)

/-- L of a sequence descriptor. -/
def seqLive (ws : List W64) : Nat := bits (nth ws 3 0) 0 32
/-- W of a sequence descriptor. -/
def seqWindow (ws : List W64) : Nat := bits (nth ws 3 0) 32 16
/-- The page count of a sequence descriptor. -/
def seqPages (ws : List W64) : Nat := bits (nth ws 4 0) 0 32
/-- 32-bit words of bytes. -/
def toWords32 (n : Nat) (bs : List Byte) : List Nat := (chunks 4 n bs).map ofBytes

/-- KV_EVICT_PERFORM (R185 steps 1 and 2): the descriptor and the page list, and the pages marked. -/
def execKvEvictPerform (id : Nat) (s : State) : Out :=
  match s.cmd? id with
  | none => noOccasion "KV_EVICT_PERFORM"
  | some c =>
    if c.op ≠ .kvEvict ∨ c.phase ≠ .queued ∨ s.canRun c = false then noOccasion "KV_EVICT_PERFORM"
    else
      let desc := va56 c.a
      match s.engAt c desc accRead with
      | .error .miss => .next ((s.engMiss c desc accRead).modCmd id (fun c => { c with elem := 0 }))
      | .error (.fault x) => .next (s.modCmd id (fun c => c.handed 0 desc x))
      | .ok (_, pa, _) =>
        let die := dieOfStack (stackOf pa)
        if s.compactorFree id die = false then noOccasion "KV_EVICT_PERFORM"
        else match (s.modCmd id (fun c => { c with skip := die + 1 })).engRead c desc 64 with
          | .miss s1 va x => .next ((s1.engMiss c va x).modCmd id (fun c => { c with elem := 0 }))
          | .fault s1 va x => .next (s1.modCmd id (fun c => c.handed 0 va x))
          | .ok s1 bs =>
            let ws := toWords bs
            let live := seqLive ws
            let n := seqPages ws
            if 32 * n < live then .next (s1.modCmd id (fun c => { c with phase := .ended 3 }))
            else match s1.engRead c (va56 (nth ws 1 0)) (4 * n) with
              | .miss s2 va x => .next ((s2.engMiss c va x).modCmd id (fun c => { c with elem := live }))
              | .fault s2 va x => .next (s2.modCmd id (fun c => c.handed live va x))
              | .ok s2 lb =>
                let c1 : Cmd := { c with desc := ws ++ (toWords32 n lb).map w64, phase := .marked, elem := live, skip := die + 1 }
                .next { s2.modCmd id (fun _ => c1) with
                  pagesUnder := s2.pagesUnder ++ c1.marks.map (fun p => (p, c.tenant)) }

/-- Whether an attention operation that passed its check names a marked page (R185 step 3). -/
def State.pagesBusy (s : State) (c : Cmd) : Bool :=
  s.tileOps.any (fun o => o.tenant == c.tenant && (match o.kind with
    | .attnQk _ p _ => c.marks.contains p.toNat
    | .attnSm _ _ p _ => c.marks.contains p.toNat
    | .attnPv _ _ p _ => c.marks.contains p.toNat
    | .kvMass _ p _ => c.marks.contains p.toNat
    | _ => false))

/-- The compaction as it goes on: the pages' bytes by pool page, the writes so far, and the survivors. -/
structure Compaction where
  pages : List (Nat × List Byte)
  writes : List (Nat × List Byte)
  j : Nat

/-- A run of a page's bytes. -/
def Compaction.row (k : Compaction) (page off n : Nat) : List Byte := (((Assoc.get k.pages page).getD []).drop off).take n

/-- Bytes written to a page. -/
def Compaction.put (k : Compaction) (pool page off : Nat) (bs : List Byte) : Compaction :=
  let old := (Assoc.get k.pages page).getD []
  { k with
    pages := Assoc.set k.pages page (old.take off ++ bs ++ old.drop (off + bs.length))
    writes := k.writes ++ [(addVa pool (page * pageBytes + off), bs)] }

/-- The K row, V row, mass and position entry of a token moved (R185). -/
def Compaction.move (k : Compaction) (pool page slot page' slot' : Nat) : Compaction :=
  [(0, 256), (0x2000, 256), (0x4000, 4), (0x4080, 4)].foldl (fun k r =>
    k.put pool page' (r.1 + r.2 * slot') (k.row page (r.1 + r.2 * slot) r.2)) k

/-- Token i of a compaction (R185 step 5). -/
def Compaction.token (list : List Nat) (pool remap live window mark : Nat) (k : Compaction) (i entry : Nat) : Compaction :=
  let page := natBits entry 0 26
  let slot := natBits entry 26 5
  let mass := ofBytes (k.row page (0x4000 + 4 * slot) 4)
  if decide (live ≤ i + window) || !((fp32.unpack mass).lt (fp32.unpack mark)) then
    let page' := nth list (k.j / 32) 0
    let slot' := k.j % 32
    let k1 := if page' = page ∧ slot' = slot then k else k.move pool page slot page' slot'
    { k1 with
      writes := k1.writes ++ [(addVa remap (4 * k.j), bytesOf (2 ^ 31 + slot' * 2 ^ 26 + page' % 2 ^ 26) 4)]
      j := k.j + 1 }
  else k

/-- VALID and mass of a slot cleared (R185 step 5). -/
def Compaction.clear (k : Compaction) (pool page slot : Nat) : Compaction :=
  let pos := ofBytes (k.row page (0x4080 + 4 * slot) 4) % 2 ^ 31
  (k.put pool page (0x4080 + 4 * slot) (bytesOf pos 4)).put pool page (0x4000 + 4 * slot) (bytesOf 0 4)

/-- The whole of R185 step 5: the writes in order, and the surviving count. -/
def compact (ws : List W64) (list entries : List Nat) (mark : Nat) (desc : Nat) (pages : List (Nat × List Byte)) :
    List (Nat × List Byte) × Nat :=
  let pool := va56 (nth ws 0 0)
  let remap := va56 (nth ws 2 0)
  let live := seqLive ws
  let k : Compaction := entries.zipIdx.foldl (fun (k : Compaction) e =>
    k.token list pool remap live (seqWindow ws) mark e.2 e.1) ⟨pages, [], 0⟩
  let n := (k.j + 31) / 32
  let k1 : Compaction := (List.range (32 * n - k.j)).foldl (fun (x : Compaction) s =>
    x.clear pool (nth list (k.j / 32) 0) (k.j % 32 + s)) k
  let k2 : Compaction := (List.range (list.length - n)).foldl (fun (x : Compaction) p =>
    (List.range 32).foldl (fun (x : Compaction) s => x.clear pool (nth list (n + p) 0) s) x) k1
  let ends := (List.range (live - k.j)).map (fun i => (addVa remap (4 * (k.j + i)), bytesOf 0 4))
  (k2.writes ++ ends ++ [(addVa desc 0x18, bytesOf k.j 4), (addVa desc 0x20, bytesOf n 4)], k.j)

/-- Stretches that a compaction uses, checked one after another. -/
def State.kvCheck (s : State) (c : Cmd) : List (Nat × Nat) → Access PUnit
  | [] => .ok s ⟨⟩
  | (va, n) :: m => match s.engCheck c accRmw (pagesOf n) va n with
    | .ok s1 _ => s1.kvCheck c m
    | x => x

/-- Pool pages read whole. -/
def State.kvPages (s : State) (c : Cmd) (pool : Nat) : List Nat → Access (List (Nat × List Byte))
  | [] => .ok s []
  | p :: m => match s.engRead c (addVa pool (p * pageBytes)) pageBytes with
    | .miss s1 va x => .miss s1 va x
    | .fault s1 va x => .fault s1 va x
    | .ok s1 bs => match s1.kvPages c pool m with
      | .ok s2 r => .ok s2 (Assoc.set r p bs)
      | x => x

/-- The moves of a compaction, from where a port left them (R220): the completion word stands in c. -/
def State.kvMoves (s : State) (s0 : State) (id : Nat) : Out :=
  match s.cmd? id with
  | none => .next s
  | some c => match s.runPlan id 3 (1631 + c.skip) plainHint false (c.plan.length + 1) with
    | .done s1 => .next (s1.modCmd id (fun c => { c with phase := .ended c.c }))
    | .miss s1 va _ => .next (s1.engMiss c va accWrite)
    | .fault s1 va x _ => .next (s1.modCmd id (fun c => c.handed c.elem va x))
    | .hold s1 _ _ => if s1 = s0 then noOccasion "KV_COMPACT_MOVE" else .next s1

/-- KV_COMPACT_MOVE (R185 steps 3 to 5): once the attention operations on the marked pages are complete, the survivors move. -/
def execKvCompactMove (id : Nat) (s : State) : Out :=
  match s.cmd? id with
  | none => noOccasion "KV_COMPACT_MOVE"
  | some c =>
    if c.op ≠ .kvEvict ∨ s.faulted = true ∨ s.missing (.cmd id) = true then noOccasion "KV_COMPACT_MOVE"
    else match c.phase with
      | .moving => s.kvMoves s id
      | .marked =>
        if s.pagesBusy c then noOccasion "KV_COMPACT_MOVE"
        else
          let pool := va56 (nth c.desc 0 0)
          let remap := va56 (nth c.desc 2 0)
          let live := seqLive c.desc
          let list := (c.desc.drop 8).map (fun p => p.toNat)
          let fail (s : State) (va : Nat) (x : Byte) : Out := .next (s.modCmd id (fun c => c.handed live va x))
          match s.kvCheck c ((remap, 4 * live) :: (va56 c.a, 64) :: c.marks.map (fun p => (p, pageBytes))) with
          | .miss s1 va x => .next (s1.engMiss c va x)
          | .fault s1 va x => fail s1 va x
          | .ok s1 _ => match s1.engRead c remap (4 * live) with
            | .miss s2 va x => .next (s2.engMiss c va x)
            | .fault s2 va x => fail s2 va x
            | .ok s2 rb =>
              let entries := toWords32 live rb
              match s2.kvPages c pool (list ++ entries.map (fun e => natBits e 0 26)).eraseDups with
              | .miss s3 va x => .next (s3.engMiss c va x)
              | .fault s3 va x => fail s3 va x
              | .ok s3 pages =>
                let r := compact c.desc list entries (bits c.b 0 32) (va56 c.a) pages
                (s3.modCmd id (fun c => { c with
                  phase := .moving
                  plan := r.1
                  c := w64 (r.2 * 2 ^ 32 + (live - r.2) % 2 ^ 24 * 256) })).kvMoves s id
      | _ => noOccasion "KV_COMPACT_MOVE"

/-! ## A reply that faults a command (R271, R275, R357) -/

/-- What a command has not performed; elem holds the live count of a KV.EVICT once its descriptor is read (R185). -/
def Cmd.residual (c : Cmd) : Nat :=
  match c.op, c.phase with
  | .kvEvict, _ => c.elem
  | .copyT, .marked => if isWindow c.memVa then c.rowsLeft (max 1 (bits c.c 0 32)) c.elem else c.plan.length
  | _, _ => c.total - c.elem

/-- A command whose translation failed at the TSU: its completion word is dropped, a page of a pin window is skipped, or the
command is handed back (R259, R272, R275). -/
def State.cmdFault (s : State) (id va : Nat) (cause : Byte) : State :=
  match s.cmd? id with
  | none => s
  | some c => match c.phase, c.op with
    | .ended _, _ | .handed _ _ _, _ => s.modCmd id (fun c => { c with d := 0 })
    | _, .pinFetch => s.modCmd id (fun c => { c with elem := nextPage c.elem })
    | .grouped, _ => match s.groups.find? (fun g => g.members.any (fun m => m.2 == id)) with
      | some g => s.collDrop g c va cause
      | none => s
    | _, _ => s.modCmd id (fun c => c.handed c.residual va cause)

end Sys2Proof.Machine
end

