-- ==== Sys2Proof/Machine/Csr.lean ====
section
/-! DEFINITION. Control and status registers, open messages and the release of quarantined blocks (R217, R294, R295, R298,
R311-R313, R329, R342, R350, R366, R375-R379). -/

namespace Sys2Proof.Machine

/-! ## Privilege and index (R376, R378) -/

/-- The registers that only a privileged context reads (R378). -/
def csrReadPriv (n : BitVec 9) : Bool :=
  [0x010, 0x011, 0x012, 0x013, 0x041, 0x048, 0x060, 0x080, 0x081, 0x082, 0x083, 0x0C0, 0x0C1, 0x0C2, 0x0C3, 0x0C4, 0x0C5,
   0x0E0, 0x0E2].contains n.toNat
/-- The registers that only a privileged context writes (R378). -/
def csrWritePriv (n : BitVec 9) : Bool :=
  [0x003, 0x010, 0x011, 0x012, 0x013, 0x040, 0x041, 0x042, 0x043, 0x044, 0x045, 0x046, 0x047, 0x048, 0x080, 0x081, 0x082,
   0x083, 0x0C0, 0x0C1, 0x0C2, 0x0C3, 0x0C4, 0x0E0, 0x0E1].contains n.toNat

/-- Index kinds (R376). -/
inductive CsrKind where
  | single | tenant | queue | governor | stack | die | tenantStack
  deriving DecidableEq, Repr

/-- The index kind of a register (R378). -/
def csrKind (n : BitVec 9) : CsrKind :=
  let k := n.toNat
  if k = 0x018 ∨ (0x040 ≤ k ∧ k ≤ 0x04F) then .tenant
  else if k = 0x060 then .queue
  else if 0x080 ≤ k ∧ k ≤ 0x083 then .governor
  else if 0x0C0 ≤ k ∧ k ≤ 0x0C4 then .stack
  else if k = 0x0C5 then .tenantStack
  else if k = 0x0E0 ∨ k = 0x0E2 then .die
  else .single

/-- Whether an index lies in the range of its kind (R376). -/
def CsrKind.inRange (k : CsrKind) (i : Nat) : Bool :=
  match k with
  | .single => true
  | .tenant => decide (i < 256)
  | .queue => decide (i < 64)
  | .governor => decide (i < 8)
  | .stack => decide (i < 12)
  | .die => decide (i < 2)
  | .tenantStack => decide (natBits i 8 4 < 12)

/-- Whether a register lives at a cluster, stack or channel die: a CSRR of it is delivered (R377). -/
def CsrKind.remote : CsrKind → Bool
  | .governor | .stack | .die | .tenantStack => true
  | _ => false

/-- The index that a CSRR takes from gd and a CSRW from g[a][63:56], an unprivileged context's tenant being its own
(R376). -/
def csrIndex (k : CsrKind) (l : Line) (v : Nat) : Nat := if k = .tenant ∧ l.priv = false then l.tenant else v

/-! ## Reads -/

/-- IU_SLOTQ0 or IU_SLOTQ1: the owners of eight slots (R298). -/
def slotqWord (slots : List Slot) (first : Nat) : W64 :=
  ofLanes 8 8 (fun i => match (nth slots (first + i) Slot.reset).owner with | some q => 128 + q | none => 0)

/-- The arrival-log registers of a port, by their number 0 to 3 (R217). -/
def ALog.word (a : ALog) (k : Nat) : W64 :=
  match k with
  | 0 => w64 a.base
  | 1 => w64 a.log2n
  | 2 => w64 (a.seq * 2 ^ 32 + a.index)
  | _ => w64 (b2n a.lost * 16 + b2n a.diverged * 8 + b2n a.ovf * 4 + a.mode)

/-- The registers of a tenant (R379). -/
def Tenant.word (t : Tenant) (k : Nat) : W64 :=
  match k with
  | 0x040 => w64 (t.vec.toNat + b2n t.vecEn)
  | 0x041 => w64 t.ptb.toNat
  | 0x042 => w64 t.htab.toNat
  | 0x043 => w64 t.hlen
  | 0x044 => w64 t.hfree
  | 0x045 => w64 (bits t.qset 0 32)
  | 0x046 => w64 (bits t.qset 32 32)
  | 0x047 => w64 t.pinq
  | 0x048 => w64 (t.kshrV.toNat * 2 ^ 32 + t.kshrS.toNat)
  | _ => let b := nth t.bk (k - 0x04C) (0, false)
         w64 (b.1.toNat + b2n b.2)

/-- A QWT entry (R295). -/
def Qwt.word (w : Qwt) : W64 := w64 (w.quant * 2 ^ 16 + w.cls * 2 ^ 8 + w.weight)

/-- The registers of a governor entry, by their number 0 to 3 (R313). -/
def Gov.word (e : Gov) (k : Nat) : W64 :=
  match k with
  | 0 => w64 e.ring
  | 1 => w64 (e.cons * 2 ^ 8 + e.prod)
  | 2 => w64 e.aph
  | _ => w64 e.per

/-- What a CSRR reads at a unit under an index in range (R377, R378).  A register of an IU alone reads 0 on a CIU, and so does
one of a cluster's governor there. -/
def State.csrValue (s : State) (u : Nat) (n : BitVec 9) (i : Nat) : W64 :=
  let x := s.unit u
  let k := n.toNat
  let iu (v : W64) : W64 := if u < 1536 then v else 0
  if 0x040 ≤ k ∧ k ≤ 0x04F then (s.tenant i).word k
  else if 0x080 ≤ k ∧ k ≤ 0x083 then iu ((nth (s.cluster (u / 96)).gov i Gov.reset).word (k - 0x080))
  else if 0x0C0 ≤ k ∧ k ≤ 0x0C3 then (s.stack i).alog.word (k - 0x0C0)
  else if 0x010 ≤ k ∧ k ≤ 0x013 then iu (x.alog.word (k - 0x010))
  else match k with
    | 0x000 => x.rot
    | 0x001 => iu x.mrot
    | 0x002 => iu (x.mrotv.setWidth 64)
    | 0x003 => w64 (x.fwLevel * 16 + x.level)
    | 0x004 => slotqWord x.slots 0
    | 0x005 => slotqWord x.slots 8
    | 0x006 => iu (w64 x.accOwn)
    | 0x007 => w64 (s.device * 2 ^ 32 + u)
    | 0x018 => iu (x.dqCfgWord i)
    | 0x060 => (s.queue i).word
    | 0x0C4 => w64 (b2n (s.stack i).duel)
    | 0x0C5 => let p := (Assoc.get (s.stack (natBits i 8 4)).psel (i % 256)).getD (511, 0)
               w64 (p.2 * 2 ^ 16 + p.1)
    | 0x0E0 => w64 ((Assoc.get s.corr i).getD 0)
    | 0x0E2 => w64 (s.quarCount i)
    | _ => 0

/-- CSRR (R375-R378). -/
def csrrBody (d : Reg) (n : BitVec 9) (e : Env) (s : State) : Except Stop State :=
  let k := csrKind n
  let i := csrIndex k e.line (e.line.reg d).toNat
  let v := if k.inRange i then s.csrValue e.u n i else 0
  if k.remote then
    if 63 ≤ e.line.loads then .error (.waste (.counters fullLoads))
    else .ok ((s.setCtx e.va ⟨e.line.startLoad d, e.book⟩).post (.load e.va d v false))
  else .ok (s.setCtx e.va ⟨(e.line.setReg d v).advance, e.book⟩)

/-- CSRR (R375-R378). -/
def execCsrr (g : Guard) (d : Reg) (n : BitVec 9) (s : State) : Out :=
  .next (s.issueWith g (csrReadPriv n) true [d] (csrrBody d n))

/-! ## Writes -/

/-- A write to an arrival-log register (R217).  A move of MODE away from 0 begins a new count of arrivals (R216), and one to
2 the time of R220. -/
def ALog.write (a : ALog) (k : Nat) (v : W64) (cycle : Nat) : ALog :=
  match k with
  | 0 => { a with base := bits v 12 40 * 4096 }
  | 1 => if 8 ≤ bits v 0 5 ∧ bits v 0 5 ≤ 24 then { a with log2n := bits v 0 5 } else a
  | 2 => { a with index := bits v 0 32, edge := false }
  | _ =>
    let m := if bits v 0 2 = 3 then a.mode else bits v 0 2
    { a with
      lost := a.lost && !(bit v 4)
      diverged := a.diverged && !(bit v 3)
      ovf := a.ovf && !(bit v 2)
      mode := m
      seq := if a.mode = 0 ∧ m ≠ 0 then 0 else a.seq
      since := if a.mode ≠ 2 ∧ m = 2 then cycle else a.since }

/-- Whether a set of queues meets the set of another tenant (R350). -/
def State.queuesTaken (s : State) (t : Nat) (q : W64) : Bool :=
  s.tenants.any (fun x => x.1 != t && x.2.qset &&& q != 0)

/-- A word VA with its low bit as a flag: TEN_VEC and TEN_BK (R379). -/
def wordVa (v : W64) : VAddr := BitVec.ofNat 56 (bits v 2 54 * 4)

/-- A write to a register of a tenant (R350, R379). -/
def State.writeTenant (s : State) (t k : Nat) (v : W64) : State :=
  let set (f : Tenant → Tenant) : State := s.modTenant t f
  let qset (q : W64) : State := if s.queuesTaken t q then s else set (fun x => { x with qset := q })
  match k with
  | 0x040 => set (fun x => { x with vec := wordVa v, vecEn := bit v 0 })
  | 0x041 => set (fun x => { x with ptb := regVa v })
  | 0x042 => set (fun x => { x with htab := BitVec.ofNat 56 (bits v 12 44 * 4096) })
  | 0x043 => if bits v 0 25 ≤ 2 ^ 24 then set (fun x => { x with hlen := bits v 0 25 }) else s
  | 0x044 => set (fun x => { x with hfree := bits v 0 24 })
  | 0x045 => qset (w64 (bits (s.tenant t).qset 32 32 * 2 ^ 32 + bits v 0 32))
  | 0x046 => qset (w64 (bits v 0 32 * 2 ^ 32 + bits (s.tenant t).qset 0 32))
  | 0x047 => set (fun x => { x with pinq := bits v 0 24 })
  | 0x048 => set (fun x => { x with kshrV := BitVec.ofNat 4 (bits v 32 4), kshrS := v.setWidth 32 })
  | _ => set (fun x => { x with bk := setNth x.bk (k - 0x04C) (wordVa v, bit v 0) })

/-- A write to a governor register: the entry's ADJ and count are 0 again (R313, R314).  A MARK of 17 to 31 is kept as written (DESIGN
CHOICE, log 90). -/
def Gov.write (e : Gov) (k : Nat) (v : W64) : Gov :=
  let e0 := { e with adj := 0, ops := 0 }
  match k with
  | 0 => { e0 with ring := bits v 0 40 }
  | 1 => { e0 with cons := bits v 8 6, prod := bits v 0 6 }
  | 2 => { e0 with aph := bits v 0 5 }
  | _ => { e0 with per := bits v 0 5 }

/-- A write to a unit register or a row of DQ_CFG: it takes effect before the issuer's next turn (R329, R377, R378). -/
def State.writeUnitReg (s : State) (u : Nat) (priv : Bool) (n : BitVec 9) (i : Nat) (v : W64) : State :=
  let k := n.toNat
  if k = 0x003 then s.modUnit u (fun x => { x with fwLevel := bits v 4 4 })
  else if 1536 ≤ u then s
  else if 0x010 ≤ k ∧ k ≤ 0x013 then
    s.modUnit u (fun x => { x with alog := x.alog.write (k - 0x010) v x.cycle })
  else if k = 0x018 then
    let s1 := s.setDqCfg u i v
    if priv && !(bit v 40) then s1.setFrozen u i false else s1
  else s

/-- A write to a register held device-wide, or at a cluster, a stack or a channel die (R377). -/
def State.writeSharedReg (s : State) (u : Nat) (n : BitVec 9) (i : Nat) (v : W64) : State :=
  let k := n.toNat
  if 0x040 ≤ k ∧ k ≤ 0x04F then s.writeTenant i k v
  else if 0x080 ≤ k ∧ k ≤ 0x083 then
    if u < 1536 then
      s.modCluster (u / 96) (fun c => { c with gov := setNth c.gov i ((nth c.gov i Gov.reset).write (k - 0x080) v) })
    else s
  else if 0x0C0 ≤ k ∧ k ≤ 0x0C3 then
    s.modStack i (fun x => { x with alog := x.alog.write (k - 0x0C0) v (s.portCycle (.stack i)) })
  else if k = 0x0C4 then s.modStack i (fun x => { x with duel := bit v 0 })
  else if k = 0x0E0 then { s with corr := Assoc.set s.corr i (bits v 0 32) }
  else s

/-! ## Open messages (R311, R312) -/

/-- A context halted between two instructions: its slot is empty (R22, R23). -/
def State.haltNow (s : State) (va : Nat) : State := ((s.vacate va).setSt va .halted .debug).payHalt va

/-- A write to LNK_TXW: it opens a message or appends a word; a ninth word traps (R311, R312). -/
def txwBody (v : W64) (e : Env) (s : State) : Except Stop State :=
  if e.line.openMsg then
    if 8 ≤ e.book.msg.length then .error (.trap 0x13 0 0)
    else .ok (s.setCtx e.va ⟨e.line.advance, { e.book with msg := e.book.msg ++ [v] }⟩)
  else
    .ok (s.setCtx e.va ⟨{ e.line with openMsg := true }.advance, { e.book with msg := [v], msgStart := s.issueCycle e.u }⟩)

/-- A write to LNK_TXE: the last word, the message sent with the issuer's unit and tenant, and a HALT that waited
(R311, R390). -/
def txeBody (v : W64) (e : Env) (s : State) : Except Stop State :=
  let ws := if e.line.openMsg then e.book.msg ++ [v] else [v]
  if 8 < ws.length then .error (.trap 0x13 0 0)
  else
    let s1 := (s.setCtx e.va ⟨{ e.line with openMsg := false }.advance, { e.book with msg := [] }⟩).sendHost
      ⟨0x0A, e.u, e.line.tenant, 0, ws⟩
    .ok (if e.line.haltReq then s1.haltNow e.va else s1)

/-- LNK_TXW (R311). -/
def execLnkTxw (g : Guard) (a : Reg) (s : State) : Out :=
  .next (s.issueWith g false true [a] (fun e s => txwBody (e.line.reg a) e s))
/-- LNK_TXE (R311). -/
def execLnkTxe (g : Guard) (a : Reg) (s : State) : Out :=
  .next (s.issueWith g false true [a] (fun e s => txeBody (e.line.reg a) e s))

/-! ## Releasing a block (R366) -/

/-- A quarantined block released: zero, full, tagged under the slot recorded, held in no cache, out of the table; accesses that waited at its
words are served (R262, R366). -/
def State.releaseBlock (s : State) (block : Nat) : State :=
  match Assoc.get s.quarantine block with
  | none => s
  | some (kslot, _) =>
    let pa := block * 64
    let s1 : State := { s.uncache block with
      mem := Memory.writeRange s.mem pa (List.replicate 64 0)
      feEmpty := s.feEmpty.filter (fun a => a / 64 != block)
      blockTag := match Assoc.get s.keys kslot with
        | some m => Assoc.set s.blockTag block (kslot, m)
        | none => Assoc.erase s.blockTag block
      quarantine := Assoc.erase s.quarantine block
      damage := Assoc.erase s.damage block }
    (List.range 8).foldl (fun s i => s.serveWord (pa + 8 * i)) s1

/-- The end of a CSRW that counts in STORES until its register holds the value everywhere (R377). -/
def countedWrite (e : Env) (f : State → State) (s : State) : Except Stop State :=
  if 63 ≤ e.line.stores then .error (.waste (.counters fullStores))
  else .ok ((f (s.setCtx e.va ⟨e.line.startStore, e.book⟩)).post (.ack e.va))

/-- MIE_QCLR (R366, R379): a PA not in the table does nothing; [5:0] and [63:52] are no part of the block. -/
def execMieQclr (g : Guard) (a : Reg) (s : State) : Out :=
  .next (s.issueWith g true true [a] (fun e s =>
    .ok ((s.setCtx e.va ⟨e.line.advance, e.book⟩).releaseBlock (bits (e.line.reg a) 6 46))))

/-- CSRW (R311, R375-R379). -/
def csrwBody (a : Reg) (n : BitVec 9) (e : Env) (s : State) : Except Stop State :=
  let v := e.line.reg a
  let go (s : State) : Except Stop State := .ok (s.modLine e.va Line.advance)
  let k := csrKind n
  match n.toNat with
  | 0x100 => txwBody v e s
  | 0x101 => txeBody v e s
  | 0x0E1 => go (s.releaseBlock (bits v 6 46))
  | m =>
    if k = .single then go (s.writeUnitReg e.u e.line.priv n 0 v)
    else
      let i := csrIndex k e.line (bits v 56 8)
      let w := w64 (bits v 0 56)
      if !(k.inRange i) then go s
      else if m = 0x018 then go (s.writeUnitReg e.u e.line.priv n i w)
      else if csrWritePriv n || k = .tenant then countedWrite e (fun s => s.writeSharedReg e.u n i w) s
      else go s

/-- CSRW (R375-R379). -/
def execCsrw (g : Guard) (a : Reg) (n : BitVec 9) (s : State) : Out :=
  .next (s.issueWith g (csrWritePriv n) true [a] (csrwBody a n))

/-- The privileged write to DQ_CFG (R342, R378): with bit 40 clear it also clears FROZEN. -/
def execDqCfgPrivWrite (g : Guard) (a : Reg) (s : State) : Out :=
  .next (s.issueWith g true true [a] (csrwBody a 0x018))

/-! ## Acknowledgments (R251, R377) -/

/-- STORE_ACKNOWLEDGE (R251): of a store performed already, of a QWT entry that every unit holds (R384), or of a store performed at its
home now. -/
def execStoreAcknowledge (id : Nat) (s : State) : Out :=
  match s.msg? id with
  | some (.ack va) => .next ((s.dropMsg id).ackStore va)
  | some (.qwtSet va _ _ us) =>
    if us.any (fun u => s.unitUp u) then noOccasion "STORE_ACKNOWLEDGE" else .next ((s.dropMsg id).ackStore va)
  | some (.ustore _ _ _ _ _ _ _) => arriveUstore id s
  | some (.frameInit _ _ _ _ _ _) => arriveFrame id s
  | _ => noOccasion "STORE_ACKNOWLEDGE"

end Sys2Proof.Machine
end

