-- ==== Sys2Proof/Config.lean ====
section
/-! DEFINITION. What an implementation fixes, and the free values: constants without a body, of which nothing can be
evaluated or proved.  The log entries named in the docstrings say what each stands for. -/

namespace Sys2Proof.Config

/-- Free value (log 5): the signature r and s of an attestation report, 12 doublewords, over the SHA-384 digest of its other 256
bytes (R371).  ECDSA draws a nonce, so the spec fixes no value. -/
opaque attestSignature : Nat → List W64 → List W64

/-- Free value (log 5): the identity public key, twelve doublewords, derived from fused secrets at every start (R371). -/
opaque identityKey : Nat → List W64

/-- Free value (log 5): the device serial (R371). -/
opaque serial : W64

/-- Free value (log 5): the key material that a wrapped key unwraps to, or none where it does not unwrap (R400). -/
opaque unwrapKey : List W64 → Option KeyMat

/-- Free value (log 5): the SHA-384 digest, six doublewords, of the firmware images that start n runs (R371). -/
opaque firmwareDigest : Nat → List W64

/-- Free value (log 5): the security version of the firmware images that start n runs (R370). -/
opaque firmwareVersion : Nat → W32

end Sys2Proof.Config
end

