-- ==== Sys2Proof/Machine/Privileged.lean ====
section
/-! DEFINITION. TRAP, BKPT, RTE, the debug instructions and the privileged instructions of major 0x3C, and the events that end
them (R22, R23, R39-R43, R354, R355, R360, R368, R372-R374, R380-R388, R393). -/

namespace Sys2Proof.Machine

/-! ## Traps and returns (R373, R374) -/

/-- TRAP (R373): cause 0x16 with CTX.PC at the next instruction. -/
def execTrap (g : Guard) (s : State) : Out :=
  .next (s.issueWith g false true [] (fun e s => s.raiseNext e 0x16))
/-- BKPT (R373): cause 0x14 with CTX.PC at the BKPT. -/
def execBkpt (g : Guard) (s : State) : Out :=
  .next (s.issueWith g false true [] (fun _ _ => .error (.trap 0x14 0 0)))

/-- What RTE does to its target at the target's owner (R374): the new PC, CAUSE 0, READY; where it resumes it sees the
handler's stores (R190, R195). -/
def State.returnTo (s : State) (u t : Nat) (pc : Option W64) : State :=
  (s.modCtx t (fun c =>
    { line := { c.line with cause := 0, pc := match pc with | some v => regVa v | none => c.line.pc },
      book := { c.book with ranOn := if c.book.ranOn = some u then some u else none } })).makeReady t

/-- The return to a target: here, or at the device that its line was sent to, which is told (R27, R374; log 28). -/
def State.returnAt (s : State) (u t : Nat) (pc : Option W64) : State :=
  match s.away t with
  | some dev => s.tell dev [18, w64 t, (if pc.isSome then 1 else 0), pc.getD 0]
  | none => s.returnTo u t pc

/-- RTE (R374): pc is the register with the new PC, in the form that has one.  The handler's release is complete before the target
becomes READY, the unit's write-backs that another release started included (R195).  Only the turn in which it would complete, or park,
ends an open message (R312; log 11). -/
def rteBody (a : Reg) (b : Option Reg) (e : Env) (s : State) : Except Stop State :=
  let v := e.line.reg a
  let t := va56 v
  let pc := b.map (fun r => e.line.reg r)
  if !(e.line.meets doneCond) then .error (.waste (.counters doneCond))
  else if s.owesRelease e then s.startRelease e doneCond
  else if s.releasing e.u then .error (.waste (.counters doneCond))
  else match s.arenaOf t with
    | none => .error (.trap 0x05 v 0)
    | some own =>
      if t % 128 ≠ 0 then .error (.trap 0x05 v 0)
      else if own ≠ e.line.tenant ∧ e.line.priv = false then .error (.trap 0x05 v 0)
      else if pc.any (fun p => p.extractLsb' 0 2 != 0#2) then .error (.trap 0x03 (pc.getD 0) 0)
      else if (s.away t).isNone && (s.ctx? t).all (fun c => c.line.st != .trapped) then .error (.trap 0x05 v 0)
      else match s.frameTarget e e.line.join with
        | .error x => .error x
        | .ok f => if e.line.openMsg then .error (.trap 0x13 0 0) else .ok ((s.returnAt e.u t pc).finish e f)

/-- RTE (R374). -/
def execRte (g : Guard) (a : Reg) (s : State) : Out := .next (releaseTurn s (s.issueWith g false true [a] (rteBody a none)))
/-- RTE with a new PC (R374). -/
def execRteNewPc (g : Guard) (a b : Reg) (s : State) : Out :=
  .next (releaseTurn s (s.issueWith g false true [a, b] (rteBody a (some b))))

/-! ## Debug (R372, R386-R388) -/

/-- A status on its way to gd (R380, R386). -/
def State.status (s : State) (e : Env) (d : Reg) (n : Nat) : State := s.post (.load e.va d (w64 n) false)

/-- The line that a debug instruction names (R31, R372): in an arena of the issuer's tenant, unless the issuer is
privileged. -/
def State.debugTarget (s : State) (e : Env) (v : W64) : Except Stop Nat :=
  let t := va56 v / 128 * 128
  match s.arenaOf (va56 v) with
  | none => .error (.trap 0x05 (w64 t) 0)
  | some own => if own ≠ e.line.tenant ∧ e.line.priv = false then .error (.trap 0x05 (w64 t) 0) else .ok t

/-- The debug instructions, which name a line (R386, R387). -/
inductive DebugOp where
  | halt | haltQ | resume | step
  deriving DecidableEq, Repr

/-- The code of a debug instruction in a message to another device (log 28). -/
def DebugOp.code : DebugOp → Nat
  | .halt => 0 | .haltQ => 1 | .resume => 2 | .step => 3

/-- HALT at its target (R22, R23): HALTREQ is set, and a context that is READY, or ISSUING outside an open message, is HALTED
at once.  None where it has no effect. -/
def State.haltLine (s : State) (t : Nat) (c : Ctx) : Option State :=
  let s1 := s.modLine t (fun l => { l with haltReq := true })
  match c.line.st with
  | .ready => some (s1.haltNow t)
  | .issuing => some (if c.line.openMsg then s1 else s1.haltNow t)
  | .waiting | .transit | .halted => some s1
  | .free | .trapped | .done => none

/-- The statuses that HALT.Q still owes at a line end with 2, because the line runs on (R386). -/
def State.endHaltDue (s : State) (t : Nat) : State :=
  match s.ctx? t with
  | none => s
  | some c => c.book.haltDue.foldl (fun s x => s.post (.load x.ctx x.reg 2 false))
      (s.modBook t (fun b => { b with haltDue := [] }))

/-- Whether STEP applies to a line (R387). -/
def Line.steppable (l : Line) : Bool := l.st == .halted || (l.st == .trapped && (l.cause == 0x14 || l.cause == 0x15))

/-- What HALT does at its target, and the status that it sends at once: 0, or 1 where it has no effect (R386). -/
def State.haltAt (s : State) (t : Nat) : State × Nat :=
  match (s.ctx? t).bind (fun c => s.haltLine t c) with
  | some s1 => (s1, 0)
  | none => (s, 1)

/-- What RESUME does at its target (R386): HALTREQ cleared, and a HALTED line READY. -/
def State.resumeAt (s : State) (t : Nat) : State × Nat :=
  match s.ctx? t with
  | none => (s, 1)
  | some c =>
    if c.line.st ≠ .halted ∧ c.line.haltReq = false then (s, 1)
    else
      let s1 := (s.modLine t (fun l => { l with haltReq := false })).endHaltDue t
      (if c.line.st = .halted then s1.makeReady t else s1, 0)

/-- What STEP does at its target (R387): STAT.STEP set, CAUSE 0, READY for one instruction. -/
def State.stepAt (s : State) (t : Nat) : State × Nat :=
  match s.ctx? t with
  | none => (s, 1)
  | some c =>
    if !c.line.steppable then (s, 1)
    else
      let s1 := s.modCtx t (fun c =>
        { line := { c.line with stepOn := true, cause := 0, haltReq := false },
          book := { c.book with stepIssued := false } })
      ((s1.endHaltDue t).makeReady t, 0)

/-- A debug instruction at its target, whose status goes to a register of a context (R386, R387); that of HALT.Q waits until the line is
HALTED with ENGS and TILES zero. -/
def State.debugAt (s : State) (op : DebugOp) (t ctx : Nat) (d : Reg) : State :=
  let send (r : State × Nat) : State := r.1.post (.load ctx d (w64 r.2) false)
  match op with
  | .halt => send (s.haltAt t)
  | .haltQ => match s.haltAt t with
    | (s1, 0) => (s1.modBook t (fun b => { b with haltDue := b.haltDue ++ [⟨ctx, d⟩] })).payHalt t
    | r => send r
  | .resume => send (s.resumeAt t)
  | .step => send (s.stepAt t)

/-- A debug instruction (R31, R372, R386, R387): its status counts in LOADS, and it acts on its target at the line's owner, which is asked
for it on another device (R27; log 28). -/
def debugBody (op : DebugOp) (d a : Reg) (e : Env) (s : State) : Except Stop State :=
  match s.debugTarget e (e.line.reg a) with
  | .error x => .error x
  | .ok t =>
    if 63 ≤ e.line.loads then .error (.waste (.counters fullLoads))
    else
      let s1 := s.setCtx e.va ⟨e.line.startLoad d, e.book⟩
      match s1.away t with
      | some dev => .ok ((s1.post (.statusReq e.va d)).ask s1.nextId dev [14, w64 op.code, w64 t])
      | none => .ok (s1.debugAt op t e.va d)

/-- HALT (R386). -/
def execHalt (g : Guard) (d a : Reg) (s : State) : Out := .next (s.issueWith g false false [d, a] (debugBody .halt d a))
/-- HALT.Q (R386). -/
def execHaltQ (g : Guard) (d a : Reg) (s : State) : Out := .next (s.issueWith g false false [d, a] (debugBody .haltQ d a))
/-- RESUME (R386). -/
def execResume (g : Guard) (d a : Reg) (s : State) : Out := .next (s.issueWith g false false [d, a] (debugBody .resume d a))
/-- STEP (R387). -/
def execStep (g : Guard) (d a : Reg) (s : State) : Out := .next (s.issueWith g false false [d, a] (debugBody .step d a))

/-! ## Translation entries (R354, R355, R381, R393) -/

/-- The entry of an image's four words (R354), with the BIAS of the page's record (R393). -/
def imageEntry (w0 w1 w2 : W64) (bias : Bool) : TlbEntry where
  tenant := bits w0 8 8
  size := match bits w0 0 2 with | 0 => 2 ^ 16 | 1 => 2 ^ 21 | 2 => 2 ^ 28 | _ => 2 ^ 32
  va := bits w0 16 40 * 65536
  pa := bits w1 16 36 * 65536
  kslot := bits w1 8 8
  hsel := bits w2 32 16
  cls := bits w2 24 8
  group := bit w2 8
  peerpin := bit w2 7
  bias := bias
  transformed := bit w2 5
  trace := bit w2 4
  x := bit w2 2
  w := bit w2 1
  r := bit w2 0

/-- Whether a stretch of VA meets the stream aperture (R282). -/
def meetsWindow (va n : Nat) : Bool := decide (va < 0xF0300000000000) && decide (0xF0000000000000 < va + n)

/-- The part of the physical map that an address lies in (R392). -/
def paRegion (pa : Nat) : Nat :=
  if isStack pa then 0 else if isHost pa then 1 else match peerOf pa with | some (d, _) => 2 + d | none => 99

/-- Whether an image is one that TLB.W accepts (R355). -/
def State.imageFits (s : State) (w0 w1 w2 w3 : W64) : Bool :=
  let t := imageEntry w0 w1 w2 false
  bits w0 56 8 == 0 && bits w0 2 6 == 0 && bits w1 52 12 == 0 && bits w1 0 8 == 0 && bits w2 48 16 == 0 &&
  bits w2 9 15 == 0 && bits w2 3 1 == 0 && w3 == 0 &&
  t.va % t.size == 0 && t.pa % t.size == 0 && !(meetsWindow t.va t.size) &&
  !(s.start.reserved.any (fun r => decide (t.pa < r.1 + r.2) && decide (r.1 < t.pa + t.size))) &&
  (t.transformed || t.cls == 0) && paRegion t.pa == paRegion (t.pa + t.size - 1)

/-- Whether two entries of one tenant overlap. -/
def TlbEntry.overlaps (a b : TlbEntry) : Bool :=
  a.tenant == b.tenant && decide (a.va < b.va + b.size) && decide (b.va < a.va + a.size)

/-- An entry written in a TLB (R352, R353, R355): it replaces every entry of its tenant that it overlaps; beyond 2,048 entries
the least recently used go.  The page is what software gave last (log 14). -/
def State.writeTlb (s : State) (t : TlbEntry) (u : Nat) : State :=
  { s.modUnit u (fun x => { x with tlb := (t :: x.tlb.filter (fun y => !(t.overlaps y))).take 2048 }) with
    mapped := t :: s.mapped.filter (fun y => !(t.overlaps y)) }

/-- The page records that an entry of stack memory sets (R393). -/
def State.setRecords (s : State) (t : TlbEntry) : State :=
  if !(isStack t.pa) then s
  else
    let lo := t.pa / 65536
    let n := t.size / 65536
    let rec' (p : Nat) : PageRec :=
      { s.pageRec p with
        valid := true, kslot := t.kslot, tenant := t.tenant, cls := t.cls, transformed := t.transformed
        peerpin := t.peerpin, w := t.w, r := t.r }
    { s with
      pageRecs := s.pageRecs.filter (fun e => decide (e.1 < lo)) ++ (List.range n).map (fun i => (lo + i, rec' (lo + i))) ++
        s.pageRecs.filter (fun e => decide (lo + n ≤ e.1)) }

/-- An accepted image written at each of some units.  Lines of the page whose home changes leave their old slices (R225), and a page
of a pin window that is now another page loses its pinning (R237). -/
def State.installEntry (s : State) (w0 w1 w2 : W64) (us : List Nat) : State :=
  let pa := bits w1 16 36 * 65536
  let t := imageEntry w0 w1 w2 (isStack pa && (s.pageRec (pa / 65536)).bias)
  let s1 := ((us.foldl (fun s u => s.writeTlb t u) s).setRecords t).setHoming ⟨t.pa, t.size, t.hsel, t.group⟩
  (s1.l2Flush (fun u l => decide (t.pa ≤ l.line * 64) && decide (l.line * 64 < t.pa + t.size) &&
    s1.homeSlice t.attr (l.line * 64) != u)).losePins t.tenant
      (fun v p => t.covers t.tenant (v * 65536) && t.addr (v * 65536) / 65536 != p)

/-- The units that a target word names, or none where it names one that does not exist or is fenced (R381). -/
def State.targets (s : State) (v : W64) : Option (List Nat) :=
  if bit v 16 then some ((List.range 1632).filter (fun u => s.unitUp u))
  else if s.unitUp (bits v 0 11) then some [bits v 0 11] else none

/-- TLB.W (R381): its image is read as a load of the issuer, and a block of it that fails is an error delivery (R253).  One that comes
after a change of ownership of its page waits for it (R396). -/
def tlbWBody (d a b : Reg) (e : Env) (s : State) : Except Stop State :=
  let va := va56 (e.line.reg a)
  if va % 32 ≠ 0 then .error (.trap 0x03 (w64 va) 0)
  else match s.issueBytes e va 32 with
    | .error (.bad fva pa k) =>
      if 63 ≤ e.line.loads then .error (.waste (.counters fullLoads))
      else match s.verify pa k with
        | (_, none) => .error (.hold (fun s => (s.verify pa k).1))
        | (s1, some c) => .ok ((s1.setCtx e.va ⟨e.line.startLoad d, e.book⟩).post (.error e.va d c fva false))
    | .error x => .error x
    | .ok (s1, bs) =>
      if 63 ≤ e.line.loads then .error (.waste (.counters fullLoads))
      else
        let w (i : Nat) : W64 := w64 (ofBytes ((bs.drop (8 * i)).take 8))
        let s2 := s1.setCtx e.va ⟨e.line.startLoad d, e.book⟩
        match s2.targets (e.line.reg b) with
        | none => .ok (s2.status e d 1)
        | some us =>
          if s.pagesHeld s.nextId (bits (w 1) 16 36) ((imageEntry (w 0) (w 1) (w 2) false).size / 65536) then .error (.hold id)
          else .ok (if s2.imageFits (w 0) (w 1) (w 2) (w 3) then (s2.installEntry (w 0) (w 1) (w 2) us).status e d 0
               else s2.status e d 1)

/-- TLB.W (R381). -/
def execTlbW (g : Guard) (d a b : Reg) (s : State) : Out := .next (s.issueWith g true false [d, a, b] (tlbWBody d a b))

/-- Whether a removal word names an entry (R381). -/
def removes (v : W64) (t : TlbEntry) : Bool :=
  t.tenant == bits v 8 8 && (bit v 63 || t.overlaps { imageEntry v 0 0 false with tenant := t.tenant })

/-- Entries removed at a unit: gone from its TLB, the dirty bytes stored under them written back (R360). -/
def State.removeEntries (s : State) (v : W64) (u : Nat) : State × List (Nat × Nat × Nat) :=
  let gone := (s.unit u).tlb.filter (fun t => removes v t)
  match gone with
  | [] => (s, [])
  | _ =>
    let s1 := s.modUnit u (fun x => { x with tlb := x.tlb.filter (fun t => !(removes v t)) })
    let held := ((s1.unit u).dl1.filter (fun b => b.2.dirty && b.2.attr.tenant == bits v 8 8 &&
      gone.any (fun t => decide (t.pa ≤ b.1) && decide (b.1 < t.pa + t.size)))).foldl
      (fun ls b => NatSet.insert ls (b.1 / 64)) []
    (s1.releaseLines u none held, gone.map (fun t => (u, t.pa, t.size)))

/-- Whether a 64 KiB page of a tenant is one that a removal word names and that no TLB maps any longer: the page is unmapped (R237;
log 19). -/
def State.unmapped (s : State) (v : W64) (page : Nat) : Bool :=
  removes v { imageEntry v 0 0 false with va := page * 65536, size := 65536, tenant := bits v 8 8 } &&
  !(s.units.any (fun u => u.2.tlb.any (fun t => t.covers (bits v 8 8) (page * 65536))))

/-- TLB.I (R360, R381): the entries go at once; its status waits for the accesses made through them. -/
def tlbIBody (d a b : Reg) (e : Env) (s : State) : Except Stop State :=
  if 63 ≤ e.line.loads then .error (.waste (.counters fullLoads))
  else
    let s1 := s.setCtx e.va ⟨e.line.startLoad d, e.book⟩
    match s1.targets (e.line.reg b) with
    | none => .ok (s1.status e d 1)
    | some us =>
      let r : State × List (Nat × Nat × Nat) := us.foldl (fun (r : State × List (Nat × Nat × Nat)) u =>
        let x := r.1.removeEntries (e.line.reg a) u
        (x.1, r.2 ++ x.2)) (s1, [])
      let s2 := { r.1 with mapped := r.1.mapped.filter (fun t => !(removes (e.line.reg a) t)) }.losePins
        (bits (e.line.reg a) 8 8) (fun v _ => r.1.unmapped (e.line.reg a) v)
      .ok (s2.post (.tlbInv e.va d (bits (e.line.reg a) 8 8) r.2))

/-- TLB.I (R381). -/
def execTlbI (g : Guard) (d a b : Reg) (s : State) : Out := .next (s.issueWith g true false [d, a, b] (tlbIBody d a b))

/-- An access translated at its issue: its place among the numbers of messages, and its unit, tenant and physical address. -/
structure Underway where
  seq : Nat
  unit : Nat
  tenant : Nat
  pa : Nat

/-- The access of a ring operation: of its entry (R38, R169). -/
def State.ringAccess (s : State) (rq : RingReq) : Underway :=
  let tenant := match rq.who with
    | .ctx va => match s.ctx? va with | some c => c.line.tenant | none => 0
    | .cmd id => match s.cmds.find? (fun c => c.id == id) with | some c => c.tenant | none => 0
    | _ => 0
  ⟨rq.seq, rq.unit, tenant, rq.ring.entry⟩

/-- The access that a message under way stands for, if it was translated at its issue (R360). -/
def State.accessOf (s : State) (id : Nat) : Msg → Option Underway
  | .ustore _ u a _ _ pa _ => some ⟨id, u, a.tenant, pa⟩
  | .frameInit _ u a _ pa _ => some ⟨id, u, a.tenant, pa⟩
  | .loadReq _ u _ _ a _ _ pa _ _ => some ⟨id, u, a.tenant, pa⟩
  | .writeBack u _ a _ cs => match cs with | [] => none | c :: _ => some ⟨id, u, a.tenant, c.1⟩
  | .sync rq => some ⟨rq.seq, rq.unit, rq.attr.tenant, rq.pa⟩
  | .syncRefused rq _ => some ⟨rq.seq, rq.unit, rq.attr.tenant, rq.pa⟩
  | .moonlet _ u a _ _ pa _ => some ⟨id, u, a.tenant, pa⟩
  | .frameInc _ u a _ pa => some ⟨id, u, a.tenant, pa⟩
  | .frameDec _ u a _ pa _ => some ⟨id, u, a.tenant, pa⟩
  | .await _ u a _ pa _ => some ⟨id, u, a.tenant, pa⟩
  | .awaitRefused _ u a _ pa _ _ => some ⟨id, u, a.tenant, pa⟩
  | .ringOp rq => some (s.ringAccess rq)
  | _ => none

/-- Every access that remains to be performed: messages under way, deferred full/empty accesses, armed AWAITs and waiting ring
operations (R262, R322, R344). -/
def State.accesses (s : State) : List Underway :=
  s.wire.filterMap (fun m => s.accessOf m.1 m.2) ++
  s.deferred.flatMap (fun d => d.2.map (fun rq => ⟨rq.seq, rq.unit, rq.attr.tenant, rq.pa⟩)) ++
  s.armed.map (fun d => ⟨d.2.2.2.2, d.2.2.1, (match s.ctx? d.2.1 with | some c => c.line.tenant | none => 0), d.1⟩) ++
  s.ringLists.flatMap (fun d => d.2.map (fun rq => s.ringAccess rq))

/-- Whether an engine command is among its elements: writes of it may remain to be performed (R360). -/
def CmdPhase.started : CmdPhase → Bool
  | .marked | .moving => true
  | .queued | .ringWait | .draining | .grouped | .ended _ | .handed _ _ _ => false

/-- Whether an access was made through one of the entries that a TLB.I removed. -/
def throughGone (tenant : Nat) (gone : List (Nat × Nat × Nat)) (a : Underway) : Bool :=
  a.tenant == tenant && gone.any (fun t => t.1 == a.unit && decide (t.2.1 ≤ a.pa) && decide (a.pa < t.2.1 + t.2.2))

/-- TLB_INVALIDATE_COMPLETE (R360): nothing translated through a removed entry remains to be performed, not an access, a tile
operation or an element of a started engine command of the tenant at one of the units. -/
def execTlbInvalidateComplete (id : Nat) (s : State) : Out :=
  match s.msg? id with
  | some (.tlbInv va r tenant gone) =>
    let at' (unit t : Nat) : Bool := t == tenant && gone.any (fun x => x.1 == unit)
    if s.accesses.any (fun a => decide (a.seq < id) && throughGone tenant gone a) ||
        s.tileOps.any (fun o => decide (o.id < id) && at' o.unit o.tenant) ||
        s.cmds.any (fun c => decide (c.id < id) && c.phase.started && at' c.unit c.tenant) then
      noOccasion "TLB_INVALIDATE_COMPLETE"
    else .next ((s.dropMsg id).post (.load va r 0 false))
  | _ => noOccasion "TLB_INVALIDATE_COMPLETE"

/-! ## Keys (R361, R368, R382) -/

/-- KEY.LD and KEY.CLR: the request goes to the management core (R382). -/
def keyBody (d : Reg) (slot : W64) (key : Option Nat) (e : Env) (s : State) : Except Stop State :=
  if 63 ≤ e.line.loads then .error (.waste (.counters fullLoads))
  else .ok ((s.setCtx e.va ⟨e.line.startLoad d, e.book⟩).post (.keyChange e.va d (bits slot 0 8) key))

/-- KEY.LD (R382). -/
def execKeyLd (g : Guard) (d a b : Reg) (s : State) : Out :=
  .next (s.issueWith g true false [d, a, b] (fun e s => keyBody d (e.line.reg a) (some (bits (e.line.reg b) 0 32)) e s))
/-- KEY.CLR (R382). -/
def execKeyClr (g : Guard) (d a : Reg) (s : State) : Out :=
  .next (s.issueWith g true false [d, a] (fun e s => keyBody d (e.line.reg a) none e s))

/-- KEY_SLOT_CHANGE (R368, R382): in order of arrival; the slot's lines leave the memory-side caches, dirty bytes written back under the
old key, and then the slot changes.  An identifier that is not known changes nothing. -/
def execKeySlotChange (id : Nat) (s : State) : Out :=
  match s.msg? id with
  | some (.keyChange va r slot key) =>
    if s.wire.any (fun m => decide (m.1 < id) && (match m.2 with | .keyChange _ _ _ _ => true | _ => false)) then
      noOccasion "KEY_SLOT_CHANGE"
    else
      let s1 := s.dropMsg id
      let s2 := s1.mscFlush (fun l => l.kslot == slot)
      match key with
      | none => .next ({ s2 with keys := Assoc.erase s2.keys slot }.post (.load va r 0 false))
      | some k => match Assoc.get s.keyStore k with
        | none => .next (s1.post (.load va r 1 false))
        | some m => .next ({ s2 with keys := Assoc.set s2.keys slot m }.post (.load va r 0 false))
  | _ => noOccasion "KEY_SLOT_CHANGE"

/-! ## Tables and queues (R292, R295, R383, R384) -/

/-- Whether SLOT.SET accepts a value for a table of a unit (R292, R383). -/
def State.tableFits (s : State) (u table : Nat) (v : W64) : Bool :=
  s.unitUp u &&
  (match table with
    | 0 => rotLegal v
    | 1 => decide (u < 1536)
    | 2 => decide (u < 1536) && bits v 16 48 == 0
    | _ => false)

/-- SLOT.SET (R383): the value waits for the unit's next boundary, which delivers its status. -/
def slotSetBody (d a b : Reg) (e : Env) (s : State) : Except Stop State :=
  if 63 ≤ e.line.loads then .error (.waste (.counters fullLoads))
  else
    let v := e.line.reg b
    let u := bits v 16 11
    let s1 := s.setCtx e.va ⟨e.line.startLoad d, e.book⟩
    if s1.tableFits u (bits v 0 2) (e.line.reg a) then
      .ok (s1.modUnit u (fun x => { x with tableSets := x.tableSets ++ [⟨bits v 0 2, e.line.reg a, e.va, d⟩] }))
    else .ok (s1.status e d 1)

/-- SLOT.SET (R383). -/
def execSlotSet (g : Guard) (d a b : Reg) (s : State) : Out := .next (s.issueWith g true false [d, a, b] (slotSetBody d a b))

/-- QWT.SET (R295, R384): the entry is written, each unit takes it up at its next rotation boundary, and the instruction counts in STORES
until every unit that has run holds it. -/
def execQwtSet (g : Guard) (a b : Reg) (s : State) : Out :=
  .next (s.issueWith g true false [a, b] (fun e s =>
    let v := e.line.reg b
    let q := bits (e.line.reg a) 0 6
    if 63 ≤ e.line.stores then .error (.waste (.counters fullStores))
    else
      let s1 := s.setCtx e.va ⟨e.line.startStore, e.book⟩
      .ok ({ s1 with qwt := Assoc.set s1.qwt q ⟨bits v 16 8, bits v 8 2, bits v 0 8⟩ }.post
        (.qwtSet e.va q (s.queue q) (s.units.map (fun (x : Nat × Unit) => x.1))))))

/-! ## Arenas (R39, R40, R43, R385) -/

/-- Step 1 of R385: every allocator's cached lines of a tenant, and for tenant 0 its reserve lines, go back to the old arena's
free list. -/
def State.emptyCaches (s : State) (u tenant : Nat) : State :=
  (List.range 16).foldl (fun s c =>
    let x := s.cluster c
    let vas := (Assoc.get x.cache tenant).getD [] ++ (if tenant = 0 then x.reserve else [])
    match vas with
    | [] => s
    | _ => (s.modCluster c (fun x =>
        { x with cache := Assoc.erase x.cache tenant, reserve := if tenant = 0 then [] else x.reserve })).pushFree u tenant vas) s

/-- Up to n lines of the system arena into a cluster's reserve (R43). -/
def State.fillReserve (s : State) (u c : Nat) : Nat → State
  | 0 => s
  | n + 1 => match s.allocFrom u c 0 with
    | none => s.openArena u c 0
    | some (va, s1) => (s1.modCluster c (fun x => { x with reserve := x.reserve ++ [va] })).fillReserve u c n

/-- Whether ARENA.SET refuses a base and a count for a tenant (R385); a count of 0 removes the arena and overlaps nothing. -/
def State.arenaRefused (s : State) (tenant base count : Nat) : Bool :=
  let others := s.tenants.filterMap (fun t => if t.1 = tenant then none else t.2.arena)
  base % 128 != 0 || count == 1 || decide (16777216 < (others.map (fun a => a.2)).foldl (· + ·) count) ||
  decide (0 < count) && others.any (fun a => decide (base < a.1 + 128 * a.2) && decide (a.1 < base + 128 * count))

/-- An arena installed (R385). -/
def State.setArena (s : State) (u tenant base count : Nat) (keep : Bool) : State :=
  let s1 := s.emptyCaches u tenant
  if count = 0 then s1.modTenant tenant (fun t => { t with arena := none })
  else
    let s2 := s1.modTenant tenant (fun t => { t with arena := some (base, count) })
    let s3 := if keep then s2
      else (((s2.setHeader u tenant 0x00 1).setHeader u tenant 0x08 count).setHeader u tenant 0x10 0).setHeader u tenant 0x18 0
    if tenant = 0 then
      (List.range 16).foldl (fun s c => if s.clusterUp c then s.fillReserve u c 16 else s) s3
    else s3

/-- ARENA.SET (R385). -/
def arenaSetBody (d a b : Reg) (e : Env) (s : State) : Except Stop State :=
  if 63 ≤ e.line.loads then .error (.waste (.counters fullLoads))
  else
    let v := e.line.reg a
    let base := va56 (e.line.reg b)
    let count := bits v 32 32
    let s1 := s.setCtx e.va ⟨e.line.startLoad d, e.book⟩
    if s1.arenaRefused (bits v 0 8) base count then .ok (s1.status e d 1)
    else .ok ((s1.setArena e.u (bits v 0 8) base count (bit v 8)).status e d 0)

/-- ARENA.SET (R385). -/
def execArenaSet (g : Guard) (d a b : Reg) (s : State) : Out :=
  .next (s.issueWith g true false [d, a, b] (arenaSetBody d a b))

end Sys2Proof.Machine
end

