-- ==== Sys2Proof/Machine/Tsu.lean ====
section
/-! DEFINITION. The translation service units: miss messages, walks and their replies; patrol reads; parity errors of a TLB
(R271, R275, R356-R359, R409, R415). -/

namespace Sys2Proof.Machine

/-! ## Miss messages (R357, R358) -/

/-- Whether a walk serves a miss: same tenant and same 64 KiB page (R358). -/
def Walk.joins (k : Walk) (rq : MissReq) : Bool :=
  k.reqs.any (fun r => r.tenant == rq.tenant && va56 r.va / 65536 == va56 rq.va / 65536)

/-- A miss joined to the walk that serves it, or a walk begun for it (R358). -/
def joinWalk (id : Nat) (rq : MissReq) : List Walk → List Walk
  | [] => [⟨id, [rq]⟩]
  | k :: m => if k.joins rq then { k with reqs := k.reqs ++ [rq] } :: m else k :: joinWalk id rq m

/-- TSU_MISS_MESSAGE (R358): joined, queued, or refused because 4,096 messages are queued. -/
def execTsuMissMessage (id : Nat) (s : State) : Out :=
  match s.msg? id with
  | some (.miss rq) =>
    let ws := (s.cluster rq.cluster).tsu
    if ws.any (fun k => k.joins rq) || decide (ws.length < 4096) then
      .next ((s.dropMsg id).modCluster rq.cluster (fun c => { c with tsu := joinWalk id rq c.tsu }))
    else .next ((s.dropMsg id).post (.missRefused rq ((s.unit rq.unit).cycle + 4096)))
  | _ => noOccasion "TSU_MISS_MESSAGE"

/-- MISS_RESEND (R358): 4,096 cycles after the refusal the message is sent again. -/
def execMissResend (id : Nat) (s : State) : Out :=
  match s.msg? id with
  | some (.missRefused rq due) =>
    if due ≤ (s.unit rq.unit).cycle then .next ((s.dropMsg id).post (.miss rq)) else noOccasion "MISS_RESEND"
  | _ => noOccasion "MISS_RESEND"

/-! ## Replies (R357, R359) -/

/-- The cluster and the walk of a number. -/
def State.walk? (s : State) (id : Nat) : Option (Nat × Walk) :=
  s.clusters.findSome? (fun c => (c.2.tsu.find? (fun k => k.id == id)).map (fun k => (c.1, k)))
/-- The state without a walk. -/
def State.endWalk (s : State) (cl id : Nat) : State :=
  s.modCluster cl (fun c => { c with tsu := c.tsu.filter (fun k => k.id != id) })

/-- The context of a miss, if it is still in the wait that the request tag names; any other reply is discarded (R357, R358). -/
def State.waitsFor (s : State) (va : Nat) (rq : MissReq) : Option Ctx :=
  match s.ctx? va with
  | none => none
  | some c => match c.line.wait with
    | .translation _ => if c.line.st = .waiting ∧ c.book.stamp = rq.tag then some c else none
    | _ => none

/-- The page a tile operation's next access meets, as the fault's VA (R181). -/
def State.closePage (s : State) (id : Nat) : Option (TileOp × Nat × Nat) :=
  match s.tileOp? id with
  | none => none
  | some op => match op.kind with
    | .attnClose g _ _ i => some (op, i, (s.at' g (2 * i + 1) 2 + s.at' g (2 * i + 1) 3 * 2 ^ 32) % 2 ^ 56)
    | _ => none

/-- Whether a wait is that of a PIN looking up a page of its window, and not one of its descriptor (R259, R270). -/
def pinLooks (c : Ctx) (page : Nat) : Bool :=
  match decode c.book.word with
  | some (.pin _ a _) => page != va56 (c.line.reg a) / 65536 && page != addVa (va56 (c.line.reg a)) 31 / 65536
  | _ => false

/-- A page that the TSU found for a PIN, kept for it until it issues (R236, R259). -/
def State.keepFound (s : State) (va : Nat) (c : Ctx) (rq : MissReq) : State :=
  if pinLooks c (va56 rq.va / 65536) then
    match (s.unit rq.unit).tlb.find? (fun t => t.covers rq.tenant (va56 rq.va)) with
    | some t => match s.pinPage t rq.tenant (va56 rq.va) with
      | .page p k => s.modBook va (fun b => { b with found := (va56 rq.va / 65536, p, k) :: b.found })
      | _ => s
    | none => s
  else s

/-- FILLED at one requester: a context repeats its checks, on whichever device its line is (R27), and a deque controller writes its fault record (R341); an engine or a tile
operation goes on by itself. -/
def State.missFilled (s : State) (rq : MissReq) : State :=
  match rq.who with
  | .ctx va => match s.waitsFor va rq with
    | some c => (s.keepFound va c rq).makeReady va
    | none => (s.forward va [14, w64 (va56 rq.va)]).getD s
  | .record va frame h cause => s.faultRecord rq.unit rq.tenant frame va h cause
  | .cmd _ | .tile _ => s

/-- Whether a wait is that of a PIN looking up a page of its window, and the reply one that leaves the page out (R259). -/
def pinSkips (c : Ctx) (page : Nat) (cause : Byte) : Bool := cause != 0x04 && pinLooks c page

/-- A reply that is a fault at the tile operation of a miss: an ATTN.CLOSE fails at its page (R181). -/
def State.tileFault (s : State) (id : Nat) (cause : Byte) : State :=
  match s.closePage id with
  | some (op, i, va) => s.closeFail op i va cause
  | none => s

/-- A reply that is a fault at one requester: ctxCause for a context, otherCause for an engine or a tile operation (R357).  A PIN skips
the page (R259); a fault record that has no page is reported (log 14). -/
def State.missFault (s : State) (rq : MissReq) (ctxCause otherCause : Byte) : State :=
  match rq.who with
  | .ctx va => match s.waitsFor va rq with
    | some c =>
      if pinSkips c (va56 rq.va / 65536) ctxCause then
        (s.modBook va (fun b => { b with absent := va56 rq.va / 65536 :: b.absent })).makeReady va
      else s.raise (.line (s.lineCluster c)) va ctxCause (w64 (va56 rq.va)) 0 c.book.word true
    | none => (s.forward va [15, w64 ctxCause.toNat, w64 (va56 rq.va)]).getD s
  | .cmd id => s.cmdFault id (va56 rq.va) otherCause
  | .tile id => s.tileFault id otherCause
  | .record va _ _ cause => s.notice 0x07 0 [w64 va, w64 cause.toNat]

/-- Whether the trap that a reply gives a requester must wait for its handler's room (R301, R308). -/
def State.missWaits (s : State) (rq : MissReq) (cause : Byte) : Bool :=
  match rq.who with
  | .ctx va => match s.waitsFor va rq with
    | some c => !(pinSkips c (va56 rq.va / 65536) cause) && !(s.handlerRoom (.line (s.lineCluster c)) va cause)
    | none => false
  | _ => false

/-- A reply to a walk: every requester receives it together (R358). -/
def State.reply (s : State) (name : String) (id : Nat) (f : State → MissReq → State) : Out :=
  match s.walk? id with
  | some (cl, k) => .next (k.reqs.foldl f (s.endWalk cl id))
  | none => noOccasion name

/-- A reply that is a fault: every requester receives it together, but for one whose handler finds no room, which receives it once there
is some (R301, R357, R358). -/
def State.replyFault (s : State) (name : String) (id : Nat) (ctxCause otherCause : Byte) : Out :=
  match s.walk? id with
  | none => noOccasion name
  | some (cl, k) =>
    let r := k.reqs.foldl (fun (r : State × List MissReq) rq =>
      if r.1.missWaits rq ctxCause then (r.1, r.2 ++ [rq]) else (r.1.missFault rq ctxCause otherCause, r.2)) (s.endWalk cl id, [])
    if r.2 = k.reqs then noOccasion name
    else match r.2 with
      | [] => .next r.1
      | l => .next (r.1.modCluster cl (fun c => { c with tsu := ⟨id, l⟩ :: c.tsu }))

/-- FILLED (R357-R359): the TSU's firmware has written an entry, whose image is given, or none where it found the entry there,
in the TLB of every unit that sent a miss; the waiters repeat their checks.  It has no occasion while a requester's unit holds
no entry for the page. -/
def execFilled (id : Nat) (image : List W64) (s : State) : Out :=
  match s.walk? id with
  | none => noOccasion "FILLED"
  | some (_, k) =>
    let w (i : Nat) : W64 := nth image i 0
    let us := (k.reqs.map (fun rq => rq.unit)).eraseDups
    if !image.isEmpty && !(s.imageFits (w 0) (w 1) (w 2) (w 3)) then noOccasion "FILLED"
    else
      let s1 := if image.isEmpty then s else s.installEntry (w 0) (w 1) (w 2) us
      if k.reqs.all (fun rq => (s1.unit rq.unit).tlb.any (fun t => t.covers rq.tenant (va56 rq.va))) then
        s1.reply "FILLED" id (fun s rq => s.missFilled rq)
      else noOccasion "FILLED"
/-- NOT_PRESENT (R357). -/
def execNotPresent (id : Nat) (s : State) : Out := s.replyFault "NOT_PRESENT" id 0x06 0x06
/-- PROTECTION (R357). -/
def execProtection (id : Nat) (s : State) : Out := s.replyFault "PROTECTION" id 0x05 0x05
/-- DEFER (R357): the system vector for a context; for an engine as NOT PRESENT. -/
def execDefer (id : Nat) (s : State) : Out := s.replyFault "DEFER" id 0x04 0x06

/-! ## Patrol and parity (R409, R415) -/

/-- The key slot under which a patrol read verifies a block: the one that it was written under, or for a block never written that of
its page's record (R393, R415; log 53). -/
def State.patrolSlot (s : State) (block : Nat) : Nat :=
  match Assoc.get s.blockTag block with | some t => t.1 | none => (s.pageRec (block / 1024)).kslot

/-- Whether a patrol read skips a block: already quarantined, or of an empty key slot (R415). -/
def State.patrolSkips (s : State) (block : Nat) : Bool :=
  (Assoc.get s.quarantine block).isSome || (Assoc.get s.keys (s.patrolSlot block)).isNone

/-- A stack's cycle count, that of its CIU 0. -/
def State.stackCycle (s : State) (k : Nat) : Nat := s.portCycle (.stack k)

/-- What has been altered in DRAM, with some more symbols of a stack's blocks altered. -/
def State.upset (s : State) (k : Nat) (xs : List (Nat × Nat × Byte)) : State :=
  { s with damage := xs.foldl (fun d x =>
      if stackOf (x.1 * 64) = k ∧ x.2.1 < 72 then Assoc.set d x.1 ((Assoc.get d x.1).getD [] ++ [(x.2.1, x.2.2)]) else d) s.damage }

/-- PATROL_READ (R415): every 1,024 cycles the stack's next block, read from DRAM below the caches and verified, corrected, or
quarantined and reported.  What was altered in DRAM before it comes with it (R365; log 80). -/
def execPatrolRead (read : Patrol) (s0 : State) : Out :=
  let k := read.stack
  let s := s0.upset k read.upsets
  if s.stackUp k = false ∨ s.faulted = true ∨ s.stackCycle k < (s.stack k).patrolAt then noOccasion "PATROL_READ"
  else
    let block := k * (stackBytes / 64) + (s.stack k).patrol
    let s1 := s.modStack k (fun x => { x with
      patrol := (x.patrol + 1) % (stackBytes / 64), patrolAt := x.patrolAt + 1024 })
    if s.patrolSkips block || s.hostBias (block * 64) then .next s1
    else
      match s1.verifyDram block (s.patrolSlot block) with
      | (s2, some _) => .next (s2.notice 0x04 0 [0, w64 (block * 64), 0])
      | (s2, none) => .next s2

/-- TLB_PARITY_ERROR (R409): the entry is removed, and the next access misses. -/
def execTlbParityError (u entry : Nat) (s : State) : Out :=
  if entry < (s.unit u).tlb.length ∧ s.unitUp u = true then
    .next (s.modUnit u (fun x => { x with tlb := removeAt x.tlb entry }))
  else noOccasion "TLB_PARITY_ERROR"

end Sys2Proof.Machine
end

