-- ==== Sys2Proof/Machine/HostLink.lean ====
section
/-! DEFINITION. Messages of the host, inbound accesses of the host and of peers, bias flips, page moves and management requests
(R291, R350, R370, R371, R389-R402). -/

namespace Sys2Proof.Machine

/-! ## The capability word (R14, R423) -/

/-- The capability word of a start (R423). -/
def StartInfo.capability (i : StartInfo) : W64 :=
  let degraded := i.hstacks != 0xFFF#12 || i.clusters != 0xFFFF#16 || i.slow != 0#12 || i.ports != 0x3FFFF#18 || i.orSlow ||
    i.lnkHalf || i.host8
  w64 (b2n degraded * 2 ^ 63 + b2n i.host8 * 2 ^ 62 + i.ports.toNat * 2 ^ 44 + i.slow.toNat * 2 ^ 32 + b2n i.orSlow * 2 ^ 31 +
    b2n i.lnkHalf * 2 ^ 30 + i.clusters.toNat * 2 ^ 12 + i.hstacks.toNat)

/-! ## Root spawns (R291, R391) -/

/-- The started cluster with the fewest READY lines, ties to the lowest number (R291). -/
def State.idleCluster (s : State) : Nat :=
  let load (c : Nat) : Nat := (s.lines.filter (fun e => e.2.line.st == .ready &&
    (match e.2.book.owner with | .l1 u => decide (u < 1536) && u / 96 == c | .l2 k => k == c | .hbm k => k == c))).length
  (((List.range 16).filter (fun c => s.clusterUp c)).foldl (fun (best : Option (Nat × Nat)) c =>
    match best with
    | none => some (c, load c)
    | some b => if load c < b.2 then some (c, load c) else best) none).elim 0 (fun b => b.1)

/-- The line that a root spawn writes (R18, R19, R21, R391). -/
def rootLine (tenant cl dev : Nat) (p : List W64) : Line where
  g := #v[nth p 2 0, nth p 3 0, nth p 4 0, nth p 5 0, nth p 6 0, nth p 7 0, nth p 8 0, nth p 9 0]
  pc := regVa (nth p 0 0)
  pred := 0x80000000
  pend := 0
  cause := 0
  stepOn := false
  openMsg := false
  flags := {}
  st := .ready
  priv := false
  round := Round.ofCode .rne (bits (nth p 1 0) 8 3)
  wait := .none
  frame := 0
  join := 0
  wlimit := BitVec.ofNat 16 (bits (nth p 1 0) 16 16)
  tiles := 0
  engs := 0
  stores := 0
  loads := 0
  hdev := dev
  hclu := cl
  queue := bits (nth p 1 0) 0 6
  tenant := tenant
  haltReq := false
  oseq := 0

/-- Whether a root spawn's payload is invalid: STATUS 3 (R391). -/
def rootInvalid (p : List W64) : Bool :=
  let w := nth p 1 0
  decide (6 ≤ bits w 8 3) || (decide (16 ≤ bits w 32 8) && decide (bits w 32 8 ≤ 254)) || bits (nth p 0 0) 0 2 != 0 ||
  bits w 6 2 != 0 || bits w 11 5 != 0 || bits w 40 24 != 0 || bits (nth p 0 0) 56 8 != 0

/-- A reply to a host message. -/
def State.answer (s : State) (kind tag tenant status : Nat) (ws : List W64) : State :=
  s.sendHost ⟨kind, tag, tenant, status, ws⟩

/-- Whether a host store accepted before a message is still held at a replay port (R220, R397). -/
def State.hostHeld (s : State) (id : Nat) : Bool :=
  s.wire.any (fun m => decide (m.1 < id) && (match m.2 with | .inbound (.hostStore _ _ _) => true | _ => false))

/-- ROOT_SPAWN (R291, R350, R391, R397); it waits where the cluster's context L2 has no room for the line (R304). -/
def execRootSpawn (tag tenant : Nat) (payload : List W64) (s : State) : Out :=
  if payload.length ≠ 10 ∨ 256 ≤ tenant ∨ s.linkUp = false ∨ s.faulted = true ∨ s.hostHeld s.nextId = true then
    noOccasion "ROOT_SPAWN"
  else
    let w := nth payload 1 0
    let fail (n : Nat) : Out := .next (s.answer 0x02 tag tenant n [0])
    if rootInvalid payload then fail 3
    else if !((s.tenant tenant).qset.getLsbD (bits w 0 6)) then fail 2
    else
      let cl := if bits w 32 8 < 16 ∧ s.clusterUp (bits w 32 8) then bits w 32 8 else s.idleCluster
      match s.allocFrom (cl * 96) cl tenant with
      | none => .next ((s.openArena (cl * 96) cl tenant).answer 0x02 tag tenant 1 [0])
      | some (va, s0) =>
        match s0.makeRoomL2 cl with
        | none => noOccasion "ROOT_SPAWN"
        | some s1 =>
          let s2 : State := { s1.setCtx va ⟨rootLine tenant cl s.device payload, Book.fresh (.l2 cl) s1.stamp none⟩ with
            stamp := s1.stamp + 1, records := Assoc.erase s1.records va }
          let a := s2.assignTo cl none
          .next ((s2.modBook va (fun b => { b with assigned := some a })).answer 0x02 tag tenant 0 [w64 va])

/-! ## Inbound accesses (R392, R394, R395) -/

/-- An inbound load of n bytes in one block: the data, or the cause that a peer's context would trap with. -/
def State.inboundLoad (s : State) (tenant pa n : Nat) : State × Except Byte (List Byte) :=
  match s.inbound tenant pa false with
  | some c => (s, .error c)
  | none =>
    let a := s.inboundAttr pa
    match s.verify pa a.kslot with
    | (s1, some c) => (s1, .error c)
    | (s1, none) => (s1.l2Access (s1.homeNow a pa) pa a.kslot a.tenant ⟨0, false⟩, .ok (Memory.readN s1.mem pa n))

/-- The number of a store that the host or a peer sends: that under which a replay port holds it, or a new one (R220). -/
def State.inboundId (s : State) (event : Instr) : Nat :=
  match s.wire.find? (fun m => m.2 == .inbound event) with
  | some m => m.1
  | none => s.nextId

/-- What an inbound store comes to: performed, with the cause of a failure, or held by a port in replay (R215, R220). -/
inductive Inbound where
  | done (s : State) (bad : Option Byte)
  | hold (s : State)

/-- An inbound store held: it stays under way, and its event takes place again. -/
def State.keepInbound (s : State) (event : Instr) (id : Nat) : State :=
  if id = s.nextId then s.post (.inbound event) else s.changeMsg id (.inbound event)

/-- An inbound store, arriving at its home from a device and a unit. -/
def State.inboundStore (s : State) (event : Instr) (tenant pa dev unit : Nat) (bs : List Byte) : Inbound :=
  let id := s.inboundId event
  let s0 := s.dropMsg id
  match s.inbound tenant pa true with
  | some c => .done s0 (some c)
  | none =>
    let a := s.inboundAttr pa
    match s0.arrive (.slice (s.homeNow a pa)) a.trace a.kslot ⟨6, dev, unit, a.tenant, pa, bs.length⟩ id with
    | .hold s1 => .hold (s1.keepInbound event id)
    | .perform s1 =>
      let r := s1.homeStore (s1.homeNow a pa) a ⟨0, false⟩ (cellsAt pa bs)
      .done r.1 r.2

/-- The STATUS of a host completion for a cause (R394). -/
def inboundStatus (c : Byte) : Nat :=
  match c.toNat with | 0x07 => 2 | 0x08 => 3 | 0x09 => 3 | 0x06 => 4 | _ => 1

/-- Bytes of a size code of a host access; none where it is not one (R390). -/
def hostSize (code : Nat) : Option Nat :=
  match code with | 0 => some 1 | 1 => some 2 | 2 => some 4 | 3 => some 8 | 6 => some 64 | _ => none

/-- The PA and the size that word 0 of a host access gives; none where R390 refuses it. -/
def hostTarget (w : W64) : Option (Nat × Nat) :=
  match hostSize (bits w 60 3) with
  | none => none
  | some n => if bits w 0 52 % n = 0 then some (bits w 0 52, n) else none

/-- The doublewords of bytes: eight to each, the last one filled with zeros. -/
def dwords (bs : List Byte) : List W64 := (chunks 8 bs.length bs).map (fun c => w64 (ofBytes c))

/-- HOST_LOAD (R390, R394, R397). -/
def execHostLoad (tag tenant : Nat) (payload : List W64) (s : State) : Out :=
  if payload.length ≠ 1 ∨ 256 ≤ tenant ∨ s.linkUp = false ∨ s.faulted = true ∨ s.hostHeld s.nextId = true then
    noOccasion "HOST_LOAD"
  else match hostTarget (nth payload 0 0) with
    | none => .next (s.answer 0x05 tag tenant 0xFF [])
    | some (pa, n) =>
      if !(s.inStack pa) then .next (s.answer 0x05 tag tenant 5 [])
      else if s.pagesHeld s.nextId (pa / 65536) 1 then noOccasion "HOST_LOAD"
      else match s.inboundLoad tenant pa n with
        | (s1, .ok bs) => .next (s1.answer 0x05 tag tenant 0 (dwords bs))
        | (s1, .error c) => .next (s1.answer 0x05 tag tenant (inboundStatus c) [])

/-- HOST_STORE (R390, R394, R397): host stores are performed in the order of their acceptance. -/
def execHostStore (tag tenant : Nat) (payload : List W64) (s : State) : Out :=
  if (payload.length ≠ 2 ∧ payload.length ≠ 9) ∨ 256 ≤ tenant ∨ s.linkUp = false ∨ s.faulted = true then
    noOccasion "HOST_STORE"
  else match hostTarget (nth payload 0 0) with
    | none => .next (s.answer 0x05 tag tenant 0xFF [])
    | some (pa, n) =>
      if payload.length ≠ (if n = 64 then 9 else 2) then .next (s.answer 0x05 tag tenant 0xFF [])
      else if !(s.inStack pa) then .next (s.answer 0x05 tag tenant 5 [])
      else if s.hostHeld (s.inboundId (.hostStore tag tenant payload)) ||
          s.pagesHeld (s.inboundId (.hostStore tag tenant payload)) (pa / 65536) 1 then
        (if s.inboundId (.hostStore tag tenant payload) = s.nextId then .next (s.post (.inbound (.hostStore tag tenant payload)))
         else noOccasion "HOST_STORE")
      else match s.inboundStore (.hostStore tag tenant payload) tenant pa s.device 2047
          ((wordsBytes (payload.drop 1)).take n) with
        | .hold s1 => if s1 = s then noOccasion "HOST_STORE" else .next s1
        | .done s1 none => .next (s1.answer 0x05 tag tenant 0 [])
        | .done s1 (some c) => .next (s1.answer 0x05 tag tenant (inboundStatus c) [])

/-- Whether a LEN is one that a kind of request allows (R390). -/
def lenOk (kind n : Nat) : Bool :=
  match kind with
  | 0x01 => n == 10
  | 0x03 => n == 1
  | 0x04 => n == 2 || n == 9
  | 0x06 => n == 2
  | 0x08 => decide (1 ≤ n) && decide (n ≤ 255)
  | _ => false

/-- The kind of the reply to a kind of request; that of no request is answered under its own kind (log 21). -/
def replyKind (kind : Nat) : Nat :=
  match kind with | 0x01 => 0x02 | 0x03 => 0x05 | 0x04 => 0x05 | 0x06 => 0x07 | 0x08 => 0x09 | k => k

/-- INVALID_MESSAGE (R390): any other kind, or a LEN that the kind does not allow; a spawn reply carries its word, 0. -/
def execInvalidMessage (header : W64) (payload : List W64) (s : State) : Out :=
  let kind := bits header 0 8
  if s.linkUp = false ∨ bits header 16 8 ≠ payload.length ∨ lenOk kind payload.length = true then
    noOccasion "INVALID_MESSAGE"
  else .next (s.answer (replyKind kind) (bits header 32 32) (bits header 24 8) 0xFF (if kind = 0x01 then [0] else []))

/-- The peer port by which a message to a number leaves (R402): that of the partner with the number, or the port that firmware's route
names, for which the model takes the lowest that is up (DESIGN CHOICE, log 89). -/
def StartInfo.route (i : StartInfo) (dest : Nat) : Option Nat :=
  match i.partners.find? (fun p => p.2 == dest && i.ports.getLsbD p.1) with
  | some p => some p.1
  | none => (List.range 18).find? (fun p => i.ports.getLsbD p)

/-- PEER_MESSAGE_FORWARD (R402): a message addressed to another number goes on towards it, where a port is up. -/
def execPeerMessageForward (dest : Nat) (words : List W64) (s : State) : Out :=
  if dest = s.device ∨ 64 ≤ dest ∨ (s.start.route dest).isNone = true then noOccasion "PEER_MESSAGE_FORWARD"
  else .next { s with peerOut := s.peerOut ++ [(dest, words)] }

/-! ## Changes of page ownership (R396, R399) -/

/-- Whether a change of n pages with a number must wait: a command pushed before it may still touch one of them, or an earlier change
of one of them is still to be performed (R396 steps 1 and 2; log 54). -/
def State.changeWaits (s : State) (id first n : Nat) : Bool :=
  s.cmds.any (fun c => decide (c.id < id) && s.cmdTouches c first n) || s.pagesHeld id first n

/-- A change of page ownership that must wait: it takes its place in the order, and its event takes place again (R396). -/
def State.placeChange (s : State) (name : String) (event : Instr) : Out :=
  if s.inboundId event = s.nextId then .next (s.post (.inbound event)) else noOccasion name

/-- A change of page ownership leaves the order once it is performed. -/
def State.endChange (s : State) (event : Instr) : State :=
  if s.inboundId event = s.nextId then s else s.dropMsg (s.inboundId event)

/-- The page's lines leave the L2 slices and the memory-side cache, their dirty bytes written back (R396 steps 4 and 5). -/
def State.flushPage (s : State) (page : Nat) : State :=
  (s.l2Flush (fun _ l => l.line / 1024 == page)).mscFlush (fun l => l.line / 1024 == page)

/-- The host's dirty bytes of a page, which the host adapter recalls and writes to it (R396 step 3): ws holds pairs, of a doubleword's
address with the mask of its bytes in [63:56], and of its value (log 54). -/
def State.recallHost (s : State) (page kslot : Nat) : List W64 → State
  | a :: v :: ws =>
    let pa := bits a 0 52 / 8 * 8
    let cs := (cellsAt pa (bytesOf v.toNat 8)).filter (fun c => bit a (56 + (c.1 - pa)))
    (if pa / 65536 = page then s.storeOwn kslot cs else s).recallHost page kslot ws
  | _ => s

/-- One page of a flip (R396): a page with VALID clear takes no part. -/
def State.flipPage (s : State) (page : Nat) (host : Bool) (dirty : List W64) : State :=
  let r := s.pageRec page
  if !r.valid then s
  else
    let s0 := if r.bias && !host then s.recallHost page r.kslot dirty else s
    let s1 := if r.bias = host then s0 else s0.flushPage page
    { s1 with
      pageRecs := Assoc.set s1.pageRecs page { r with bias := host }
      units := s1.units.map (fun u => (u.1, { u.2 with tlb := u.2.tlb.map (fun t =>
        if t.pa ≤ page * 65536 ∧ page * 65536 < t.pa + t.size then { t with bias := host } else t) })) }

/-- BIAS_FLIP (R396): from its place in the order later commands and accesses to its pages are held, and it is performed once no earlier
command that may touch one of them is outstanding.  After the two words of the message payload holds what the host adapter recalls
from the host's caches (step 3; log 54). -/
def execBiasFlip (tag tenant : Nat) (payload : List W64) (s : State) : Out :=
  if payload.length < 2 ∨ payload.length % 2 ≠ 0 ∨ 256 ≤ tenant ∨ s.linkUp = false ∨ s.faulted = true then noOccasion "BIAS_FLIP"
  else
    let first := bits (nth payload 0 0) 16 36
    let n := (nth payload 1 0).toNat
    if n = 0 ∨ 65536 < n then .next (s.answer 0x07 tag tenant 0xFF [])
    else
      let pages := (s.pageRecs.filter (fun e => decide (first ≤ e.1) && decide (e.1 < first + n) && e.2.valid)).map (fun e => e.1)
      let event : Instr := .biasFlip tag tenant (payload.take 2)
      let id := s.inboundId event
      if s.pagesHeld id first n || pages.any (fun p => s.changeWaits id p 1) then s.placeChange "BIAS_FLIP" event
      else .next ((pages.foldl (fun s p => s.flipPage p (bit (nth payload 0 0) 63) (payload.drop 2)) (s.endChange event)).answer 0x07 tag tenant 0 [])

/-- PAGE_MOVE (R399): the tracker sets MOVED, or skips a PEERPIN page and counts it; it is placed and waits as a flip does. -/
def execPageMove (pa dest dclu : Nat) (s : State) : Out :=
  let event : Instr := .pageMove pa dest dclu
  let page := pa / 65536
  let r := s.pageRec page
  if !(isStack pa) || decide (64 ≤ dest) || dest == s.device || decide (16 ≤ dclu) || r.moved || s.faulted then
    noOccasion "PAGE_MOVE"
  else if r.peerpin then .next { s.endChange event with skipped := s.skipped + 1 }
  else if s.changeWaits (s.inboundId event) page 1 then s.placeChange "PAGE_MOVE" event
  else
    let s1 := (s.endChange event).flushPage page
    .next { s1 with
      pageRecs := Assoc.set s1.pageRecs page { r with moved := true, dest := dest, dclu := dclu }
      moved := s1.moved + 1 }

/-! ## Management requests (R370, R371, R400-R402) -/

/-- Whether a management request of a subkind can be taken. -/
def State.manages (s : State) (payload : List W64) (sub : Nat) : Bool :=
  s.linkUp && decide (1 ≤ payload.length) && decide (payload.length ≤ 255) && bits (nth payload 0 0) 0 8 == sub

/-- A management reply. -/
def State.manage (s : State) (tag status : Nat) (ws : List W64) : Out := .next (s.answer 0x09 tag 0 status ws)

/-- The report of R371, 352 bytes, its signature last: over the SHA-384 of the bytes before it. -/
def State.report (s : State) (nonce : List W64) : List W64 :=
  let body := [1, Config.serial] ++ fixed 6 s.fwDigest ++ dwords (sha384 (wordsBytes s.start.log)) ++
    [s.start.capability, w64 s.minVersion] ++ fixed 4 nonce ++ fixed 12 (Config.identityKey s.start.number)
  body ++ fixed 12 (Config.attestSignature s.start.number (dwords (sha384 (wordsBytes body))))

/-- ATTESTATION (R371, R400). -/
def execAttestation (tag : Nat) (payload : List W64) (s : State) : Out :=
  if !(s.manages payload 0x02) then noOccasion "ATTESTATION"
  else s.manage tag 0 (s.report ((List.range 4).map (fun i => nth payload (i + 1) 0)))

/-- KEY_STORE (R400): word 1 holds the identifier, the rest the wrapped material. -/
def execKeyStore (tag : Nat) (payload : List W64) (s : State) : Out :=
  if !(s.manages payload 0x03) then noOccasion "KEY_STORE"
  else match Config.unwrapKey (payload.drop 2) with
    | none => s.manage tag 1 []
    | some m => { s with keyStore := Assoc.set s.keyStore (bits (nth payload 1 0) 0 32) m }.manage tag 0 []

/-- TRACKER_REPORT (R399, R400): the two counts since the last report. -/
def execTrackerReport (tag : Nat) (payload : List W64) (s : State) : Out :=
  if !(s.manages payload 0x04) then noOccasion "TRACKER_REPORT"
  else { s with moved := 0, skipped := 0 }.manage tag 0 [w64 s.moved, w64 s.skipped]

/-- RAISE_MINIMUM_VERSION (R370, R400): the minimum becomes the version of the images that run, where that is above it. -/
def execRaiseMinimumVersion (tag : Nat) (payload : List W64) (s : State) : Out :=
  if !(s.manages payload 0x05) then noOccasion "RAISE_MINIMUM_VERSION"
  else
    let m := max s.minVersion s.fwVersion
    { s with minVersion := m }.manage tag 0 [w64 m]

/-- UNKNOWN_SUBKIND (R400). -/
def execUnknownSubkind (tag : Nat) (payload : List W64) (s : State) : Out :=
  let k := bits (nth payload 0 0) 0 8
  if !(s.manages payload k) || (decide (1 ≤ k) && decide (k ≤ 5)) then noOccasion "UNKNOWN_SUBKIND"
  else s.manage tag 0xFE []

end Sys2Proof.Machine
end

