-- ==== Sys2Proof/Machine/Peers.lean ====
section
/-! DEFINITION. The messages of peer devices: their accesses to this device's memory, synchronising words, frames and deques, the lines
and deliveries they send, and the commands with which they join a collective (R27, R285, R310, R316, R335, R392, R394, R402;
log 28). -/

namespace Sys2Proof.Machine

/-- The number by which this device knows the context of a peer (log 28). -/
def foreignCtx (peer ctx : Nat) : Nat := 2 ^ 56 * (peer + 1) + ctx % 2 ^ 56
/-- The number by which this device knows the unit of a peer (log 28). -/
def foreignUnit (peer unit : Nat) : Nat := 4096 + 2048 * peer + unit % 2048

/-- An answer to a peer's message, under the number that it gave (log 28). -/
def State.answerPeer (s : State) (peer ctx : Nat) (ws : List W64) : State := s.tell peer ([8, w64 ctx] ++ ws)

/-- The answer to a peer's message that failed with a cause: an error delivery, or a trap and an acknowledgment (R253, R394, R405). -/
def State.failPeer (s : State) (peer ctx : Nat) (load : Bool) (c : Byte) (pa : Nat) : State :=
  if load then s.answerPeer peer ctx [1, 8, w64 c.toNat, w64 pa]
  else (s.answerPeer peer ctx [4, w64 c.toNat, w64 pa, 0]).answerPeer peer ctx [2]

/-- Bytes that a load or store of a peer may have (R392). -/
def peerSize (n : Nat) : Bool := [1, 2, 4, 8, 64].contains n

/-- A load of a peer (R392, R394): its answer is the data, or an error delivery. -/
def State.peerLoad (s : State) (rq : PeerRequest) (pa n ctx : Nat) : Out :=
  if peerSize n = false ∨ pa % n ≠ 0 then noOccasion "PEER_ACCESS"
  else if !(s.inStack pa) then .next (s.failPeer rq.peer ctx true 0x05 pa)
  else if s.pagesHeld s.nextId (pa / 65536) 1 then noOccasion "PEER_ACCESS"
  else match s.inboundLoad rq.tenant pa n with
    | (s1, .ok bs) => .next (s1.answerPeer rq.peer ctx (10 :: dwords bs))
    | (s1, .error c) => .next (s1.failPeer rq.peer ctx true c pa)

/-- A store of a peer (R392, R394): its answer is an acknowledgment, after the trap where it failed. -/
def State.peerStore (s : State) (rq : PeerRequest) (pa n : Nat) (ws : List W64) (ctx : Nat) : Out :=
  if peerSize n = false ∨ pa % n ≠ 0 then noOccasion "PEER_ACCESS"
  else if !(s.inStack pa) then .next (s.failPeer rq.peer ctx false 0x05 pa)
  else if s.pagesHeld (s.inboundId (.peerAccess rq)) (pa / 65536) 1 then s.placeChange "PEER_ACCESS" (.peerAccess rq)
  else match s.inboundStore (.peerAccess rq) rq.tenant pa rq.peer rq.unit ((wordsBytes ws).take n) with
    | .hold s1 => if s1 = s then noOccasion "PEER_ACCESS" else .next s1
    | .done s1 none => .next (s1.answerPeer rq.peer ctx [2])
    | .done s1 (some c) => .next (s1.failPeer rq.peer ctx false c pa)

/-- The cause with which an operation of a peer on a word of this device's memory fails before its home is asked (R260, R394): a word of a
host-bias page is the host's (R395). -/
def State.peerWord (s : State) (rq : PeerRequest) (pa : Nat) : Option Byte :=
  if !(s.inStack pa) || s.hostBias pa then some 0x05
  else match s.inbound rq.tenant pa false with
    | some c => some c
    | none => s.inbound rq.tenant pa true

/-- The full/empty operation of a code (R260). -/
def SyncOp.ofCode : Nat → Option SyncOp
  | 0 => some .take
  | 1 => some .put
  | 2 => some .peek
  | 3 => some .fill
  | 4 => some .empty
  | 5 => some .festat
  | _ => none

/-- The moonlet operation of a code (R269). -/
def MoonOp.ofCode : Nat → Option MoonOp
  | 0 => some .add
  | 1 => some .min
  | 2 => some .max
  | 3 => some .or
  | 4 => some .fadd
  | _ => none

/-- A full/empty access of a peer's context (R262): on its way to its home, or refused as R394 says. -/
def State.peerSync (s : State) (rq : PeerRequest) (code pa : Nat) (v : W64) (ctx : Nat) : Out :=
  match SyncOp.ofCode code with
  | none => noOccasion "PEER_ACCESS"
  | some op =>
    let m : SyncReq := ⟨foreignCtx rq.peer ctx, foreignUnit rq.peer rq.unit, s.inboundAttr pa, op, w64 pa, pa, 0, v, .self, s.nextId⟩
    if pa % 8 ≠ 0 then noOccasion "PEER_ACCESS"
    else match s.peerWord rq pa with
      | some c => .next (s.refuseSync m c)
      | none => .next (s.post (.sync m))

/-- A moonlet of a peer's context (R208). -/
def State.peerMoonlet (s : State) (rq : PeerRequest) (code pa : Nat) (v : W64) (ctx : Nat) : Out :=
  match MoonOp.ofCode code with
  | none => noOccasion "PEER_ACCESS"
  | some op =>
    if pa % 8 ≠ 0 then noOccasion "PEER_ACCESS"
    else match s.peerWord rq pa with
      | some c => .next ((s.deliverTrap (foreignCtx rq.peer ctx) ⟨c, w64 pa, 0, 0⟩).ackStore (foreignCtx rq.peer ctx))
      | none => .next (s.post (.moonlet (foreignCtx rq.peer ctx) (foreignUnit rq.peer rq.unit) (s.inboundAttr pa) op (w64 pa) pa v))

/-- An update of a frame by a peer's context (R316, R317, R322, R324): an increment, a decrement, an AWAIT or an initialisation. -/
def State.peerFrame (s : State) (rq : PeerRequest) (code pa : Nat) (v : W64) (ctx : Nat) : Out :=
  let va := foreignCtx rq.peer ctx
  let u := foreignUnit rq.peer rq.unit
  let a := s.inboundAttr pa
  let bad := s.peerWord rq pa
  let trap (c : Byte) : DTrap := ⟨c, w64 pa, 0, 0⟩
  if pa % 32 ≠ 0 then noOccasion "PEER_ACCESS"
  else match code, bad with
    | 0, none => .next (s.post (.frameInc va u a (w64 pa) pa))
    | 1, none => .next (s.post (.frameDec va u a (w64 pa) pa (v != 0)))
    | 2, none => .next (s.post (.await va u a (w64 pa) pa 0))
    | 3, none => .next (s.post (.frameInit va u a (w64 pa) pa v))
    | 0, some c | 3, some c => .next ((s.deliverTrap va (trap c)).ackStore va)
    | 1, some c => .next (s.deliverTrap va (trap c))
    | 2, some c => .next (s.post (.dropped va (trap c)))
    | _, _ => noOccasion "PEER_ACCESS"

/-- The cancel of a peer's access that waits here (R264): its entry leaves, and the peer is told; one that was served before stands. -/
def State.peerCancel (s : State) (rq : PeerRequest) (ctx : Nat) : Out :=
  let va := foreignCtx rq.peer ctx
  if s.accessUnderWay va then noOccasion "PEER_ACCESS"
  else if s.disarm va = s then .next s
  else .next ((s.disarm va).answerPeer rq.peer ctx [11])

/-- A load of a context line by a peer (R31): at the line's owner, to which one that has gone on is forwarded (R27). -/
def State.peerLineLoad (s : State) (rq : PeerRequest) (va n ctx : Nat) : Out :=
  let base := va / 128 * 128
  let ws := match s.ctx? base with
    | some c => some c.line.words
    | none => Assoc.get s.records base
  if !([1, 2, 4, 8].contains n) || va % n != 0 then noOccasion "PEER_ACCESS"
  else match ws, s.away base with
    | some ws, _ => .next (s.answerPeer rq.peer ctx (10 :: dwords (((wordsBytes ws).drop (va - base)).take n)))
    | none, some d => .next (s.tell d [13, w64 va, w64 n, w64 ctx, w64 rq.peer])
    | none, none => .next (s.failPeer rq.peer ctx true 0x05 va)

/-- A store of a peer to a context line (R31, R32). -/
def State.peerLineStore (s : State) (rq : PeerRequest) (va n : Nat) (v : W64) (priv : Bool) (ctx : Nat) : Out :=
  if !([1, 2, 4, 8].contains n) || va % n != 0 then noOccasion "PEER_ACCESS"
  else match s.away (va / 128 * 128) with
    | some d => .next (s.tell d [16, w64 va, w64 n, v, w64 (b2n priv), w64 ctx, w64 rq.peer])
    | none => match s.storeLine va (bytesOf v.toNat n) priv with
      | some s1 => .next ((s1.respill (va / 128 * 128)).answerPeer rq.peer ctx [2])
      | none => .next (s.failPeer rq.peer ctx false 0x05 va)

/-- The debug instruction of a code (log 28). -/
def DebugOp.ofCode : Nat → Option DebugOp
  | 0 => some .halt
  | 1 => some .haltQ
  | 2 => some .resume
  | 3 => some .step
  | _ => none

/-- A debug instruction of a peer at a line here, or on its way to where the line has gone (R27, R386, R387). -/
def State.peerDebug (s : State) (rq : PeerRequest) (code va ctx : Nat) : Out :=
  match DebugOp.ofCode code, s.away va with
  | none, _ => noOccasion "PEER_ACCESS"
  | some _, some d => .next (s.tell d [14, w64 code, w64 va, w64 ctx, w64 rq.peer])
  | some op, none => .next (s.debugAt op va (foreignCtx rq.peer ctx) 0)

/-- The RTE of a peer's handler at its target, which is TRAPPED here (R374); one that is not is left (DESIGN CHOICE, log 88). -/
def State.peerReturn (s : State) (rq : PeerRequest) (va : Nat) (pc : Option W64) : Out :=
  match s.away va, s.ctx? va with
  | some d, _ => .next (s.tell d [18, w64 va, (if pc.isSome then 1 else 0), pc.getD 0])
  | none, some c => .next (if c.line.st = .trapped then s.returnTo (foreignUnit rq.peer rq.unit) va pc else s)
  | none, none => .next s

/-- A steal by a peer's context at a deque of this device (R335): the answer names the request, with the two words of the result. -/
def State.peerSteal (s : State) (rq : PeerRequest) (victim tag : Nat) : Out :=
  let answer (s : State) (w0 w1 : W64) : Out := .next (s.tell rq.peer [7, w64 tag, w0, w1])
  if (s.unit victim).boundaryDone then noOccasion "PEER_ACCESS"
  else if 1536 ≤ victim ∨ s.unitUp victim = false then answer s DqStatus.refused.word 0
  else if ((s.unit victim).dqRow rq.tenant).frozen then answer s DqStatus.frozen.word 0
  else match s.stealTop victim (foreignUnit rq.peer rq.unit) rq.tenant with
    | none => answer s DqStatus.empty.word 0
    | some (s1, w0, w1, _) => answer s1 w0 w1

/-- The place that the code of a line's message names. -/
def lineDest (dest : Nat) : Owner := if dest < 4096 then .l1 dest else .l2 (dest - 4096)

/-- Whether a line can come to a place: its unit or cluster is up. -/
def State.lineUp (s : State) : Owner → Bool
  | .l1 u => s.unitUp u
  | .l2 cl | .hbm cl => s.clusterUp cl

/-- The fences that came with a line, a command of this device under its own number (R212; log 28). -/
def State.fencesOf (s : State) : Nat → List W64 → List (BitVec 7 × List Nat)
  | n + 1, h :: ws =>
    let k := h.toNat / 256
    (h.setWidth 7, (ws.take k).map (fun w =>
      if w.toNat / 2 ^ 48 = s.device + 1 then w.toNat % 2 ^ 48 else w.toNat)) :: s.fencesOf n (ws.drop k)
  | _, _ => []

/-- A line that a peer sends, a comet, a stolen continuation or one that a CIU there evicted (R27, R29, R310, R335), with the instruction
word that it parked at and its fences (R212): it is installed where room can be made.  One in TRANSIT is READY; one in any other
state keeps it. -/
def State.peerLine (s : State) (va dest : Nat) (words : List W64) : Out :=
  let at' := lineDest dest
  if words.length < 17 ∨ va % 128 ≠ 0 ∨ 2 ^ 56 ≤ va ∨ (s.ctx? va).isSome = true ∨ s.lineUp at' = false then noOccasion "PEER_ACCESS"
  else match s.roomAt at' with
    | none => noOccasion "PEER_ACCESS"
    | some s1 =>
      let l := Sys2Proof.Machine.lineOf words
      let b : Book := { Book.fresh at' s1.stamp none with
        word := (nth words 16 0).setWidth 32, fences := s1.fencesOf words.length (words.drop 17) }
      let s2 : State := { s1.setCtx va ⟨l, b⟩ with
        stamp := s1.stamp + 1, abroad := Assoc.erase s1.abroad va, records := Assoc.erase s1.records va }
      .next (if l.st = .transit ∨ l.st = .ready ∨ l.st = .issuing then s2.makeReady va else s2)

/-- What the answer to a message needs to know of it: the context, the register, whether the delivery invalidates, and the VA (R27). -/
def Msg.asker : Msg → Option (Nat × Option Reg × Bool × W64)
  | .loadReq c _ r _ _ _ va _ _ _ => some (c, some r, false, va)
  | .statusReq c r => some (c, some r, false, 0)
  | .lineStore c va => some (c, none, false, va)
  | .ustore c _ _ _ va _ _ => some (c, none, false, va)
  | .frameInit c _ _ va _ _ => some (c, none, true, va)
  | .sync rq => some (rq.ctx, if rq.op = .put ∨ rq.op = .fill then none else some rq.reg, wideReach rq.reach, rq.va)
  | .moonlet c _ _ _ va _ _ => some (c, none, false, va)
  | .frameInc c _ _ va _ => some (c, none, false, va)
  | .frameDec c _ _ va _ _ => some (c, none, false, va)
  | .await c _ _ va _ r => some (c, some r, false, va)
  | _ => none

/-- What a load that another device answers delivers (R193, R250). -/
def Msg.loaded (v : W64) : Msg → W64
  | .loadReq _ _ _ z _ _ _ pa _ own => z.extend (ofBytes (overlay own pa (bytesOf v.toNat z.bytes)))
  | _ => v

/-- The bytes of a store that another device performed, as its aperture shows them here from then on (log 28). -/
def Msg.stored : Msg → List Host.Cell
  | .ustore _ _ _ _ _ pa bs => cellsAt pa bs
  | _ => []

/-- A message that another device refused and has still to acknowledge: it stores nothing. -/
def Msg.refused : Msg → Msg
  | .ustore c u a h va pa _ => .ustore c u a h va pa []
  | m => m

/-- The answer of another device to a message that it was asked for, by the code of the delivery (R27, R264, R392, R394; log 28): a trap
that comes before an acknowledgment leaves the message under way. -/
def State.peerAnswer (s : State) (id code reg : Nat) (v : W64) : Out :=
  match s.msg? id with
  | none => noOccasion "PEER_ACCESS"
  | some m => match m.asker with
    | none => noOccasion "PEER_ACCESS"
    | some (va, r, inval, fva) =>
      let s1 := { s.dropMsg id with asked := s.asked.erase id }
      let d := r.getD 0
      if !(s.asked.contains id) || !(s.deliverable va) then noOccasion "PEER_ACCESS"
      else match code with
        | 0 => .next (s1.loadDone va d v inval)
        | 1 => .next (s1.errorDone va d (v.setWidth 8) (w64 (va56 fva)) inval)
        | 2 => .next ((if inval then s1.acquireFor va else { s1 with mem := Memory.writeCells s1.mem m.stored }).ackStore va)
        | 3 => .next (s1.serve va r v (inval || decide (16 ≤ reg)))
        | 4 => .next ((s.changeMsg id m.refused).deliverTrap va ⟨v.setWidth 8, w64 (va56 fva), 0, 0⟩)
        | 9 => .next (s1.dropWait va ⟨v.setWidth 8, w64 (va56 fva), 0, (match s.ctx? va with | some c => c.book.word | none => 0)⟩)
        | 10 => .next (s1.loadDone va d (m.loaded v) inval)
        | 11 => if s1.expireRoom va then .next (s1.expire va) else noOccasion "PEER_ACCESS"
        | 12 => .next (s1.retire va)
        | 13 => .next (((s1.modLine va (fun l => { l with frame := fva })).acquireFor va).ackStore va)
        | _ => noOccasion "PEER_ACCESS"

/-- The reply of a TSU on another device to a context that came here while it waited (R27, R357, R359): it repeats its checks, or takes the
trap once its handler has room. -/
def State.peerReply (s : State) (va : Nat) (cause : Option Byte) (fva : W64) : Out :=
  match s.ctx? va with
  | none => noOccasion "PEER_ACCESS"
  | some c =>
    let mine : Bool := match c.line.wait with | .translation x => c.line.st == .waiting && va56 x == va56 fva | _ => false
    match mine, cause with
    | false, _ => .next s
    | true, none => .next (s.makeReady va)
    | true, some x =>
      if s.handlerRoom (.line (s.lineCluster c)) va x then .next (s.raise (.line (s.lineCluster c)) va x fva 0 c.book.word true)
      else noOccasion "PEER_ACCESS"

/-- A delivery that a peer forwards to a context that is here now (R27); one for a context that has gone on is forwarded again. -/
def State.peerDelivery (s : State) (va code reg : Nat) (v w x : W64) : Out :=
  let r : Option Reg := if reg % 16 < 8 then some (BitVec.ofNat 3 (reg % 16)) else none
  let d : Reg := BitVec.ofNat 3 (reg % 8)
  let inval := decide (16 ≤ reg)
  if va % 2 = 1 then s.peerAnswer (va / 2) code reg v
  else if ((s.ctx? va).isNone && (s.away va).isNone) || !(s.deliverable va) then noOccasion "PEER_ACCESS"
  else match code with
    | 0 => .next (s.loadDone va d v inval)
    | 1 => .next (s.errorDone va d (v.setWidth 8) w inval)
    | 2 => .next (s.ackStore va)
    | 3 => .next (s.serve va r v inval)
    | 4 => .next (s.deliverTrap va ⟨v.setWidth 8, w, x, v.extractLsb' 32 32⟩)
    | 5 => .next ((s.tileReply va (r.map (fun d => (d, some v)))).wake va)
    | 6 => .next ((s.cmdReply va v.toNat).wake va)
    | 7 => .next (s.stealDone va 0 d (BitVec.ofNat 3 (reg / 8)) v w none)
    | 9 => .next (s.dropWait va ⟨v.setWidth 8, w, 0, (match s.ctx? va with | some c => c.book.word | none => 0)⟩)
    | 14 => s.peerReply va none v
    | 15 => s.peerReply va (some (v.setWidth 8)) w
    | _ => noOccasion "PEER_ACCESS"

/-- A peer's command joins a collective that this device gathers (R285): words are its four operands and its descriptor, buffer the words
of its buffer.  One that the group refuses is answered with its status. -/
def State.peerJoin (s : State) (rq : PeerRequest) (cmd : Nat) (bc : Bool) (words buffer : List W64) : Out :=
  let c : Cmd := ⟨cmd, if bc then .collBc else .collAr, 0, 0, 0, rq.tenant, nth words 0 0, nth words 1 0, nth words 2 0,
    nth words 3 0, words.drop 4, [], .queued, 0, false, none, [], 0, false⟩
  let status (n : Nat) : Out := .next (s.tell rq.peer [10, w64 cmd, w64 n])
  let guest := (c.rank, (rq.peer, cmd), buffer)
  if !c.collOk then status 3
  else match s.groups.find? (fun g => g.tenant == c.tenant && g.key == nth c.desc 0 0 && g.epoch == nth c.desc 2 0) with
    | some g =>
      if g.fits c then
        .next { s with groups := s.groups.map (fun x => if x.id = g.id then { x with guests := x.guests ++ [guest] } else x) }
      else status 0x0B
    | none =>
      if 4096 ≤ s.groups.length then status 5
      else .next { s with
        groups := s.groups ++ [⟨s.nextId, c.tenant, nth c.desc 0 0, nth c.desc 2 0, c.ranks, c.count, bits c.c 32 4, bits c.c 36 4,
          c.root, bc, [], [guest]⟩]
        nextId := s.nextId + 1 }

/-- The result of a collective that a peer gathered, for a command of this device that waits in its group (R285). -/
def State.peerResult (s : State) (cmd : Nat) (words : List W64) : Out :=
  match s.cmd? cmd with
  | none => noOccasion "PEER_ACCESS"
  | some c =>
    if c.phase ≠ .grouped then noOccasion "PEER_ACCESS"
    else
      let gs := s.groups.map (fun g => { g with members := g.members.filter (fun m => m.2 != cmd) })
      let s1 := { s with groups := gs.filter (fun g => !(g.members.isEmpty && g.guests.isEmpty)) }
      .next (if c.op == .collBc && c.rank == c.root then s1.modCmd cmd (fun c => { c with phase := .ended 0 })
        else s1.collWrite c ((wordsBytes words).take (4 * c.count)))

/-- PEER_ACCESS (R392, R394, R402): a message of a peer that is addressed to this device, performed. -/
def execPeerAccess (rq : PeerRequest) (s : State) : Out :=
  if rq.dest ≠ s.device ∨ s.faulted = true ∨ 64 ≤ rq.peer ∨ rq.peer = s.device ∨ 256 ≤ rq.tenant then noOccasion "PEER_ACCESS"
  else match rq.op with
    | .load pa n ctx => s.peerLoad rq pa n ctx
    | .store pa n ws ctx => s.peerStore rq pa n ws ctx
    | .own pa n ws =>
      if (peerOf pa).map (fun d => d.1) = some rq.peer then
        .next { s with mem := Memory.writeCells s.mem (cellsAt pa ((wordsBytes ws).take n)) }
      else noOccasion "PEER_ACCESS"
    | .sync code pa v ctx => s.peerSync rq code pa v ctx
    | .moonlet code pa v ctx => s.peerMoonlet rq code pa v ctx
    | .frame code pa v ctx => s.peerFrame rq code pa v ctx
    | .cancel ctx => s.peerCancel rq ctx
    | .steal victim tag => s.peerSteal rq victim tag
    | .line va dest words => s.peerLine va dest words
    | .lineLoad va n ctx => s.peerLineLoad rq va n ctx
    | .lineStore va n v priv ctx => s.peerLineStore rq va n v priv ctx
    | .debug code va ctx => s.peerDebug rq code va ctx
    | .rte va pc => s.peerReturn rq va pc
    | .deliver va code reg v w x => s.peerDelivery va code reg v w x
    | .join cmd bc words buffer => s.peerJoin rq cmd bc words buffer
    | .result cmd words => s.peerResult cmd words

end Sys2Proof.Machine
end

