-- ==== Sys2Proof/Machine/Recovery.lean ====
section
/-! DEFINITION. Soft errors, device faults and the start of the device (R14, R401, R402, R406-R424). -/

namespace Sys2Proof.Machine

/-! ## Soft errors (R408, R409, R411, R412, R414) -/

/-- CORRECTED_SOFT_ERROR (R406, R408): counted for its array kind and die; each multiple of 65,536 is reported.  With code 5 it is also the
error in free scratchpad space, which is scrubbed and counted (R409): nothing reads that space before HND.NEW writes it. -/
def execCorrectedSoftError (code die : Nat) (s : State) : Out :=
  if code < 1 ∨ 9 < code ∨ 6 ≤ die then noOccasion "CORRECTED_SOFT_ERROR"
  else .next (s.countCorrected code die)

/-- A line out of an array in which an uncorrectable error lay: its dirty bytes are lost and the block poisoned (R411); a line without
any is fetched again when it is used, and the event counts as corrected (R409). -/
def State.loseLine (s : State) (line kslot code die : Nat) (dirty : Bool) : State :=
  if dirty then (if !(isStack (line * 64)) || s.hostBias (line * 64) then s else s.poisonBlock line kslot)
  else s.countCorrected code die

/-- POISON_WRITE_BACK (R409, R411): an uncorrectable error in a line of a data L1, an L2 slice or a memory-side cache. -/
def execPoisonWriteBack (array : CacheArray) (line : Nat) (s : State) : Out :=
  match array with
  | .dataL1 u =>
    let mine := (s.unit u).dl1.filter (fun b => b.1 / 64 == line)
    let s1 := s.modUnit u (fun x => { x with dl1 := x.dl1.filter (fun b => b.1 / 64 != line) })
    match mine.find? (fun b => b.2.dirty), mine with
    | some b, _ => .next (s1.loseLine line b.2.attr.kslot 3 (dieOfUnit u) true)
    | none, b :: _ => .next (s1.loseLine line b.2.attr.kslot 3 (dieOfUnit u) false)
    | none, [] => noOccasion "POISON_WRITE_BACK"
  | .slice u =>
    match (s.unit u).l2.find? (fun l => l.line == line) with
    | some l =>
      .next ((s.modUnit u (fun x => { x with l2 := x.l2.filter (fun m => !(m.line == line && m.kslot == l.kslot)) })).loseLine line
        l.kslot 4 (dieOfUnit u) (!l.dirty.isEmpty))
    | none => noOccasion "POISON_WRITE_BACK"
  | .stackCache =>
    match (s.mscSet line).find? (fun l => l.line == line) with
    | some l =>
      .next ((s.dropMsc (fun m => m.line == line && m.kslot == l.kslot)).loseLine line l.kslot 8 (4 + dieOfStack (stackOf (line * 64)))
        (!l.dirty.isEmpty))
    | none => noOccasion "POISON_WRITE_BACK"

/-- A line with its lost doublewords repaired (R412): bit n of the mask stands for the doubleword at offset 8n. -/
def Line.repair (l : Line) (lost : BitVec 16) : Line :=
  let r (i : Reg) : W64 := if lost.getLsbD i.toNat then 0 else l.reg i
  let stat := lost.getLsbD 9
  { l with
    g := #v[r 0, r 1, r 2, r 3, r 4, r 5, r 6, r 7]
    pc := if lost.getLsbD 8 then 0 else l.pc
    pred := if stat then 0x80000000 else l.pred
    pend := if stat then 0 else l.pend
    stepOn := !stat && l.stepOn
    openMsg := false
    flags := if stat then {} else l.flags
    priv := !stat && l.priv
    round := if stat then .rne else l.round
    frame := if lost.getLsbD 11 then 0 else l.frame
    wlimit := if lost.getLsbD 12 then 0 else l.wlimit
    queue := if lost.getLsbD 13 then 0 else l.queue
    join := if lost.getLsbD 14 then 0 else l.join
    haltReq := !lost.getLsbD 15 && l.haltReq
    oseq := if lost.getLsbD 15 then 0 else l.oseq }

/-- Whether a wait at a home can be disarmed now: its access is neither on its way nor performed (R264). -/
def State.disarmable (s : State) (va : Nat) (c : Ctx) : Bool :=
  !(c.line.st == .waiting && c.line.wait.atHome) || !(s.accessUnderWay va || s.accessServed va c.line.wait c.book.stamp)

/-- The trap of an error in a line that cannot take it at once: it stays with the line, and a wait is cancelled at its home for it (R264,
R301, R405, R412). -/
def State.pendError (s : State) (va : Nat) (c : Ctx) (detail : W64) : State :=
  let s1 := s.modBook va (fun b => { b with traps := b.traps ++ [⟨0x09, w64 va, detail, 0⟩] })
  if c.line.st = .waiting then s1.post (.cancel va c.line.wait c.book.stamp) else s1

/-- CONTEXT_LINE_UNCORRECTABLE (R406, R412): the line is repaired and TRAPPED with cause 0x09; one TRAPPED already keeps its
cause, and a notice is sent.  A wait whose access is on its way to its home, or is served already, ends there first (R264), and a trap
whose handler finds no room waits for it (R301). -/
def execContextLineUncorrectable (va : Nat) (lost : BitVec 16) (s : State) : Out :=
  match s.ctx? va with
  | none => noOccasion "CONTEXT_LINE_UNCORRECTABLE"
  | some c =>
    let array : Option (Nat × Nat) := match c.book.owner with
      | .l1 u => some (1, u)
      | .l2 cl => some (2, cl * 96)
      | .hbm _ => none
    match array with
    | none => noOccasion "CONTEXT_LINE_UNCORRECTABLE"
    | some (code, unit) =>
      if lost = 0 ∨ c.line.st = .free then
        noOccasion "CONTEXT_LINE_UNCORRECTABLE"
      else
        let s1 := s.modCtx va (fun c => { line := c.line.repair lost, book := { c.book with msg := [] } })
        let detail := w64 (code + lost.toNat * 2 ^ 16)
        match c.line.st with
        | .trapped => .next (s1.notice 0x04 0 [w64 code, w64 unit, w64 va])
        | .issuing => match (s1.unit unit).slots.findIdx? (fun k => k.occ == some va) with
          | some k => .next (s1.raiseSoon unit k va 0x09 (w64 va) detail)
          | none => noOccasion "CONTEXT_LINE_UNCORRECTABLE"
        | .waiting =>
          if s.disarmable va c && (s1.disarm va).handlerRoom (.line (s1.lineCluster c)) va 0x09 then
            .next ((((s1.disarm va).raise (.line (s1.lineCluster c)) va 0x09 (w64 va) detail c.book.word false)).dropAccHold va
              c.line.wait)
          else .next (s1.pendError va c detail)
        | _ =>
          if s1.handlerRoom (.line (s1.lineCluster c)) va 0x09 then
            .next (s1.raise (.line (s1.lineCluster c)) va 0x09 (w64 va) detail 0 false)
          else .next (s1.pendError va c detail)

/-- DEQUE_ENTRY_UNCORRECTABLE (R414): the entry is removed and the view of its tenant frozen, or every view where the tenant is
lost. -/
def execDequeEntryUncorrectable (u entry : Nat) (tenantLost : Bool) (s : State) : Out :=
  match (s.unit u).deque[entry]? with
  | none => noOccasion "DEQUE_ENTRY_UNCORRECTABLE"
  | some e =>
    let s1 := s.dropEntry u entry
    .next (if tenantLost then (List.range 256).foldl (fun s t => s.setFrozen u t true) s1
           else s1.setFrozen u e.tenant true)

/-- DEVICE_FAULT (R406, R416): every unit stops at its next boundary, engines and stacks finish nothing, and the host is told.
The code is 9, or 0 for a die link or the orrery. -/
def execDeviceFault (code unit : Nat) (s : State) : Out :=
  if s.faulted = true ∨ (code ≠ 0 ∧ code ≠ 9) then noOccasion "DEVICE_FAULT"
  else .next ({ s with faulted := true }.notice 0x05 0 [w64 code, w64 unit])

/-! ## The start (R418-R424) -/

/-- The die pairs of step 6: (i, j) with i < j in increasing order; dies 4 and 5 are the channel dies (R10, R418). -/
def diePairs : List (Nat × Nat) := (List.range 6).flatMap (fun i => ((List.range 6).filter (fun j => decide (i < j))).map (fun j => (i, j)))

/-- What skipping an element leaves (R418). -/
def skipElement (i : StartInfo) (step elem : Nat) : StartInfo :=
  match step with
  | 5 => { i with hstacks := i.hstacks &&& ~~~(1#12 <<< elem) }
  | 6 =>
    let p := nth diePairs elem (4, 5)
    if p.1 = 4 then i
    else
      let die := if p.2 < 4 then p.2 else p.1
      { i with clusters := i.clusters &&& ~~~(0xF#16 <<< (4 * die)) }
  | 8 =>
    if elem < 16 then { i with clusters := i.clusters &&& ~~~(1#16 <<< elem) }
    else { i with hstacks := i.hstacks &&& ~~~(1#12 <<< (elem - 16)) }
  | 10 => if elem = 0 then i else { i with ports := i.ports &&& ~~~(1#18 <<< (elem - 1)) }
  | _ => i

/-- What an element started by its alternate method leaves (R418, R423). -/
def alternateElement (i : StartInfo) (step elem : Nat) : StartInfo :=
  match step with
  | 5 => { i with slow := i.slow ||| (1#12 <<< elem) }
  | 6 => { i with lnkHalf := true }
  | 7 => { i with orSlow := true }
  | 10 => if elem = 0 then { i with host8 := true } else i
  | _ => i

/-- Whether skipping an element means no start (R418). -/
def essential (step elem : Nat) : Bool :=
  [1, 2, 3, 4, 7, 9].contains step || (step == 6 && elem == 14) || (step == 10 && elem == 0)

/-- The versions that this device advertises on a link (R401, R418): a peer port that starts by its alternate method has version 1
only. -/
def linkMask (elem fails : Nat) : BitVec 16 := if elem ≠ 0 ∧ fails = 1 then 0x0001 else 0x0003

/-- The highest version of a mask, in which bit v - 1 stands for version v (R401). -/
def topVersion (m : BitVec 16) : Nat := ((List.range 16).foldl (fun v i => if m.getLsbD i then i + 1 else v) 0)

/-- Whether an attempt at an element succeeds (R401, R402, R419): a link trains where the two masks share a version, and a peer port where
its partner's number is not the device's own. -/
def elementSucceeds (o : StartOutcome) (step elem fails own : Nat) : Bool :=
  o.passed && (step != 10 || ((o.mask &&& linkMask elem fails) != 0 && (elem == 0 || o.number != own)))

/-- A link that trained: the version in use and the partner's number (R401, R402). -/
def trainedLink (i : StartInfo) (o : StartOutcome) (elem fails : Nat) : StartInfo :=
  { i with
    versions := Assoc.set i.versions elem (topVersion (o.mask &&& linkMask elem fails))
    partners := if elem = 0 ∨ 64 ≤ o.number then i.partners else Assoc.set i.partners (elem - 1) o.number }

/-- One element attempted, or skipped, by the rule of R419, and its record (R421), on a device whose number is own.  stop gathers whether an
essential element of the step came to nothing. -/
def startElement (number own step elem : Nat) (o : StartOutcome) (fails : Nat) (i : StartInfo) : StartInfo × Nat × W64 × Bool :=
  if fails = 2 then (skipElement i step elem, 2, startRecord number step elem 0 2 2 2, essential step elem)
  else if elementSucceeds o step elem fails own then
    let i1 := if step = 10 then trainedLink i o elem fails else i
    (if fails = 1 then alternateElement i1 step elem else i1, fails, startRecord number step elem 0 fails fails 0, false)
  else
    let f := min (fails + 1) 2
    (skipElement i step elem, f, startRecord number step elem (if step = 5 ∨ step = 8 then o.detail % 256 else 0) f fails 1,
     essential step elem)

/-- Some elements of one step, in order (R420): those of a start that has stopped are recorded as not reached.  An element whose outcome
is not given passes, and a link's other end then advertises what this device does, and no number. -/
def startStep (number own : Nat) (outcomes : List StartOutcome) (elems : List (Nat × (Nat × Nat))) (st : Starting) : Starting :=
  let r : Starting × Bool := elems.foldl (fun (r : Starting × Bool) e =>
    let k := e.1
    let x := r.1
    let f := nth x.fails k 0
    if st.stopped then
      ({ x with log := x.log ++ [startRecord number e.2.1 e.2.2 0 f 0 3] }, r.2)
    else
      let y := startElement number own e.2.1 e.2.2 (nth outcomes k ⟨true, 0, 0x0003, 64⟩) f x.info
      ({ x with info := y.1, fails := setNth x.fails k y.2.1, log := x.log ++ [y.2.2.1] }, r.2 || y.2.2.2)) (st, false)
  { r.1 with stopped := st.stopped || r.2 || r.1.info.hstacks == 0 || r.1.info.clusters == 0 }

/-- The elements of a start with their places in its log, those of one step that satisfy a test (R418). -/
def elementsOf (step : Nat) (p : Nat → Bool) : List (Nat × (Nat × Nat)) :=
  (startElements.zipIdx.map (fun e => (e.2, e.1))).filter (fun e => e.2.1 == step && p e.2.2)

/-- The start up to the host link, after which step 10 waits for the hello: steps 1 to 9 and element 0 of step 10 (R402, R418,
R420). -/
def runStart (number : Nat) (outcomes : List StartOutcome) (st : Starting) : Starting :=
  startStep number 0 outcomes (elementsOf 10 (fun e => e == 0))
    ((List.range 9).foldl (fun st k => startStep number 0 outcomes (elementsOf (k + 1) (fun _ => true)) st) st)

/-- The rest of a start, on a device that has its number: the peer ports, and step 11 (R402, R418). -/
def endStart (number own : Nat) (outcomes : List StartOutcome) (st : Starting) : Starting :=
  startStep number own outcomes (elementsOf 11 (fun _ => true)) (startStep number own outcomes (elementsOf 10 (fun e => e != 0)) st)

/-- What a start finds altered in DRAM: what was altered before, and the tags of poisoned blocks, which were never made (R411, R424); the
model takes two of their bytes inverted (DESIGN CHOICE, log 80). -/
def State.damageAtStart (s : State) : List (Nat × List (Nat × Byte)) :=
  s.quarantine.foldl (fun (d : List (Nat × List (Nat × Byte))) q =>
    if q.2.2 then Assoc.set d q.1 [(65, 0xFF), (66, 0xFF)] else d) s.damage

/-- The security version of the images that a start checks at step 4, those in the store (R370); the two images of that step carry one
version and one digest (DESIGN CHOICE, log 79). -/
def State.startVersion (s : State) (newFirmware : Bool) : Nat :=
  if newFirmware then (Config.firmwareVersion ((s.start.number + 1) % 65536)).toNat else s.imageVersion

/-- The digest of those images. -/
def State.startDigest (s : State) (newFirmware : Bool) : List W64 :=
  if newFirmware then fixed 6 (Config.firmwareDigest ((s.start.number + 1) % 65536)) else s.imageDigest

/-- The outcomes of a start: step 4 fails where the version of the images is below the fused minimum (R16, R370). -/
def State.startOutcomes (s : State) (newFirmware : Bool) (outcomes : List StartOutcome) : List StartOutcome :=
  if s.minVersion ≤ s.startVersion newFirmware then outcomes
  else setNth (outcomes ++ List.replicate 4 ⟨true, 0, 0x0003, 64⟩) 3 ⟨false, 0, 0x0003, 64⟩

/-- The state that a start leaves (R424): everything of the previous start ended or at reset, DRAM as it stood, and what the caches alone
held lost.  The images in the store run where they passed step 4 (R16, R370). -/
def State.restarted (s : State) (info : StartInfo) (newFirmware passed stopped : Bool) : State :=
  { State.reset with
    mem := s.dramMem
    feEmpty := s.feEmpty
    blockTag := s.blockTag
    damage := s.damageAtStart
    hostOut := s.hostOut
    kept := s.kept
    peerOut := s.peerOut
    nextId := s.nextId
    stamp := s.stamp
    agenda := s.agenda
    focus := s.focus
    wireTurn := s.wireTurn
    linkUp := s.linkUp
    deviceSet := false
    start := info
    faulted := stopped
    minVersion := s.minVersion
    imageVersion := s.startVersion newFirmware
    imageDigest := s.startDigest newFirmware
    fwVersion := if passed then s.startVersion newFirmware else s.fwVersion
    fwDigest := if passed then s.startDigest newFirmware else s.fwDigest }

/-- The twelve notices of a start's records (R407, R422). -/
def State.sendRecords (s : State) (log : List W64) : State :=
  (chunks 7 12 log).foldl (fun s c => s.notice 0x01 c.length c) s

/-- The kept notices sent (R407). -/
def State.sendKept (s : State) : State :=
  if s.linkUp then { s with hostOut := s.hostOut ++ s.kept, kept := [] } else s

/-- What a start in progress, or one that stops, has brought up: nothing issues, and no port is up (R418, R420). -/
def Starting.downInfo (st : Starting) : StartInfo :=
  { st.info with fails := st.fails, log := st.log, hstacks := 0, clusters := 0, ports := 0, reserved := [] }

/-- What a whole start has brought up. -/
def Starting.upInfo (st : Starting) : StartInfo :=
  { st.info with fails := st.fails, log := st.log, reserved := reservedRegions st.info.hstacks }

/-- The RESULT of the record of an element (R421). -/
def Starting.result (st : Starting) (k : Nat) : Nat := (nth st.log k 0).toNat % 16

/-- START (R16, R370, R402, R418-R424): outcomes tell, element by element, how its attempt comes out.  A start that stops leaves no unit
started; any other comes as far as the host link, and step 10 holds it there until a hello arrives. -/
def execStart (outcomes : List StartOutcome) (newFirmware : Bool) (s : State) : Out :=
  let number := (s.start.number + 1) % 65536
  let i0 : StartInfo := { StartInfo.reset with number := number, prevLog := s.start.log, versions := [], partners := [] }
  let st0 : Starting := ⟨i0, if newFirmware then List.replicate 81 0 else s.start.fails, [], false⟩
  let st := runStart number (s.startOutcomes newFirmware outcomes) st0
  let passed := st.result 3 == 0
  if st.stopped then
    let all := endStart number 0 outcomes st
    let s1 := s.restarted all.downInfo newFirmware passed true
    if all.result 61 = 3 then
      -- stopped before step 10: the link is as it was; notice 0x03 if it is up (R420)
      let last := (all.log.filter (fun w => w.toNat % 16 != 3)).getLast?.getD 0
      .next (if s1.linkUp then s1.notice 0x03 0 [last] else s1)
    else
      let s2 := { s1 with linkUp := decide (all.result 61 = 0) }.sendKept.sendRecords all.log
      .next (if s2.linkUp then s2.notice 0x03 0 [nth all.log 61 0] else s2)
  else .next { s.restarted st.downInfo newFirmware passed true with linkUp := true, starting := some ⟨st, outcomes⟩ }

/-- The start that a hello lets go on (R402, R418, R422): the peer ports train, and the device is ready. -/
def State.finishStart (s : State) (h : HeldStart) : State :=
  let st := endStart s.start.number s.device h.outcomes h.so
  let s1 := ({ s with start := st.upInfo, starting := none, faulted := false }.sendKept).sendRecords st.log
  s1.notice 0x02 0 [st.upInfo.capability]

/-- HELLO (R400-R402): the mask in use and the capability word; the device number is set once in a start, by the hello that its step 10
waits for. -/
def execHello (tag : Nat) (payload : List W64) (s : State) : Out :=
  if !(s.manages payload 0x01) then noOccasion "HELLO"
  else
    let w := nth payload 2 0
    let given := bit w 8
    let num := if given then bits w 0 6 else 0
    let reply (s : State) : List W64 := [nth payload 1 0 &&& 0x0001, s.start.capability]
    if s.deviceSet then
      if given && decide (num ≠ s.device) then s.manage tag 1 (reply s) else s.manage tag 0 (reply s)
    else
      let s1 := { s with device := num, deviceSet := true }
      let s2 := match s1.starting with | some h => s1.finishStart h | none => s1
      s2.manage tag 0 (reply s2)

end Sys2Proof.Machine
end

