-- ==== Sys2Proof/Machine/Dispatch.lean ====
section
/-! DEFINITION. Every instruction and event, arm by arm: one direct call of its meaning. -/

namespace Sys2Proof.Machine

def exec (i : Instr) (s : State) : Host.Outcome State Fault Refusal :=
  match i with
  | .br g off => Sys2Proof.Machine.execBr g off s
  | .call g off => Sys2Proof.Machine.execCall g off s
  | .jmp g a => Sys2Proof.Machine.execJmp g a s
  | .callr g a => Sys2Proof.Machine.execCallr g a s
  | .ret g => Sys2Proof.Machine.execRet g s
  | .pcmp g pd a b c => Sys2Proof.Machine.execPcmp g pd a b c s
  | .fcmp g pd a b f r => Sys2Proof.Machine.execFcmp g pd a b f r s
  | .pand g pd qa qb => Sys2Proof.Machine.execPand g pd qa qb s
  | .por g pd qa qb => Sys2Proof.Machine.execPor g pd qa qb s
  | .pxor g pd qa qb => Sys2Proof.Machine.execPxor g pd qa qb s
  | .pnot g pd qa => Sys2Proof.Machine.execPnot g pd qa s
  | .pmov g pd qa => Sys2Proof.Machine.execPmov g pd qa s
  | .pget g d => Sys2Proof.Machine.execPget g d s
  | .pset g a => Sys2Proof.Machine.execPset g a s
  | .trap g => Sys2Proof.Machine.execTrap g s
  | .rte g a => Sys2Proof.Machine.execRte g a s
  | .rteNewPc g a b => Sys2Proof.Machine.execRteNewPc g a b s
  | .bkpt g => Sys2Proof.Machine.execBkpt g s
  | .csrr g d n => Sys2Proof.Machine.execCsrr g d n s
  | .csrw g a n => Sys2Proof.Machine.execCsrw g a n s
  | .nop => Sys2Proof.Machine.execNop s
  | .hint g body => Sys2Proof.Machine.execHint g body s
  | .add g d a b => Sys2Proof.Machine.execAdd g d a b s
  | .sub g d a b => Sys2Proof.Machine.execSub g d a b s
  | .and g d a b => Sys2Proof.Machine.execAnd g d a b s
  | .or g d a b => Sys2Proof.Machine.execOr g d a b s
  | .xor g d a b => Sys2Proof.Machine.execXor g d a b s
  | .andn g d a b => Sys2Proof.Machine.execAndn g d a b s
  | .shl g d a b => Sys2Proof.Machine.execShl g d a b s
  | .shrl g d a b => Sys2Proof.Machine.execShrl g d a b s
  | .shra g d a b => Sys2Proof.Machine.execShra g d a b s
  | .rotl g d a b => Sys2Proof.Machine.execRotl g d a b s
  | .min g d a b => Sys2Proof.Machine.execMin g d a b s
  | .mins g d a b => Sys2Proof.Machine.execMins g d a b s
  | .max g d a b => Sys2Proof.Machine.execMax g d a b s
  | .maxs g d a b => Sys2Proof.Machine.execMaxs g d a b s
  | .lea g d a b sc => Sys2Proof.Machine.execLea g d a b sc s
  | .sel g d a b p => Sys2Proof.Machine.execSel g d a b p s
  | .addi g d a imm => Sys2Proof.Machine.execAddi g d a imm s
  | .andi g d a imm => Sys2Proof.Machine.execAndi g d a imm s
  | .ori g d a imm => Sys2Proof.Machine.execOri g d a imm s
  | .xori g d a imm => Sys2Proof.Machine.execXori g d a imm s
  | .shli g d a n => Sys2Proof.Machine.execShli g d a n s
  | .shrli g d a n => Sys2Proof.Machine.execShrli g d a n s
  | .shrai g d a n => Sys2Proof.Machine.execShrai g d a n s
  | .rotli g d a n => Sys2Proof.Machine.execRotli g d a n s
  | .lil g d imm => Sys2Proof.Machine.execLil g d imm s
  | .lih g d imm => Sys2Proof.Machine.execLih g d imm s
  | .mul g d a b => Sys2Proof.Machine.execMul g d a b s
  | .mulh g d a b => Sys2Proof.Machine.execMulh g d a b s
  | .mulhs g d a b => Sys2Proof.Machine.execMulhs g d a b s
  | .div g d a b => Sys2Proof.Machine.execDiv g d a b s
  | .divs g d a b => Sys2Proof.Machine.execDivs g d a b s
  | .rem g d a b => Sys2Proof.Machine.execRem g d a b s
  | .rems g d a b => Sys2Proof.Machine.execRems g d a b s
  | .clz g d a => Sys2Proof.Machine.execClz g d a s
  | .ctz g d a => Sys2Proof.Machine.execCtz g d a s
  | .popc g d a => Sys2Proof.Machine.execPopc g d a s
  | .bswap g d a => Sys2Proof.Machine.execBswap g d a s
  | .bext g d a b => Sys2Proof.Machine.execBext g d a b s
  | .bins g d a b => Sys2Proof.Machine.execBins g d a b s
  | .vadd g d a b h => Sys2Proof.Machine.execVadd g d a b h s
  | .vsub g d a b h => Sys2Proof.Machine.execVsub g d a b h s
  | .vmul g d a b h => Sys2Proof.Machine.execVmul g d a b h s
  | .vmin g d a b sg h => Sys2Proof.Machine.execVmin g d a b sg h s
  | .vmax g d a b sg h => Sys2Proof.Machine.execVmax g d a b sg h s
  | .vadds g d a b sg h => Sys2Proof.Machine.execVadds g d a b sg h s
  | .vsubs g d a b sg h => Sys2Proof.Machine.execVsubs g d a b sg h s
  | .vdot g d a b sg => Sys2Proof.Machine.execVdot g d a b sg s
  | .vred g d a sg h => Sys2Proof.Machine.execVred g d a sg h s
  | .fadd g d a b f => Sys2Proof.Machine.execFadd g d a b f s
  | .fsub g d a b f => Sys2Proof.Machine.execFsub g d a b f s
  | .fmul g d a b f => Sys2Proof.Machine.execFmul g d a b f s
  | .fmin g d a b f => Sys2Proof.Machine.execFmin g d a b f s
  | .fmax g d a b f => Sys2Proof.Machine.execFmax g d a b f s
  | .fabs g d a f => Sys2Proof.Machine.execFabs g d a f s
  | .fneg g d a f => Sys2Proof.Machine.execFneg g d a f s
  | .fdiv g d a b f => Sys2Proof.Machine.execFdiv g d a b f s
  | .fsqrt g d a f => Sys2Proof.Machine.execFsqrt g d a f s
  | .ffma g d a b f => Sys2Proof.Machine.execFfma g d a b f s
  | .frcp g d a f => Sys2Proof.Machine.execFrcp g d a f s
  | .fexp2 g d a f => Sys2Proof.Machine.execFexp2 g d a f s
  | .flog2 g d a f => Sys2Proof.Machine.execFlog2 g d a f s
  | .cvt g d a dst src => Sys2Proof.Machine.execCvt g d a dst src s
  | .vshuf g d a b h => Sys2Proof.Machine.execVshuf g d a b h s
  | .vpack g d a b h => Sys2Proof.Machine.execVpack g d a b h s
  | .vbcast g d a h => Sys2Proof.Machine.execVbcast g d a h s
  | .ld g d base sz hint disp => Sys2Proof.Machine.execLd g d base sz hint disp s
  | .st g d base sz hint disp => Sys2Proof.Machine.execSt g d base sz hint disp s
  | .ldx g d a b sz hint => Sys2Proof.Machine.execLdx g d a b sz hint s
  | .stx g d a b sz hint => Sys2Proof.Machine.execStx g d a b sz hint s
  | .pref g a => Sys2Proof.Machine.execPref g a s
  | .cpf g a => Sys2Proof.Machine.execCpf g a s
  | .cdrop g a => Sys2Proof.Machine.execCdrop g a s
  | .recon g r => Sys2Proof.Machine.execRecon g r s
  | .pin g a v => Sys2Proof.Machine.execPin g a v s
  | .unpin g a => Sys2Proof.Machine.execUnpin g a s
  | .take g d a r => Sys2Proof.Machine.execTake g d a r s
  | .put g a v r => Sys2Proof.Machine.execPut g a v r s
  | .peek g d a r => Sys2Proof.Machine.execPeek g d a r s
  | .fill g a v r => Sys2Proof.Machine.execFill g a v r s
  | .empty g d a r => Sys2Proof.Machine.execEmpty g d a r s
  | .festat g d a r => Sys2Proof.Machine.execFestat g d a r s
  | .amoAdd g d a v r => Sys2Proof.Machine.execAmoAdd g d a v r s
  | .amoMin g d a v r => Sys2Proof.Machine.execAmoMin g d a v r s
  | .amoMax g d a v r => Sys2Proof.Machine.execAmoMax g d a v r s
  | .amoAnd g d a v r => Sys2Proof.Machine.execAmoAnd g d a v r s
  | .amoOr g d a v r => Sys2Proof.Machine.execAmoOr g d a v r s
  | .amoXor g d a v r => Sys2Proof.Machine.execAmoXor g d a v r s
  | .amoSwap g d a v r => Sys2Proof.Machine.execAmoSwap g d a v r s
  | .amoCas g d a v r => Sys2Proof.Machine.execAmoCas g d a v r s
  | .amoFadd g d a v r => Sys2Proof.Machine.execAmoFadd g d a v r s
  | .moonAdd g a v => Sys2Proof.Machine.execMoonAdd g a v s
  | .moonMin g a v => Sys2Proof.Machine.execMoonMin g a v s
  | .moonMax g a v => Sys2Proof.Machine.execMoonMax g a v s
  | .moonOr g a v => Sys2Proof.Machine.execMoonOr g a v s
  | .moonFadd g a v => Sys2Proof.Machine.execMoonFadd g a v s
  | .tadd g d a b => Sys2Proof.Machine.execTadd g d a b s
  | .tsub g d a b => Sys2Proof.Machine.execTsub g d a b s
  | .tmul g d a b => Sys2Proof.Machine.execTmul g d a b s
  | .tmax g d a b => Sys2Proof.Machine.execTmax g d a b s
  | .tscale g d a b => Sys2Proof.Machine.execTscale g d a b s
  | .tscaleRdiv g d a b => Sys2Proof.Machine.execTscaleRdiv g d a b s
  | .texp g d a => Sys2Proof.Machine.execTexp g d a s
  | .trsum g d a acc col => Sys2Proof.Machine.execTrsum g d a acc col s
  | .trmax g d a acc col => Sys2Proof.Machine.execTrmax g d a acc col s
  | .tcvt g d a => Sys2Proof.Machine.execTcvt g d a s
  | .ttrans g d a => Sys2Proof.Machine.execTtrans g d a s
  | .tfill g d a => Sys2Proof.Machine.execTfill g d a s
  | .tget g d a b => Sys2Proof.Machine.execTget g d a b s
  | .tset g d a b => Sys2Proof.Machine.execTset g d a b s
  | .tmma g a b k => Sys2Proof.Machine.execTmma g a b k s
  | .tmmaZ g a b k => Sys2Proof.Machine.execTmmaZ g a b k s
  | .accSt g d ints q => Sys2Proof.Machine.execAccSt g d ints q s
  | .accStRaw g a => Sys2Proof.Machine.execAccStRaw g a s
  | .accLd g a q => Sys2Proof.Machine.execAccLd g a q s
  | .accLdRaw g a => Sys2Proof.Machine.execAccLdRaw g a s
  | .accZ g => Sys2Proof.Machine.execAccZ g s
  | .accOwn g d => Sys2Proof.Machine.execAccOwn g d s
  | .accOwnSet g a => Sys2Proof.Machine.execAccOwnSet g a s
  | .ringPush g d a => Sys2Proof.Machine.execRingPush g d a s
  | .ringPop g d a => Sys2Proof.Machine.execRingPop g d a s
  | .ringStat g d a => Sys2Proof.Machine.execRingStat g d a s
  | .hndNew g d a b => Sys2Proof.Machine.execHndNew g d a b s
  | .hndNewPair g d a b => Sys2Proof.Machine.execHndNewPair g d a b s
  | .hndFree g a => Sys2Proof.Machine.execHndFree g a s
  | .hndInfo g d a => Sys2Proof.Machine.execHndInfo g d a s
  | .attnQk g a b => Sys2Proof.Machine.execAttnQk g a b s
  | .attnSm g d a b j => Sys2Proof.Machine.execAttnSm g d a b j s
  | .attnPv g d a b => Sys2Proof.Machine.execAttnPv g d a b s
  | .attnClose g d a n => Sys2Proof.Machine.execAttnClose g d a n s
  | .kvMap g d a b => Sys2Proof.Machine.execKvMap g d a b s
  | .kvEvict g d a b => Sys2Proof.Machine.execKvEvict g d a b s
  | .kvMass g d a j => Sys2Proof.Machine.execKvMass g d a j s
  | .tq g d a => Sys2Proof.Machine.execTq g d a s
  | .tqAuto g d a => Sys2Proof.Machine.execTqAuto g d a s
  | .tdq g d a => Sys2Proof.Machine.execTdq g d a s
  | .copy g a b c d q1 tri => Sys2Proof.Machine.execCopy g a b c d q1 tri s
  | .copyT g a b c d q1 tri => Sys2Proof.Machine.execCopyT g a b c d q1 tri s
  | .gath g a b c d tri => Sys2Proof.Machine.execGath g a b c d tri s
  | .gathii g a b c d tri => Sys2Proof.Machine.execGathii g a b c d tri s
  | .scat g a b c d tri => Sys2Proof.Machine.execScat g a b c d tri s
  | .graphLoad g a b c d tri => Sys2Proof.Machine.execGraphLoad g a b c d tri s
  | .graphLoadF g a b c d tri => Sys2Proof.Machine.execGraphLoadF g a b c d tri s
  | .streamOpen g a b c d tri => Sys2Proof.Machine.execStreamOpen g a b c d tri s
  | .streamClose g a b c d tri => Sys2Proof.Machine.execStreamClose g a b c d tri s
  | .collAr g a b c d tri => Sys2Proof.Machine.execCollAr g a b c d tri s
  | .collBc g a b c d tri => Sys2Proof.Machine.execCollBc g a b c d tri s
  | .qfence g mask => Sys2Proof.Machine.execQfence g mask s
  | .waitc g a => Sys2Proof.Machine.execWaitc g a s
  | .wlim g a => Sys2Proof.Machine.execWlim g a s
  | .spawn g off => Sys2Proof.Machine.execSpawn g off s
  | .spawnr g a => Sys2Proof.Machine.execSpawnr g a s
  | .await g d => Sys2Proof.Machine.execAwait g d s
  | .done g => Sys2Proof.Machine.execDone g s
  | .frame g a b => Sys2Proof.Machine.execFrame g a b s
  | .yield g => Sys2Proof.Machine.execYield g s
  | .migrate g a => Sys2Proof.Machine.execMigrate g a s
  | .dqPushRange g d a b => Sys2Proof.Machine.execDqPushRange g d a b s
  | .dqPushTask g d a b => Sys2Proof.Machine.execDqPushTask g d a b s
  | .dqPop g d a => Sys2Proof.Machine.execDqPop g d a s
  | .dqSteal g d a b => Sys2Proof.Machine.execDqSteal g d a b s
  | .dqSplit g d a b => Sys2Proof.Machine.execDqSplit g d a b s
  | .dqCfg g a => Sys2Proof.Machine.execDqCfg g a s
  | .dqCfgThaw g => Sys2Proof.Machine.execDqCfgThaw g s
  | .dqCfgGet g d => Sys2Proof.Machine.execDqCfgGet g d s
  | .stgPush g a b r => Sys2Proof.Machine.execStgPush g a b r s
  | .stgPop g d a r => Sys2Proof.Machine.execStgPop g d a r s
  | .stgStat g d a => Sys2Proof.Machine.execStgStat g d a s
  | .tlbW g d a b => Sys2Proof.Machine.execTlbW g d a b s
  | .tlbI g d a b => Sys2Proof.Machine.execTlbI g d a b s
  | .keyLd g d a b => Sys2Proof.Machine.execKeyLd g d a b s
  | .keyClr g d a => Sys2Proof.Machine.execKeyClr g d a s
  | .slotSet g d a b => Sys2Proof.Machine.execSlotSet g d a b s
  | .qwtSet g a b => Sys2Proof.Machine.execQwtSet g a b s
  | .arenaSet g d a b => Sys2Proof.Machine.execArenaSet g d a b s
  | .halt g d a => Sys2Proof.Machine.execHalt g d a s
  | .haltQ g d a => Sys2Proof.Machine.execHaltQ g d a s
  | .resume g d a => Sys2Proof.Machine.execResume g d a s
  | .step g d a => Sys2Proof.Machine.execStep g d a s
  | .lnkTxw g a => Sys2Proof.Machine.execLnkTxw g a s
  | .lnkTxe g a => Sys2Proof.Machine.execLnkTxe g a s
  | .mieQclr g a => Sys2Proof.Machine.execMieQclr g a s
  | .dqCfgPrivWrite g a => Sys2Proof.Machine.execDqCfgPrivWrite g a s
  | .slotTurn unit => Sys2Proof.Machine.execSlotTurn unit s
  | .openMessageLimit unit slot => Sys2Proof.Machine.execOpenMessageLimit unit slot s
  | .rotationBoundary unit => Sys2Proof.Machine.execRotationBoundary unit s
  | .hardwareThrottle unit level => Sys2Proof.Machine.execHardwareThrottle unit level s
  | .matrixPeriod unit => Sys2Proof.Machine.execMatrixPeriod unit s
  | .matrixStepComplete unit => Sys2Proof.Machine.execMatrixStepComplete unit s
  | .tileOpComplete id => Sys2Proof.Machine.execTileOpComplete id s
  | .loadDelivery id => Sys2Proof.Machine.execLoadDelivery id s
  | .errorDelivery id => Sys2Proof.Machine.execErrorDelivery id s
  | .storeAcknowledge id => Sys2Proof.Machine.execStoreAcknowledge id s
  | .writeBackArrival src => Sys2Proof.Machine.execWriteBackArrival src s
  | .syncAccessAtHome id => Sys2Proof.Machine.execSyncAccessAtHome id s
  | .deferredResend id => Sys2Proof.Machine.execDeferredResend id s
  | .waitCancel id => Sys2Proof.Machine.execWaitCancel id s
  | .waitLimitExpiry ctx => Sys2Proof.Machine.execWaitLimitExpiry ctx s
  | .moonletPerform id => Sys2Proof.Machine.execMoonletPerform id s
  | .frameIncrement id => Sys2Proof.Machine.execFrameIncrement id s
  | .frameDecrement id => Sys2Proof.Machine.execFrameDecrement id s
  | .awaitAtHome id => Sys2Proof.Machine.execAwaitAtHome id s
  | .awaitResend id => Sys2Proof.Machine.execAwaitResend id s
  | .ringOpAtHome id => Sys2Proof.Machine.execRingOpAtHome id s
  | .stageOpAtHome id => Sys2Proof.Machine.execStageOpAtHome id s
  | .stealAtVictim id => Sys2Proof.Machine.execStealAtVictim id s
  | .stealResultDelivery id w0 w1 => Sys2Proof.Machine.execStealResultDelivery id w0 w1 s
  | .orreryClaim id => Sys2Proof.Machine.execOrreryClaim id s
  | .cometArrival id => Sys2Proof.Machine.execCometArrival id s
  | .engineStart id => Sys2Proof.Machine.execEngineStart id s
  | .engineComplete id => Sys2Proof.Machine.execEngineComplete id s
  | .engineHandBack id => Sys2Proof.Machine.execEngineHandBack id s
  | .collectivePerform id => Sys2Proof.Machine.execCollectivePerform id s
  | .attnClosePerform id => Sys2Proof.Machine.execAttnClosePerform id s
  | .kvEvictPerform id => Sys2Proof.Machine.execKvEvictPerform id s
  | .kvCompactMove id => Sys2Proof.Machine.execKvCompactMove id s
  | .tsuMissMessage id => Sys2Proof.Machine.execTsuMissMessage id s
  | .missResend id => Sys2Proof.Machine.execMissResend id s
  | .tlbInvalidateComplete id => Sys2Proof.Machine.execTlbInvalidateComplete id s
  | .keySlotChange id => Sys2Proof.Machine.execKeySlotChange id s
  | .filled id image => Sys2Proof.Machine.execFilled id image s
  | .contextLineArrival id => Sys2Proof.Machine.execContextLineArrival id s
  | .replayAbandon port => Sys2Proof.Machine.execReplayAbandon port s
  | .contextL2Evict cluster ctx => Sys2Proof.Machine.execContextL2Evict cluster ctx s
  | .notPresent id => Sys2Proof.Machine.execNotPresent id s
  | .protection id => Sys2Proof.Machine.execProtection id s
  | .defer id => Sys2Proof.Machine.execDefer id s
  | .patrolRead read => Sys2Proof.Machine.execPatrolRead read s
  | .rootSpawn tag tenant payload => Sys2Proof.Machine.execRootSpawn tag tenant payload s
  | .hostLoad tag tenant payload => Sys2Proof.Machine.execHostLoad tag tenant payload s
  | .hostStore tag tenant payload => Sys2Proof.Machine.execHostStore tag tenant payload s
  | .invalidMessage header payload => Sys2Proof.Machine.execInvalidMessage header payload s
  | .biasFlip tag tenant payload => Sys2Proof.Machine.execBiasFlip tag tenant payload s
  | .peerAccess req => Sys2Proof.Machine.execPeerAccess req s
  | .hello tag payload => Sys2Proof.Machine.execHello tag payload s
  | .attestation tag payload => Sys2Proof.Machine.execAttestation tag payload s
  | .keyStore tag payload => Sys2Proof.Machine.execKeyStore tag payload s
  | .trackerReport tag payload => Sys2Proof.Machine.execTrackerReport tag payload s
  | .raiseMinimumVersion tag payload => Sys2Proof.Machine.execRaiseMinimumVersion tag payload s
  | .unknownSubkind tag payload => Sys2Proof.Machine.execUnknownSubkind tag payload s
  | .pageMove pa dest dclu => Sys2Proof.Machine.execPageMove pa dest dclu s
  | .start outcomes newFirmware => Sys2Proof.Machine.execStart outcomes newFirmware s
  | .deviceFault code unit => Sys2Proof.Machine.execDeviceFault code unit s
  | .correctedSoftError code die => Sys2Proof.Machine.execCorrectedSoftError code die s
  | .accumulatorUncorrectable unit => Sys2Proof.Machine.execAccumulatorUncorrectable unit s
  | .poisonWriteBack array line => Sys2Proof.Machine.execPoisonWriteBack array line s
  | .contextLineUncorrectable ctx lost => Sys2Proof.Machine.execContextLineUncorrectable ctx lost s
  | .tileUncorrectable tenant index => Sys2Proof.Machine.execTileUncorrectable tenant index s
  | .dequeEntryUncorrectable unit entry tenantLost => Sys2Proof.Machine.execDequeEntryUncorrectable unit entry tenantLost s
  | .tlbParityError unit entry => Sys2Proof.Machine.execTlbParityError unit entry s
  | .peerMessageForward dest words => Sys2Proof.Machine.execPeerMessageForward dest words s

end Sys2Proof.Machine
end

