-- ==== Sys2Proof/Machine/Schedule.lean ====
section
/-! DEFINITION. Which event a step tries: the order the model gives to what the spec leaves free, and the state in which the next
step fetches a given word (R191, R293; log 2, log 4). -/

namespace Sys2Proof.Machine

/-! ## Candidates -/

/-- The event that deals with a message under way. -/
def Msg.event (id : Nat) : Msg → Instr
  | .load _ _ _ _ => .loadDelivery id
  | .loadReq _ _ _ _ _ _ _ _ _ _ => .loadDelivery id
  | .statusReq _ _ => .loadDelivery id
  | .lineStore _ _ => .storeAcknowledge id
  | .error _ _ _ _ _ => .errorDelivery id
  | .ack _ => .storeAcknowledge id
  | .qwtSet _ _ _ _ => .storeAcknowledge id
  | .served _ _ _ _ => .loadDelivery id
  | .dropped _ _ => .loadDelivery id
  | .ustore _ _ _ _ _ _ _ => .storeAcknowledge id
  | .frameInit _ _ _ _ _ _ => .storeAcknowledge id
  | .writeBack _ _ _ _ _ => .writeBackArrival (.message id)
  | .sync _ => .syncAccessAtHome id
  | .syncRefused _ _ => .deferredResend id
  | .cancel _ _ _ => .waitCancel id
  | .moonlet _ _ _ _ _ _ _ => .moonletPerform id
  | .frameInc _ _ _ _ _ => .frameIncrement id
  | .frameDec _ _ _ _ _ _ => .frameDecrement id
  | .await _ _ _ _ _ _ => .awaitAtHome id
  | .awaitRefused _ _ _ _ _ _ _ => .awaitResend id
  | .ringOp rq => if rq.stage then .stageOpAtHome id else .ringOpAtHome id
  | .steal _ => .stealAtVictim id
  | .stealResult _ _ _ _ _ _ _ => .stealResultDelivery id 0 0
  | .claim _ _ _ _ => .orreryClaim id
  | .comet _ _ _ => .cometArrival id
  | .lineMove _ _ _ => .contextLineArrival id
  | .miss _ => .tsuMissMessage id
  | .missRefused _ _ => .missResend id
  | .tlbInv _ _ _ _ => .tlbInvalidateComplete id
  | .keyChange _ _ _ _ => .keySlotChange id
  | .inbound event => event

/-- The event that a command waits for. -/
def Cmd.event (c : Cmd) : Instr :=
  match c.phase with
  | .ended _ => .engineComplete c.id
  | .handed _ _ _ => .engineHandBack c.id
  | .grouped => .collectivePerform c.id
  | .marked => if c.op = .kvEvict then .kvCompactMove c.id else .engineStart c.id
  | .moving => .kvCompactMove c.id
  | .queued => if c.op = .kvEvict then .kvEvictPerform c.id else .engineStart c.id
  | _ => .engineStart c.id

/-- The event that a tile operation waits for. -/
def TileOp.event (o : TileOp) : Instr :=
  match o.kind with
  | .attnClose _ _ _ _ => .attnClosePerform o.id
  | _ => .tileOpComplete o.id

/-- Every event that the messages, commands, tile operations, walks and timers of the state may bring, the oldest of a kind
first. -/
def State.agentEvents (s : State) : List Instr :=
  s.wire.map (fun m => m.2.event m.1) ++ s.cmds.map Cmd.event ++ s.groups.map (fun g => .collectivePerform g.id) ++ s.tileOps.map TileOp.event ++
  s.clusters.flatMap (fun c => c.2.tsu.map (fun k => .filled k.id [])) ++
  s.lines.filterMap (fun c => if c.2.book.timer.isSome then some (.waitLimitExpiry c.1) else none)

/-- The units that have a state of their own or a line to run. -/
def State.activeUnits (s : State) : List Nat :=
  s.lines.foldl (fun us c =>
    let us1 := match c.2.book.owner with | .l1 u => NatSet.insert us u | _ => us
    match c.2.book.assigned with | some u => NatSet.insert us1 u | none => us1) (s.units.map (fun u => u.1))

/-- The events of one unit, in the order of its cycle (R159, R293). -/
def unitEvents (u : Nat) : List Instr := [.rotationBoundary u, .matrixStepComplete u, .matrixPeriod u, .slotTurn u]

/-- The active unit in focus: the first at or after the number, around the list. -/
def State.focusUnit (s : State) : Nat :=
  let us := s.activeUnits
  match us.find? (fun u => decide (s.focus ≤ u)) with
  | some u => u
  | none => us.headD 0

/-- Whether an event may stand in the agenda: every one but the instruction words and the register writes, which a turn alone
issues. -/
def Instr.schedulable (i : Instr) : Bool :=
  i.isEvent && (match i with
    | .lnkTxw _ _ | .lnkTxe _ _ | .mieQclr _ _ | .dqCfgPrivWrite _ _ => false
    | _ => true)

/-- What a step tries, first to last: the head of the agenda, then agents and the unit in focus by turns (log 2). -/
def State.candidates (s : State) : List Instr :=
  let head := match s.agenda with
    | i :: _ => if Instr.schedulable i then [i] else []
    | [] => []
  let us := unitEvents s.focusUnit
  head ++ (if s.wireTurn then s.agentEvents ++ us else us ++ s.agentEvents)

/-- The state in which a step tries its candidates: the agenda's head taken, the turn passed on. -/
def State.begin (s : State) : State :=
  { s with agenda := s.agenda.tail, wireTurn := !s.wireTurn, fetched := none }

/-- The state after an event: a slot turn moves the focus to the next unit. -/
def State.passFocus (i : Instr) (s : State) : State :=
  match i with
  | .slotTurn u => { s with focus := u + 1 }
  | _ => s

/-- The state after a step: the fetched word is spent. -/
def State.settle (s : State) : State := { s with fetched := none }

/-! ## A word to fetch (log 4) -/

/-- The context that fetches: tenant 1, unprivileged, its PC at VA 0. -/
def fetchLine : Line where
  g := #v[0, 0, 0, 0, 0, 0, 0, 0]
  pc := 0
  pred := 0x80000000
  pend := 0
  cause := 0
  stepOn := false
  openMsg := false
  flags := {}
  st := .issuing
  priv := false
  round := .rne
  wait := .none
  frame := 0
  join := 0
  wlimit := 0
  tiles := 0
  engs := 0
  stores := 0
  loads := 0
  hdev := 0
  hclu := 0
  queue := 0
  tenant := 1
  haltReq := false
  oseq := 0

/-- The page at VA 0 and PA 0 of tenant 1, readable, writable and executable. -/
def fetchPage : TlbEntry := ⟨1, 65536, 0, 0, 1, 0, 0, true, false, false, false, false, true, true, true⟩

/-- The VA of the context that fetches. -/
def fetchCtx : Nat := 0x100080

/-- The state with a word at PA 0 and a context in slot 0 of IU 0 that fetches it in the next step. -/
def State.placeWord (s : State) (w : Nat) : State :=
  { s with
    lines := Assoc.set s.lines fetchCtx ⟨fetchLine, Book.fresh (.l1 0) s.stamp (some 0)⟩
    units := Assoc.set s.units 0
      { s.unit 0 with
        cycle := 0
        boundaryDone := true
        periodDone := true
        rot := 0xFEDCBA9876543210
        level := 0
        slots := setNth (s.unit 0).slots 0 ⟨some 0, some fetchCtx, 0⟩
        tlb := fetchPage :: (s.unit 0).tlb
        running := none }
    tenants := Assoc.set s.tenants 1 { s.tenant 1 with bk := List.replicate 4 (0, false) }
    keys := Assoc.set s.keys 1 (0, 0)
    mem := Memory.writeRange s.mem 0 (bytesOf w 4)
    blockTag := Assoc.erase s.blockTag 0
    damage := Assoc.erase s.damage 0
    quarantine := Assoc.erase s.quarantine 0
    pageRecs := Assoc.erase s.pageRecs 0
    start := { s.start with clusters := s.start.clusters ||| 1, hstacks := s.start.hstacks ||| 1 }
    faulted := false
    agenda := []
    focus := 0
    wireTurn := false }

end Sys2Proof.Machine
end

