-- ==== Sys2Proof/Machine/Step.lean ====
section
/-! DEFINITION. One step of the machine: the first of its candidate events that has an occasion, and, where that event is a turn
that fetched a word, the instruction in the same step. -/

namespace Sys2Proof.Machine

/-- The instruction that a turn fetched, executed; a state without a fetched word is the result itself. -/
def execFetched (s : State) : Host.Outcome State Fault Refusal :=
  match s.fetched with
  | none => .next s
  | some w => match decode w with
    | none => .next s
    | some i => exec i s

/-- An event with what it fetches, the state settled. -/
def runEvent (i : Instr) (s : State) : Host.Outcome State Fault Refusal :=
  match exec i s with
  | .next s1 => match execFetched (s1.passFocus i) with
    | .next s2 => .next s2.settle
    | .fault f => .fault f
    | .refused r => .refused r
  | .fault f => .fault f
  | .refused r => .refused r

/-- The first of some events that has an occasion; with none, nothing happens. -/
def firstEvent (s : State) : List Instr → Host.Outcome State Fault Refusal
  | [] => .next s
  | i :: is => match runEvent i s with
    | .fault _ => firstEvent s is
    | r => r

/-- One step. -/
def step (s : State) : Host.Outcome State Fault Refusal := firstEvent s.begin s.candidates

/-- The state in which the next step fetches and runs the instruction whose bits are w. -/
def State.withFetchWord (s : State) (nbits w : Nat) : State := s.placeWord (w % 2 ^ nbits)

end Sys2Proof.Machine
end

