-- ==== Sys2Proof/Safety.lean ====
section
/-! DEFINITION. The terms in which claims are made: when a context's turn is an instruction's own, what an instruction leaves
that only changes its context's line, and the forms of the state that every step keeps (R6, R28, R49, R51, R189, R268, R293). -/

namespace Sys2Proof.Safety

open Sys2Proof.Machine

/-- A turn that belongs to an instruction itself: the context of the turn is issuing, the guard lets the instruction execute
(R49), the unit is an IU or the instruction is local to a CIU (R268), and no register it names is pending (R28). -/
def Turn (s : State) (e : Env) (g : Guard) (uses : List Reg) (isLocal : Bool) : Prop :=
  s.env? = some e ∧ e.line.guard g = true ∧ (isLocal = true ∨ e.u < 1536) ∧ ∀ r ∈ uses, e.line.pending r = false

/-- The state after an instruction that changes its context's line alone: the line l, and the marks of an issue in the
context's book (no wasted turn, the unit it ran on, and that a stepped instruction has issued). -/
def retired (s : State) (e : Env) (l : Line) : State :=
  s.setCtx e.va ⟨l, { e.book with wasted := 0, ranOn := some e.u, stepIssued := e.line.stepOn }⟩

/-- Everything but the line and the book of one context is as it was. -/
def OnlyLine (s t : State) (va : Nat) : Prop :=
  { t with lines := s.lines } = s ∧ ∀ v, v ≠ va → t.ctx? v = s.ctx? v

/-- Memory and the scratchpads are in their one canonical form: rising addresses, no zero byte listed. -/
def MemoryOk (s : State) : Prop := Memory.wf s.mem = true ∧ Memory.wf s.scratch = true

/-- No fetched word waits between two steps: an instruction is executed in the step that fetched it (R293). -/
def NothingFetched (s : State) : Prop := s.fetched = none

/-- The book of a context after an issue (R28, R195, R387). -/
def issuedBook (e : Env) : Book :=
  { e.book with wasted := 0, ranOn := some e.u, stepIssued := e.line.stepOn }

/-- Memory, the scratchpads and the full/empty bits are as they were. -/
def SameMemory (s t : State) : Prop := t.mem = s.mem ∧ t.scratch = s.scratch ∧ t.feEmpty = s.feEmpty

/-- Every context but one is as it was. -/
def CtxsKept (s t : State) (va : Nat) : Prop := ∀ v, v ≠ va → t.ctx? v = s.ctx? v

/-- The registers that no context line holds are as they were: those of tenants and queues, the key slots, the trap records, and
of every unit its tables, throttle levels, accumulator and owner, deque settings and arrival log. -/
def RegistersKept (s t : State) : Prop :=
  t.tenants = s.tenants ∧ t.qwt = s.qwt ∧ t.keys = s.keys ∧ t.records = s.records ∧
  ∀ u, (t.unit u).rot = (s.unit u).rot ∧ (t.unit u).mrot = (s.unit u).mrot ∧ (t.unit u).mrotv = (s.unit u).mrotv ∧
    (t.unit u).level = (s.unit u).level ∧ (t.unit u).fwLevel = (s.unit u).fwLevel ∧
    (t.unit u).accOwn = (s.unit u).accOwn ∧ (t.unit u).acc = (s.unit u).acc ∧ (t.unit u).dqcfg = (s.unit u).dqcfg ∧
    (t.unit u).alog = (s.unit u).alog

/-- Every context but one, and every register that no line holds, is as it was. -/
def OthersKept (s t : State) (va : Nat) : Prop := CtxsKept s t va ∧ RegistersKept s t

/-- Memory changed by a store of some bytes at an address, and nowhere else. -/
def StoredAt (s t : State) (pa : Nat) (bs : List Byte) : Prop :=
  (∀ k, k < bs.length → some (Memory.read t.mem (pa + k)) = bs[k]?) ∧
  ∀ a, a < pa ∨ pa + bs.length ≤ a → Memory.read t.mem a = Memory.read s.mem a

/-- A block of stack memory that a read finds intact under a key slot that is loaded (R361, R365). -/
def Intact (s : State) (pa kslot : Nat) : Prop :=
  isStack pa = true ∧ s.hostBias pa = false ∧ Assoc.get s.quarantine (pa / 64) = none ∧
  Assoc.get s.damage (pa / 64) = none ∧ s.tagOk (pa / 64) kslot = true ∧ (Assoc.get s.keys kslot).isSome = true

/-- Nothing that a read of DRAM accepts needs correction: a read that passes changes nothing (R365).  It holds where no block has
been altered and every block stands under the keys of its slot. -/
def NothingToRepair (s : State) : Prop :=
  ∀ block kslot, (s.verifyDram block kslot).2 = none → (s.verifyDram block kslot).1 = s

/-- The L2 slices hold no byte that a CDROP dropped, and what they and the memory-side caches hold dirty lies in written blocks that a
read finds intact: a line that leaves a cache leaves every byte of memory as it reads (R226, R230, R257, R364). -/
def SlicesSound (s : State) : Prop :=
  (∀ x ∈ s.units, ∀ l ∈ x.2.l2, l.dropped = [] ∧ (l.dirty ≠ [] →
    Intact s (l.line * 64) l.kslot ∧ (Assoc.get s.blockTag l.line).isSome = true)) ∧
  ∀ x ∈ s.hstacks, ∀ set ∈ x.2.msc, ∀ l ∈ set.2, l.dirty ≠ [] →
    Intact s (l.line * 64) l.kslot ∧ (Assoc.get s.blockTag l.line).isSome = true

/-- Write-backs of one unit put under way, and nothing else. -/
def WriteBacks (s t : State) (u : Nat) : Prop :=
  ∃ ws, t.wire = s.wire ++ ws ∧ ∀ w ∈ ws, ∃ c a h cs, w.2 = Msg.writeBack u c a h cs

/-- Whether a line that comes into a unit's data L1 takes a way that is free or its own (R223). -/
def RoomInL1 (s : State) (u line : Nat) : Prop :=
  ((s.unit u).l1Set (line % 128)).length < 8 ∨ ∃ l ∈ (s.unit u).l1Set (line % 128), l.1 = line

/-- One message put under way, after write-backs of a unit. -/
def Sent (s t : State) (u : Nat) (m : Msg) : Prop :=
  ∃ ws n, t.wire = s.wire ++ ws ++ [(n, m)] ∧ ∀ w ∈ ws, ∃ c a h cs, w.2 = Msg.writeBack u c a h cs

/-- A context that may park at its own unit: no open message (R312), and a timer is free (R308). -/
def CanPark (s : State) (e : Env) : Prop :=
  e.book.owner = .l1 e.u ∧ e.line.openMsg = false ∧ e.book.timer = none ∧ s.timersUsed (timerPool e.u) < 65536

/-- What parking leaves (R22, R28, R308): the context WAITING with CTX.PC at its instruction, a timer where WLIMIT is not zero,
and its slot empty. -/
def Parked (s t : State) (e : Env) (w : Wait) : Prop :=
  (∃ b, t.ctx? e.va = some ⟨{ e.line with st := .waiting, wait := w }, b⟩ ∧ b.word = s.fetched.getD 0 ∧
    b.timer = if e.line.wlimit = 0 then none else some (e.u, s.issueCycle e.u + 64 * e.line.wlimit.toNat)) ∧
  (t.slot e.u e.slot).occ = none

/-- The context leaves its slot for another unit or another device: TRANSIT with the destination in its wait, after the unit's
write-backs (R195, R310). -/
def Departs (s t : State) (e : Env) (dev unit : Nat) (dest : Owner) : Prop :=
  (∃ b, t.ctx? e.va = some ⟨{ e.line with st := .transit, wait := .transit dev unit }, b⟩) ∧
  (t.slot e.u e.slot).occ = none ∧ Sent s t e.u (.comet e.va dev dest) ∧ OthersKept s t e.va ∧ SameMemory s t

/-- A load of a size into d, in either form, and the address that it names (R250, R252). -/
def LoadOf (s : State) (e : Env) (i : Instr) (d : Reg) (z : LdSize) (h : Hint) (va : Nat) : Prop :=
  (∃ g b disp, i = .ld g d b z h disp ∧ Turn s e g [d, b] true ∧
    (va : Int) = ((e.line.reg b).toNat + disp.toInt * z.bytes) % 2 ^ 56) ∨
  ∃ g a b, i = .ldx g d a b z h ∧ Turn s e g [d, a, b] true ∧
    va = ((e.line.reg a).toNat + (e.line.reg b).toNat * z.bytes) % 2 ^ 56

/-- A store of a size from d, in either form, and the address that it names (R250, R252). -/
def StoreOf (s : State) (e : Env) (i : Instr) (d : Reg) (z : StSize) (h : Hint) (va : Nat) : Prop :=
  (∃ g b disp, i = .st g d b z h disp ∧ Turn s e g [d, b] true ∧
    (va : Int) = ((e.line.reg b).toNat + disp.toInt * z.bytes) % 2 ^ 56) ∨
  ∃ g a b, i = .stx g d a b z h ∧ Turn s e g [d, a, b] true ∧
    va = ((e.line.reg a).toNat + (e.line.reg b).toNat * z.bytes) % 2 ^ 56

/-- The trap of an instruction at itself (R42). -/
def trapped (s : State) (e : Env) (cause : Byte) (fva : W64) : State :=
  s.raise (.slot e.u e.slot) e.va cause fva 0 (s.fetched.getD 0) true

end Sys2Proof.Safety
end

