-- ==== Sys2Proof/Certificates/Slice0/Obligations.lean ====
section
/-! DEFINITION. The statements about the model, for the provers.  Each docstring names the rules of spec/ that it rests on;
OBLIGATIONS.json lists them. -/

open Sys2Proof Sys2Proof.Machine Sys2Proof.Safety

/-! ## Encodings, steps, reset, memory -/

/-- R46 to R70: decoding and encoding are inverse: every well-formed instruction that has an encoding is read back from its word
with every operand, and every word that decodes is the one encoding of what it decodes to. -/
def Obligations.DecodingInvertsEncoding : Prop :=
  (∀ i : Instr, i.wellFormed = true → i.isEvent = false → ∃ w, encode i = some w ∧ decode w = some i) ∧
  ∀ (w : W32) (i : Instr), decode w = some i → encode i = some w ∧ i.wellFormed = true ∧ i.isEvent = false

/-- R46 to R62: words laid out from the encoding tables decode to the instructions that they stand for; a word of no table row,
zero among them, decodes to none. -/
def Obligations.WrittenWordsDecode : Prop :=
  let t := Guard.always
  decode 0x21F24000 = some (.add t 1 1 0) ∧ decode 0x25F67FFB = some (.addi t 3 1 (BitVec.ofInt 14 (-5))) ∧
  decode 0x66455003 = some (.st ⟨true, 4⟩ 2 5 .w ⟨0, false⟩ 3) ∧ decode 0x061FFFFA = some (.br ⟨true, 1⟩ (BitVec.ofInt 19 (-3))) ∧
  decode 0x81F28400 = some (.take t 1 2 .device) ∧ decode 0x09F00002 = some (.ret t) ∧
  decode 0x11F00001 = some (.rte t 0) ∧ decode 0 = none ∧ decode 0xFFFFFFFF = none

/-- R51, R293: where the turn in focus fetches a word that decodes to an instruction, the step is that instruction executed in the
state of its turn: the word fetched, the unit's cycle one on, the unit, slot and context of the turn named, and nothing else
of the machine changed but the order of a TLB and the marks of the step's own order (log 2).  The fetched word is spent after it.  A word
that decodes to no instruction traps with cause 0x01. -/
def Obligations.StepRunsDecodedInstruction : Prop :=
  ∀ (s : State) (u k va : Nat) (c : Ctx) (x : TlbEntry),
    s.agenda = [] → (s.wireTurn = false ∨ s.agentEvents = []) → s.focusUnit = u → s.faulted = false → s.unitUp u = true → (s.unit u).running = none →
    ((s.unit u).cycle % 16 = 0 → (s.unit u).boundaryDone = true ∧ (s.unit u).periodDone = true) →
    rotSlot (s.unit u).rot ((s.unit u).cycle % 16) = k → (s.unit u).level ≤ rev4 ((s.unit u).cycle % 16) →
    (s.slot u k).occ = some va → s.ctx? va = some c → c.line.st = .issuing → c.book.owner = .l1 u → c.book.ranOn = some u →
    c.line.openMsg = false → c.book.traps = [] → c.line.stepOn = false →
    (s.tenant c.line.tenant).bk.any (fun b => b.2 && b.1 == c.line.pc) = false →
    s.xlate u c.line.tenant c.line.pc.toNat accExec = .ok x → Intact s (x.addr c.line.pc.toNat) x.kslot →
    (32 ≤ (s.lines.filter (fun l => l.2.book.owner == .l1 u && l.2.line.st == .ready)).length ∨ s.fifoHead u none = none) →
    let w : W32 := BitVec.ofNat 32 (ofBytes (Memory.readN s.mem (x.addr c.line.pc.toNat) 4))
    let turnOf (s1 : State) : Prop := s1.env? = some ⟨u, k, va, c.line, c.book⟩ ∧ s1.fetched = some w ∧
      { s1 with
        units := s.units, turnUnit := s.turnUnit, turnSlot := s.turnSlot, fetched := s.fetched, focus := s.focus,
        wireTurn := s.wireTurn } = s ∧
      (∀ v, v ≠ u → s1.unit v = s.unit v) ∧
      s1.unit u = { s.unit u with
        cycle := (s.unit u).cycle + 1, boundaryDone := false, periodDone := false, tlb := (s1.unit u).tlb }
    (∀ i, decode w = some i →
      ∃ s1 t, turnOf s1 ∧ exec i s1 = .next t ∧ step s = .next { t with fetched := none }) ∧
    (decode w = none → ∃ s1, turnOf s1 ∧
      step s = .next { trapped s1 ⟨u, k, va, c.line, c.book⟩ 0x01 0 with fetched := none, focus := u + 1 })

/-- R11, R292, R379, R423, R424: what a start leaves.  The values that log 7 and log 8 name are the model's. -/
def Obligations.ResetState : Prop :=
  let s := State.reset
  MemoryOk s ∧ NothingFetched s ∧ s.lines = [] ∧ s.wire = [] ∧ s.cmds = [] ∧ s.tileOps = [] ∧ s.keys = [] ∧ s.quarantine = [] ∧
  s.linkUp = true ∧ s.faulted = false ∧
  (∀ a, Memory.read s.mem a = 0) ∧ (∀ a, s.isFull a = true) ∧
  (∀ u, (s.unit u).rot = 0xFEDCBA9876543210 ∧ (s.unit u).mrot = 0xFEDCBA9876543210 ∧ (s.unit u).mrotv = 0xFFFF ∧
    (s.unit u).level = 0 ∧ (s.unit u).tlb = [] ∧ (s.unit u).dl1 = [] ∧ (s.unit u).accOwn = 0 ∧ (s.unit u).alog.log2n = 8 ∧
    (s.unit u).slots.length = 16) ∧
  (∀ q, s.queue q = ⟨0, 0, 1⟩) ∧ (∀ t, (s.tenant t).vecEn = false ∧ (s.tenant t).qset = 0 ∧ (s.tenant t).arena = none) ∧
  (∀ u, s.unitUp u = decide (u < 1632))

/-- R189, R293: two forms that every step keeps from every state: memory and the scratchpads stay in their one canonical form,
and no fetched word outlives its step. -/
def Obligations.StepKeepsForms : Prop :=
  ∀ s t : State, step s = .next t → (MemoryOk s → MemoryOk t) ∧ NothingFetched t

/-- R189, R364: a store to a block that passes its check is read back, changes no byte outside it, and keeps the memory's form; one
to a block that fails leaves memory as it was. -/
def Obligations.MemoryReadAfterWrite : Prop :=
  ∀ (s : State) (pa kslot : Nat) (bs : List Byte),
    (Intact s pa kslot → (s.storeBlock kslot (cellsAt pa bs)).2 = none ∧
      StoredAt s (s.storeBlock kslot (cellsAt pa bs)).1 pa bs) ∧
    ((s.storeBlock kslot (cellsAt pa bs)).2 ≠ none → (s.storeBlock kslot (cellsAt pa bs)).1.mem = s.mem) ∧
    (Memory.wf s.mem = true → Memory.wf (s.storeBlock kslot (cellsAt pa bs)).1.mem = true) ∧
    ∀ a, StoredAt s (s.padWrite a bs) 0 [] ∧
      (∀ k, k < bs.length → some (Memory.read (s.padWrite a bs).scratch (a + k)) = bs[k]?) ∧
      ∀ p, p < a ∨ a + bs.length ≤ p → Memory.read (s.padWrite a bs).scratch p = Memory.read s.scratch p

/-- R28, R50, R51, R66, R376, R378: the turns on which an instruction has no effect of its own.  A false guard only moves CTX.PC on,
for a privileged context and for every instruction that needs no privilege; a privileged instruction of an unprivileged context
traps with cause 0x02 whatever its guard; a pending register wastes the turn, and the fourth such turn parks the context with
wait kind 5 and the pending bits that blocked it.  That a steal's pair is kept out here is the model's choice of its mask, log 86. -/
def Obligations.TurnsWithoutEffect : Prop :=
  ∀ (s : State) (e : Env), s.env? = some e →
    let reads : List Nat := [0x010, 0x011, 0x012, 0x013, 0x041, 0x048, 0x060, 0x080, 0x081, 0x082, 0x083, 0x0C0, 0x0C1, 0x0C2, 0x0C3,
      0x0C4, 0x0C5, 0x0E0, 0x0E2]
    let writes : List Nat := [0x003, 0x010, 0x011, 0x012, 0x013, 0x040, 0x041, 0x042, 0x043, 0x044, 0x045, 0x046, 0x047, 0x048, 0x080,
      0x081, 0x082, 0x083, 0x0C0, 0x0C1, 0x0C2, 0x0C3, 0x0C4, 0x0E0, 0x0E1]
    let privileged (i : Instr) : Prop :=
      (∃ g d a b, i ∈ [Instr.tlbW g d a b, .tlbI g d a b, .keyLd g d a b, .keyClr g d a, .slotSet g d a b, .qwtSet g a b,
        .arenaSet g d a b, .accOwnSet g a]) ∨
      ∃ g d n, (i = .csrr g d n ∧ n.toNat ∈ reads) ∨ (i = .csrw g d n ∧ n.toNat ∈ writes)
    (∀ i w, encode i = some w → i ≠ .nop → (e.line.priv = true ∨ ¬ privileged i) → e.line.guard (wGuard w) = false →
      exec i s = .next (retired s e e.line.advance)) ∧
    (∀ g d a b, e.line.priv = false → ∀ i ∈ [Instr.tlbW g d a b, .tlbI g d a b, .keyLd g d a b, .keyClr g d a, .slotSet g d a b,
        .qwtSet g a b, .arenaSet g d a b, .accOwnSet g a, .mieQclr g a, .dqCfgPrivWrite g a],
      exec i s = .next (trapped s e 0x02 0)) ∧
    (∀ g d (n : BitVec 9), e.line.priv = false →
      (n.toNat ∈ reads → exec (.csrr g d n) s = .next (trapped s e 0x02 0)) ∧
      (n.toNat ∈ writes → exec (.csrw g d n) s = .next (trapped s e 0x02 0))) ∧
    (∀ g d a b, e.line.guard g = true → e.line.pending b = true → e.line.pending d = false → e.line.pending a = false →
      ∀ i ∈ [Instr.add g d a b, .sub g d b a, .and g b d a],
      (e.book.wasted < 3 → exec i s = .next (s.setCtx e.va ⟨e.line, { e.book with wasted := e.book.wasted + 1 }⟩)) ∧
      (e.book.wasted = 3 → CanPark s e → (∀ m ∈ s.wire, m.2.pair e.va = 0) → ∃ t, exec i s = .next t ∧
        Parked s t e (.regs (1#8 <<< b.toNat)) ∧ OthersKept s t e.va ∧ SameMemory s t ∧ t.wire = s.wire))

/-! ## Register instructions (06_scalar_isa) -/

/-- R111, R112, R115 to R118: every integer instruction writes gd with the result of its table row and moves on; nothing else changes.
PCMP writes its predicate with the relation of its table row, and FCMP one predicate and no flag but NV. -/
def Obligations.IntegerResults : Prop :=
  (∀ (s : State) (e : Env) (g : Guard) (d a b : Reg), Turn s e g [d, a, b] true →
     let x := e.line.reg a
     let y := e.line.reg b
     let n := y.toNat % 64
     let out : W64 → Out := fun v => .next (retired s e (e.line.setReg d v).advance)
     exec (.add g d a b) s = out (BitVec.ofNat 64 (x.toNat + y.toNat)) ∧
     exec (.sub g d a b) s = out (BitVec.ofInt 64 (x.toNat - y.toNat)) ∧
     exec (.and g d a b) s = out (x &&& y) ∧
     exec (.or g d a b) s = out (x ||| y) ∧
     exec (.xor g d a b) s = out (x ^^^ y) ∧
     exec (.andn g d a b) s = out (x &&& ~~~y) ∧
     exec (.shl g d a b) s = out (BitVec.ofNat 64 (x.toNat * 2 ^ n)) ∧
     exec (.shrl g d a b) s = out (BitVec.ofNat 64 (x.toNat / 2 ^ n)) ∧
     exec (.shra g d a b) s = out (BitVec.ofInt 64 (x.toInt / 2 ^ n)) ∧
     exec (.rotl g d a b) s = out (x <<< n ||| x >>> (64 - n)) ∧
     exec (.min g d a b) s = out (BitVec.ofNat 64 (min x.toNat y.toNat)) ∧
     exec (.mins g d a b) s = out (BitVec.ofInt 64 (min x.toInt y.toInt)) ∧
     exec (.max g d a b) s = out (BitVec.ofNat 64 (max x.toNat y.toNat)) ∧
     exec (.maxs g d a b) s = out (BitVec.ofInt 64 (max x.toInt y.toInt)) ∧
     (∀ sc, exec (.lea g d a b sc) s = out (BitVec.ofNat 64 (x.toNat + y.toNat * 2 ^ sc.toNat))) ∧
     (∀ p, exec (.sel g d a b p) s = out (if e.line.p p then x else y))) ∧
  (∀ (s : State) (e : Env) (g : Guard) (d a : Reg),
     let x := e.line.reg a
     let out : W64 → Out := fun v => .next (retired s e (e.line.setReg d v).advance)
     (Turn s e g [d, a] true →
       (∀ i, exec (.addi g d a i) s = out (BitVec.ofInt 64 (x.toInt + i.toInt))) ∧
       (∀ i, exec (.andi g d a i) s = out (x &&& BitVec.ofInt 64 i.toInt)) ∧
       (∀ i, exec (.ori g d a i) s = out (x ||| BitVec.ofInt 64 i.toInt)) ∧
       (∀ i, exec (.xori g d a i) s = out (x ^^^ BitVec.ofInt 64 i.toInt)) ∧
       (∀ n, exec (.shli g d a n) s = out (BitVec.ofNat 64 (x.toNat * 2 ^ n.toNat))) ∧
       (∀ n, exec (.shrli g d a n) s = out (BitVec.ofNat 64 (x.toNat / 2 ^ n.toNat))) ∧
       (∀ n, exec (.shrai g d a n) s = out (BitVec.ofInt 64 (x.toInt / 2 ^ n.toNat))) ∧
       (∀ n, exec (.rotli g d a n) s = out (x <<< n.toNat ||| x >>> (64 - n.toNat)))) ∧
     (Turn s e g [d] true →
       (∀ i, exec (.lil g d i) s = out (BitVec.ofInt 64 i.toInt)) ∧
       (∀ i, exec (.lih g d i) s = out (BitVec.ofNat 64 ((e.line.reg d).toNat * 2 ^ 17 + i.toNat))))) ∧
  (∀ (s : State) (e : Env) (g : Guard) (pd : Pred) (a b : Reg),
     let x := e.line.reg a
     let y := e.line.reg b
     let out (v : Bool) : Out := .next (retired s e (e.line.setP pd v).advance)
     (Turn s e g [a, b] true →
       exec (.pcmp g pd a b .eq) s = out (decide (x = y)) ∧
       exec (.pcmp g pd a b .ne) s = out (decide (x ≠ y)) ∧
       exec (.pcmp g pd a b .lt) s = out (decide (x.toInt < y.toInt)) ∧
       exec (.pcmp g pd a b .le) s = out (decide (x.toInt ≤ y.toInt)) ∧
       exec (.pcmp g pd a b .b) s = out (decide (x.toNat < y.toNat)) ∧
       exec (.pcmp g pd a b .be) s = out (decide (x.toNat ≤ y.toNat)) ∧
       ∀ f r, ∃ v nv, exec (.fcmp g pd a b f r) s =
         .next (retired s e ((e.line.setP pd v).addFlags ⟨nv, false, false, false, false⟩).advance)) ∧
     (Turn s e g [a] true →
       exec (.pcmp g pd a b .ltz) s = out (decide (x.toInt < 0)) ∧
       exec (.pcmp g pd a b .lez) s = out (decide (x.toInt ≤ 0))))

/-- R119: multiplication, and division by a divisor that is not zero. -/
def Obligations.MultiplyDivideResults : Prop :=
  ∀ (s : State) (e : Env) (g : Guard) (d a b : Reg), Turn s e g [d, a, b] true →
    let x := e.line.reg a
    let y := e.line.reg b
    let out : W64 → Out := fun v => .next (retired s e (e.line.setReg d v).advance)
    exec (.mul g d a b) s = out (BitVec.ofNat 64 (x.toNat * y.toNat)) ∧
    exec (.mulh g d a b) s = out (BitVec.ofNat 64 (x.toNat * y.toNat / 2 ^ 64)) ∧
    exec (.mulhs g d a b) s = out (BitVec.ofInt 64 (x.toInt * y.toInt / 2 ^ 64)) ∧
    (y ≠ 0 →
      exec (.div g d a b) s = out (BitVec.ofNat 64 (x.toNat / y.toNat)) ∧
      exec (.rem g d a b) s = out (BitVec.ofNat 64 (x.toNat % y.toNat)) ∧
      exec (.divs g d a b) s = out (BitVec.ofInt 64 (x.toInt.tdiv y.toInt)) ∧
      exec (.rems g d a b) s = out (BitVec.ofInt 64 (x.toInt.tmod y.toInt)))

/-- R120: a zero divisor traps with cause 0x11 and a faulting VA of zero, before any register is written; the most negative
number by minus one does not trap and gives itself, with remainder zero. -/
def Obligations.DivideCorners : Prop :=
  ∀ (s : State) (e : Env) (g : Guard) (d a b : Reg), Turn s e g [d, a, b] true →
    let y := e.line.reg b
    let trap : Out := .next (s.raise (.slot e.u e.slot) e.va 0x11 0 0 (s.fetched.getD 0) true)
    let out : W64 → Out := fun v => .next (retired s e (e.line.setReg d v).advance)
    (y = 0 → exec (.div g d a b) s = trap ∧ exec (.divs g d a b) s = trap ∧ exec (.rem g d a b) s = trap ∧
      exec (.rems g d a b) s = trap) ∧
    (e.line.reg a = 0x8000000000000000 ∧ y = 0xFFFFFFFFFFFFFFFF →
      exec (.divs g d a b) s = out 0x8000000000000000 ∧ exec (.rems g d a b) s = out 0)

/-- R121, R122: counts of bits, the byte swap, and bit fields, bit by bit, with their encodings. -/
def Obligations.BitFieldResults : Prop :=
  (∀ (s : State) (e : Env) (g : Guard) (d a : Reg),
    let x := e.line.reg a
    let out : W64 → Out := fun v => .next (retired s e (e.line.setReg d v).advance)
    (Turn s e g [d, a] true →
      (∃ n, exec (.clz g d a) s = out (BitVec.ofNat 64 n) ∧ n ≤ 64 ∧ (∀ i, 64 - n ≤ i → x.getLsbD i = false) ∧
        (n < 64 → x.getLsbD (63 - n) = true)) ∧
      (∃ n, exec (.ctz g d a) s = out (BitVec.ofNat 64 n) ∧ n ≤ 64 ∧ (∀ i, i < n → x.getLsbD i = false) ∧
        (n < 64 → x.getLsbD n = true)) ∧
      exec (.popc g d a) s = out (BitVec.ofNat 64 ((List.range 64).filter (fun i => x.getLsbD i)).length) ∧
      (∃ v, exec (.bswap g d a) s = out v ∧ ∀ k, k < 8 → lane v 8 k = lane x 8 (7 - k))) ∧
    (∀ b, Turn s e g [d, a, b] true →
      let f := e.line.reg b
      let pos := (f.toNat / 2 ^ 8) % 2 ^ 6
      let len := min (f.toNat % 2 ^ 7) 64
      (∃ v, exec (.bext g d a b) s = out v ∧
        ∀ i, i < 64 → v.getLsbD i = (decide (i < len) && x.getLsbD (pos + i))) ∧
      (∃ v, exec (.bins g d a b) s = out v ∧
        ∀ i, i < 64 → v.getLsbD i =
          if pos ≤ i ∧ i < pos + len then x.getLsbD (i - pos) else (e.line.reg d).getLsbD i))) ∧
  ∀ (g : Guard) (d a b : Reg),
    let word (f : BitVec 11) : Option Instr := decode (0x0F#6 ++ g.bits ++ d ++ a ++ b ++ f)
    (b = 0 → word 0 = some (.clz g d a) ∧ word 1 = some (.ctz g d a) ∧ word 2 = some (.popc g d a) ∧
      word 3 = some (.bswap g d a)) ∧
    (b ≠ 0 → ∀ f ∈ [0#11, 1, 2, 3], word f = none) ∧
    word 4 = some (.bext g d a b) ∧ word 5 = some (.bins g d a b)

/-- R108, R109: branches, calls and jumps; a jump to a misaligned target traps with cause 0x03 and writes nothing. -/
def Obligations.ControlTransferResults : Prop :=
  ∀ (s : State) (e : Env) (g : Guard),
    let l := e.line
    let link : W64 := BitVec.ofNat 64 ((l.pc.toNat + 4) % 2 ^ 56)
    let target (off : BitVec 19) : VAddr := BitVec.ofInt 56 (l.pc.toNat + 4 * off.toInt)
    let trap (t : W64) : Out :=
      .next (s.raise (.slot e.u e.slot) e.va 0x03 (BitVec.ofNat 64 (t.toNat % 2 ^ 56)) 0 (s.fetched.getD 0) true)
    (∀ off, Turn s e g [] true → exec (.br g off) s = .next (retired s e { l with pc := target off })) ∧
    (∀ off, Turn s e g [7] true →
      exec (.call g off) s = .next (retired s e { l.setReg 7 link with pc := target off })) ∧
    (∀ a, Turn s e g [a] true →
      (l.reg a).toNat % 4 = 0 → exec (.jmp g a) s = .next (retired s e { l with pc := (l.reg a).setWidth 56 })) ∧
    (∀ a, Turn s e g [a] true → (l.reg a).toNat % 4 ≠ 0 → exec (.jmp g a) s = trap (l.reg a)) ∧
    (∀ a, Turn s e g [a, 7] true → (l.reg a).toNat % 4 = 0 →
      exec (.callr g a) s = .next (retired s e { l.setReg 7 link with pc := (l.reg a).setWidth 56 })) ∧
    (∀ a, Turn s e g [a, 7] true → (l.reg a).toNat % 4 ≠ 0 → exec (.callr g a) s = trap (l.reg a)) ∧
    (Turn s e g [7] true → (l.reg 7).toNat % 4 = 0 →
      exec (.ret g) s = .next (retired s e { l with pc := (l.reg 7).setWidth 56 })) ∧
    (Turn s e g [7] true → (l.reg 7).toNat % 4 ≠ 0 → exec (.ret g) s = trap (l.reg 7))

/-- R57: a word of major 0x05 is a hint whatever its guard and body, NOP the one with body 0 and no guard; a hint moves CTX.PC on and
does nothing else, whatever its guard and whatever is pending. -/
def Obligations.HintsDoNothing : Prop :=
  (∀ (g : Guard) (body : BitVec 20), decode (0x05#6 ++ g.bits ++ body) =
    some (if g = Guard.always ∧ body = 0 then .nop else .hint g body)) ∧
  decode 0x15F00000 = some .nop ∧
  ∀ (s : State) (e : Env), s.env? = some e →
    exec .nop s = .next (retired s e { e.line with pc := e.line.pc + 4 }) ∧
    ∀ g body, exec (.hint g body) s = .next (retired s e { e.line with pc := e.line.pc + 4 })

/-- R111, R112: comparisons of general registers and of float lanes, the relations by value, and NV as the one flag. -/
def Obligations.PredicateResults : Prop :=
  (∀ (s : State) (e : Env) (g : Guard) (pd : Pred),
     let l := e.line
     let out : Bool → Out := fun v => .next (retired s e (l.setP pd v).advance)
     (∀ a b, Turn s e g [a, b] true →
       exec (.pcmp g pd a b .eq) s = out (decide (l.reg a = l.reg b)) ∧
       exec (.pcmp g pd a b .ne) s = out (decide (l.reg a ≠ l.reg b)) ∧
       exec (.pcmp g pd a b .lt) s = out (decide ((l.reg a).toInt < (l.reg b).toInt)) ∧
       exec (.pcmp g pd a b .le) s = out (decide ((l.reg a).toInt ≤ (l.reg b).toInt)) ∧
       exec (.pcmp g pd a b .b) s = out (decide ((l.reg a).toNat < (l.reg b).toNat)) ∧
       exec (.pcmp g pd a b .be) s = out (decide ((l.reg a).toNat ≤ (l.reg b).toNat)) ∧
       (∀ f r, exec (.fcmp g pd a b f r) s =
         .next (retired s e ((l.setP pd (f.format.compare r (lane (l.reg a) f.width 0) (lane (l.reg b) f.width 0)).1).addFlags
           (f.format.compare r (lane (l.reg a) f.width 0) (lane (l.reg b) f.width 0)).2).advance))) ∧
     (∀ a b, Turn s e g [a] true →
       exec (.pcmp g pd a b .ltz) s = out (decide ((l.reg a).toInt < 0)) ∧
       exec (.pcmp g pd a b .lez) s = out (decide ((l.reg a).toInt ≤ 0))) ∧
     (∀ v q, (l.setP pd v).p q = if q = 31 then true else if q = pd then v else l.p q)) ∧
  (∀ (f : FFmt) (r : FRel) (p q : Nat),
     let x := f.format.unpack p
     let y := f.format.unpack q
     let c := f.format.compare r p q
     c.2 = ⟨c.2.nv, false, false, false, false⟩ ∧
     (x.isNan ∨ y.isNan → c.1 = (r == .un)) ∧
     (x = .nan true ∨ y = .nan true → c.2.nv = true) ∧
     ((x.isNan ∨ y.isNan) → (r = .lt ∨ r = .le) → c.2.nv = true) ∧
     (x.isNan = false → y.isNan = false → c.2.nv = false) ∧
     (x ≠ .nan true → y ≠ .nan true → (r = .eq ∨ r = .un) → c.2.nv = false) ∧
     (∀ m n : Bool, ∀ i j : Int, x = .fin m 0 i → y = .fin n 0 j → c.1 = (r == .eq || r == .le)) ∧
     (∀ (m n : Bool) (i j : Nat) (d e : Int), x = .fin m i d → y = .fin n j e →
       let vx : Int := (if m then -1 else 1) * i * 2 ^ (d - min d e).toNat
       let vy : Int := (if n then -1 else 1) * j * 2 ^ (e - min d e).toNat
       c.1 = match r with
         | .eq => decide (vx = vy)
         | .lt => decide (vx < vy)
         | .le => decide (vx ≤ vy)
         | .un => false) ∧
     (∀ (m n : Bool) (j : Nat) (e : Int), x = .inf m → y = .fin n j e → c.1 = ((r == .lt || r == .le) && m)) ∧
     (∀ (m n : Bool) (i : Nat) (d : Int), x = .fin m i d → y = .inf n → c.1 = ((r == .lt || r == .le) && !n)) ∧
     (∀ m n : Bool, x = .inf m → y = .inf n →
       c.1 = (((r == .eq || r == .le) && m == n) || ((r == .lt || r == .le) && m && !n))))

/-- R113, R114: predicate logic writes pd with its result, the operands read before; PGET and PSET move the whole predicate word, in
which p31 stays 1.  Each form is the one encoding that its rule lays out, and a word of that layout with a field set that must be
zero is no instruction. -/
def Obligations.PredicateLogic : Prop :=
  ∀ (s : State) (e : Env) (g : Guard),
    let l := e.line
    (∀ pd qa qb, Turn s e g [] true →
      let out : Bool → Out := fun v => .next (retired s e (l.setP pd v).advance)
      exec (.pand g pd qa qb) s = out (l.p qa && l.p qb) ∧
      exec (.por g pd qa qb) s = out (l.p qa || l.p qb) ∧
      exec (.pxor g pd qa qb) s = out (l.p qa != l.p qb) ∧
      exec (.pnot g pd qa) s = out (!(l.p qa)) ∧
      exec (.pmov g pd qa) s = out (l.p qa)) ∧
    (∀ pd v q, (l.setP pd v).p q = if q = 31 then true else if q = pd then v else l.p q) ∧
    (∀ r, Turn s e g [r] true →
      exec (.pget g r) s = .next (retired s e (l.setReg r (BitVec.ofNat 64 (l.pred ||| 0x80000000).toNat)).advance) ∧
      exec (.pset g r) s =
        .next (retired s e { l with pred := BitVec.ofNat 32 ((l.reg r).toNat % 2 ^ 31 + 2 ^ 31) }.advance)) ∧
    (∀ (pd qa qb : Pred) (x : BitVec 1),
      let word (qb : Pred) (f : BitVec 4) : Option Instr := decode (0x03#6 ++ g.bits ++ pd ++ qa ++ x ++ qb ++ f)
      (x = 0 → word qb 2 = some (.pand g pd qa qb) ∧ word qb 3 = some (.por g pd qa qb) ∧ word qb 4 = some (.pxor g pd qa qb) ∧
        word 0 5 = some (.pnot g pd qa) ∧ word 0 6 = some (.pmov g pd qa)) ∧
      (x = 1 → ∀ f ∈ [2#4, 3, 4, 5, 6], word qb f = none) ∧ (qb ≠ 0 → word qb 5 = none ∧ word qb 6 = none)) ∧
    (∀ (z : BitVec 5) (r : Reg) (y : BitVec 8),
      let word (f : BitVec 4) : Option Instr := decode (0x03#6 ++ g.bits ++ z ++ r ++ y ++ f)
      (z = 0 → y = 0 → word 7 = some (.pget g r) ∧ word 8 = some (.pset g r)) ∧
      (z ≠ 0 ∨ y ≠ 0 → word 7 = none ∧ word 8 = none))

/-- R84, R91, R129, R131: an arithmetic operation on a NaN gives the canonical NaN, a fused multiply-add and a conversion between float formats included, with NV
where an operand is signalling, and for a fused multiply-add where zero meets an infinity; FMIN and FMAX of one NaN give the other
operand; rounding to nearest even and towards zero. -/
def Obligations.FloatValueRules : Prop :=
  (∀ (f : FFmt) (m : Round) (k : Bool) (y : FV),
     let n : FV := .nan k
     let sig (v : FV) : Bool := v == .nan true
     let q := f.format.qnan
     f.format.addV m n y = (q, Flags.invalid (k || sig y)) ∧ f.format.addV m y n = (q, Flags.invalid (k || sig y)) ∧
     f.format.mulV m n y = (q, Flags.invalid (k || sig y)) ∧ f.format.mulV m y n = (q, Flags.invalid (k || sig y)) ∧
     f.format.divV m n y = (q, Flags.invalid (k || sig y)) ∧ f.format.divV m y n = (q, Flags.invalid (k || sig y)) ∧
     f.format.sqrtV m n = (q, Flags.invalid k) ∧ f.format.exp2V m n = (q, Flags.invalid k) ∧
     f.format.log2V m n = (q, Flags.invalid k) ∧ f.format.convert m n = (q, Flags.invalid k) ∧
     (∀ z, f.format.fmaV m n y z = (q, Flags.invalid (k || sig y || sig z)) ∧
       f.format.fmaV m y n z = (q, Flags.invalid (sig y || k || sig z)) ∧
       (f.format.fmaV m y z n).1 = q ∧
       ((f.format.fmaV m y z n).2.nv = true ↔
         k = true ∨ sig y = true ∨ sig z = true ∨
           (∃ s t e, y = .inf s ∧ z = .fin t 0 e) ∨ ∃ s t e, y = .fin s 0 e ∧ z = .inf t))) ∧
  (∀ (f : FFmt) (mx : Bool) (p q : Nat),
     let x := f.format.unpack p
     let y := f.format.unpack q
     let r := f.format.minMax mx p q
     r.2 = Flags.invalid (x == .nan true || y == .nan true) ∧
     (x.isNan = true → y.isNan = true → r.1 = f.format.qnan) ∧ (x.isNan = true → y.isNan = false → r.1 = q) ∧
     (x.isNan = false → y.isNan = true → r.1 = p)) ∧
  (∀ (neg : Bool) (q : Nat) (e lsb : Int), e < lsb →
     let p := 2 ^ (lsb - e).toNat
     let r := roundAt .rne neg q e false lsb
     let z := roundAt .rtz neg q e false lsb
     (r.2 = true ↔ q % p ≠ 0) ∧ (q % p = 0 → r.1 * p = q) ∧
     2 * (r.1 * p) ≤ 2 * q + p ∧ 2 * q ≤ 2 * (r.1 * p) + p ∧ (2 * (q % p) = p → r.1 % 2 = 0) ∧
     z.1 = q / p ∧ z.2 = r.2)

/-- R124 to R133, R136 to R138: lane operations, dot products, sums of lanes, and the permutes.  A lane operation on floats and a CVT
write gd, add flags, move on and change nothing else. -/
def Obligations.ShortVectorResults : Prop :=
  (∀ (s : State) (e : Env) (g : Guard) (d a b : Reg) (h : Shape), Turn s e g [d, a, b] true →
     let w := h.width
     let x (i : Nat) : Int := lane (e.line.reg a) w i
     let y (i : Nat) : Int := lane (e.line.reg b) w i
     let sx (i : Nat) : Int := slane (e.line.reg a) w i
     let sy (i : Nat) : Int := slane (e.line.reg b) w i
     let top : Int := 2 ^ (w - 1)
     let out (r : Out) (f : Nat → Int) : Prop :=
       ∃ v, r = .next (retired s e (e.line.setReg d v).advance) ∧ ∀ i, i < h.lanes → (lane v w i : Int) = f i % 2 ^ w
     out (exec (.vadd g d a b h) s) (fun i => x i + y i) ∧
     out (exec (.vsub g d a b h) s) (fun i => x i - y i) ∧
     out (exec (.vmul g d a b h) s) (fun i => x i * y i) ∧
     out (exec (.vmin g d a b false h) s) (fun i => min (x i) (y i)) ∧
     out (exec (.vmax g d a b false h) s) (fun i => max (x i) (y i)) ∧
     out (exec (.vmin g d a b true h) s) (fun i => min (sx i) (sy i)) ∧
     out (exec (.vmax g d a b true h) s) (fun i => max (sx i) (sy i)) ∧
     out (exec (.vadds g d a b false h) s) (fun i => min (x i + y i) (2 ^ w - 1)) ∧
     out (exec (.vsubs g d a b false h) s) (fun i => max (x i - y i) 0) ∧
     out (exec (.vadds g d a b true h) s) (fun i => max (-top) (min (sx i + sy i) (top - 1))) ∧
     out (exec (.vsubs g d a b true h) s) (fun i => max (-top) (min (sx i - sy i) (top - 1)))) ∧
  (∀ (s : State) (e : Env) (g : Guard) (d a : Reg),
     let out (r : Out) (f : W64 → Prop) : Prop := ∃ v, r = .next (retired s e (e.line.setReg d v).advance) ∧ f v
     let x := e.line.reg a
     (∀ b, Turn s e g [d, a, b] true →
       let y := e.line.reg b
       (∀ sg, out (exec (.vdot g d a b sg) s) (fun v => ∀ j, j < 2 →
         (lane v 32 j : Int) =
           ((List.range 4).map (fun i => laneInt x 8 (4 * j + i) sg * laneInt y 8 (4 * j + i) sg)).sum % 2 ^ 32)) ∧
       (∀ h, out (exec (.vshuf g d a b h) s) (fun v => ∀ i, i < h.lanes →
         lane v h.width i = if lane y 8 i < h.lanes then lane x h.width (lane y 8 i) else 0)) ∧
       (∀ h, out (exec (.vpack g d a b h) s) (fun v => ∀ i, i < h.lanes →
         lane v (h.width / 2) i = lane x h.width i % 2 ^ (h.width / 2) ∧
         lane v (h.width / 2) (h.lanes + i) = lane y h.width i % 2 ^ (h.width / 2)))) ∧
     (Turn s e g [d, a] true →
       (∀ sg h, out (exec (.vred g d a sg h) s) (fun v =>
         v.toInt = ((List.range h.lanes).map (fun i => laneInt x h.width i sg)).sum)) ∧
       (∀ h, out (exec (.vbcast g d a h) s) (fun v => ∀ i, i < h.lanes → lane v h.width i = lane x h.width 0)))) ∧
  (∀ (s : State) (e : Env) (g : Guard) (d a : Reg),
     let completes (i : Instr) : Prop :=
       ∃ v fl, exec i s = .next (retired s e ((e.line.setReg d v).addFlags fl).advance)
     (∀ b f, Turn s e g [d, a, b] true → ∀ i ∈ [Instr.fadd g d a b f, .fsub g d a b f, .fmul g d a b f, .fmin g d a b f,
       .fmax g d a b f, .fdiv g d a b f, .ffma g d a b f], completes i) ∧
     (∀ f, Turn s e g [d, a] true → ∀ i ∈ [Instr.fabs g d a f, .fneg g d a f, .fsqrt g d a f, .frcp g d a f, .fexp2 g d a f,
       .flog2 g d a f], completes i) ∧
     (∀ dst src, Turn s e g [d, a] true → completes (.cvt g d a dst src)))

/-- R127 to R133: a float instruction writes each lane of gd with the lane operation rounded by the context's mode, and adds the
flags of every lane; CVT converts as many lanes as its wider format has. -/
def Obligations.FloatLaneResults : Prop :=
  (∀ (s : State) (e : Env) (g : Guard) (d a : Reg) (f : FFmt),
     let l := e.line
     let m := l.round
     let x (i : Nat) : FV := f.format.unpack (lane (l.reg a) f.width i)
     let out (r : Out) (op : Nat → Nat × Flags) : Prop :=
       ∃ v fl, r = .next (retired s e ((l.setReg d v).addFlags fl).advance) ∧
         (∀ i, i < 64 / f.width → lane v f.width i = (op i).1 % 2 ^ f.width) ∧
         (fl.nv = (List.range (64 / f.width)).any (fun i => (op i).2.nv)) ∧
         (fl.dz = (List.range (64 / f.width)).any (fun i => (op i).2.dz)) ∧
         (fl.of = (List.range (64 / f.width)).any (fun i => (op i).2.of)) ∧
         (fl.uf = (List.range (64 / f.width)).any (fun i => (op i).2.uf)) ∧
         (fl.nx = (List.range (64 / f.width)).any (fun i => (op i).2.nx))
     (∀ b, Turn s e g [d, a, b] true →
       let y (i : Nat) : FV := f.format.unpack (lane (l.reg b) f.width i)
       out (exec (.fadd g d a b f) s) (fun i => f.format.addV m (x i) (y i)) ∧
       out (exec (.fsub g d a b f) s) (fun i => f.format.addV m (x i) (y i).neg) ∧
       out (exec (.fmul g d a b f) s) (fun i => f.format.mulV m (x i) (y i)) ∧
       out (exec (.fdiv g d a b f) s) (fun i => f.format.divV m (x i) (y i)) ∧
       out (exec (.fmin g d a b f) s)
         (fun i => f.format.minMax false (lane (l.reg a) f.width i) (lane (l.reg b) f.width i)) ∧
       out (exec (.fmax g d a b f) s)
         (fun i => f.format.minMax true (lane (l.reg a) f.width i) (lane (l.reg b) f.width i)) ∧
       out (exec (.ffma g d a b f) s)
         (fun i => f.format.fmaV m (x i) (y i) (f.format.unpack (lane (l.reg d) f.width i)))) ∧
     (Turn s e g [d, a] true →
       out (exec (.fabs g d a f) s) (fun i => withSign f.format (lane (l.reg a) f.width i) false) ∧
       out (exec (.fneg g d a f) s) (fun i => withSign f.format (lane (l.reg a) f.width i) (!(x i).sign)) ∧
       out (exec (.fsqrt g d a f) s) (fun i => f.format.sqrtV m (x i)) ∧
       out (exec (.frcp g d a f) s) (fun i => f.format.divV m (.fin false 1 0) (x i)) ∧
       out (exec (.fexp2 g d a f) s) (fun i => f.format.exp2V m (x i)) ∧
       out (exec (.flog2 g d a f) s) (fun i => f.format.log2V m (x i)))) ∧
  (∀ (s : State) (e : Env) (g : Guard) (d a : Reg) (dst src : CFmt), Turn s e g [d, a] true →
     let n := 64 / max dst.width src.width
     let op (i : Nat) := cvtLane e.line.round dst src (lane (e.line.reg a) src.width i)
     ∃ v fl, exec (.cvt g d a dst src) s = .next (retired s e ((e.line.setReg d v).addFlags fl).advance) ∧
       (∀ i, i < n → lane v dst.width i = (op i).1 % 2 ^ dst.width) ∧ v.toNat < 2 ^ (dst.width * n) ∧
       (fl.nv = (List.range n).any (fun i => (op i).2.nv)) ∧ (fl.dz = (List.range n).any (fun i => (op i).2.dz)) ∧
       (fl.of = (List.range n).any (fun i => (op i).2.of)) ∧ (fl.uf = (List.range n).any (fun i => (op i).2.uf)) ∧
       (fl.nx = (List.range n).any (fun i => (op i).2.nx)) ∧
       (dst.float = none → src.float = none → fl = ⟨false, false, false, false, false⟩ ∧
         let top : Int := 2 ^ (dst.width - 1)
         ∀ i, i < n → slane v dst.width i = max (-top) (min (slane (e.line.reg a) src.width i) (top - 1))))

/-! ## Loads, stores, residency (10_memory_isa) -/

/-- R20, R26, R31, R221, R223, R250, R251, R356, R357, R392, R396, R398: a load that translates to stack memory makes its register
pending, counts in LOADS and moves on; the value under way to it is the bytes that the unit's data L1 holds at the address where it
holds them all, else those that the line's home shows, extended as the size says, or the error of the block's check.  A miss on an IU
brings the whole line in.  One of a context line is given the line's words, one of the host aperture or of a host-bias page goes past
the data L1, one of another device's aperture is sent there, one of a page under a change of ownership is held; one of a page that
has MOVED sends its context there, and one on a CIU that is not of stack memory sends it home.  A missing entry parks the context
with wait kind 6 and sends one miss message; a permission that fails, a TRANSFORMED page and a key slot that fails trap with causes
0x05, 0x07 and 0x05.  With LOADS at 63 the turn is wasted, and the fourth parks with the condition of the full counter.
The model's choice: the value of the message under way is read at issue, one that R193 allows (log 65); the order in which a held
load and a peer's answer are taken, and the form of the messages to another device, are the model's (log 28, log 54). -/
def Obligations.LoadsIssue : Prop :=
  (∀ (s : State) (e : Env) (i : Instr) (d : Reg) (z : LdSize) (h : Hint) (va : Nat),
    LoadOf s e i d z h va → va % z.bytes = 0 → s.acquireMask e.va = 0 → s.fillPending e.va = false →
    let issued (t : State) : Prop :=
      t.ctx? e.va = some ⟨{ e.line.setPend d with loads := e.line.loads + 1, pc := e.line.pc + 4 }, issuedBook e⟩ ∧
      OthersKept s t e.va ∧ SameMemory s t
    (∀ own x c, s.arenaOf va = some own → own = e.line.tenant ∨ e.line.priv = true → e.u < 1536 → e.line.loads < 63 →
      s.xlate e.u own va accRead = .ok x → s.ctx? (va / 128 * 128) = some c → (∀ cl, c.book.owner ≠ .hbm cl) →
      va / 128 * 128 ≠ e.va → ∃ t, exec i s = .next t ∧ issued t ∧ t.wire = s.wire ++ [(s.nextId, .load e.va d
        (z.extend (ofBytes (((wordsBytes c.line.words).drop (va % 128)).take z.bytes))) false)]) ∧
    (∀ own, s.arenaOf va = some own → own ≠ e.line.tenant → e.line.priv = false → exec i s = .next (trapped s e 0x05 (w64 va))) ∧
    (s.arenaOf va = none →
      (s.xlate e.u e.line.tenant va accRead = .error .miss → CanPark s e → ∃ t, exec i s = .next t ∧
        Parked s t e (.translation (w64 va)) ∧ OthersKept s t e.va ∧ SameMemory s t ∧
        t.wire = s.wire ++ [(s.nextId, .miss ⟨.ctx e.va, e.u, if e.u < 1536 then e.u / 96 else e.line.hclu, e.line.tenant, w64 va, 0,
          s.stamp⟩)]) ∧
      (∀ y, isWindow va = false → (s.unit e.u).tlb.find? (fun y => y.covers e.line.tenant va) = some y →
        (y.r = false → exec i s = .next (trapped s e 0x05 (w64 va))) ∧
        (y.r = true → y.transformed = true → exec i s = .next (trapped s e 0x07 (w64 va))) ∧
        (y.r = true → y.transformed = false → isStack (y.addr va) = true → s.hostBias (y.addr va) = false →
          s.keyOk e.line.tenant y.kslot = false → exec i s = .next (trapped s e 0x05 (w64 va)))) ∧
      (∀ x, s.xlate e.u e.line.tenant va accRead = .ok x →
        let pa := x.addr va
        let plain : Prop := isStack pa = true ∧ s.hostBias pa = false
        let bytes := s.fetchedBytes e.u pa z.bytes
        (¬ plain → e.u < 1536 → peerOf pa = none → e.line.loads < 63 → s.pagesHeld s.nextId (pa / 65536) 1 = false →
          s.l2Access (s.homeNow x.attr pa) pa x.kslot x.tenant h = s → ∃ t, exec i s = .next t ∧ issued t ∧
          t.wire = s.wire ++ [(s.nextId, .load e.va d (z.extend (ofBytes bytes)) false)] ∧ (t.unit e.u).dl1 = (s.unit e.u).dl1) ∧
        (∀ dev off, e.u < 1536 → peerOf pa = some (dev, off) → dev ≠ s.device → e.line.loads < 63 → ∃ t, exec i s = .next t ∧
          issued t ∧ t.wire = s.wire ++ [(s.nextId, .loadReq e.va e.u d z x.attr h (w64 va) pa false (s.ownCells e.u pa z.bytes))] ∧
          t.asked = s.asked ++ [s.nextId] ∧
          t.peerOut = s.peerOut ++ [(dev, [12, w64 pa, w64 z.bytes, w64 (2 * s.nextId + 1)])]) ∧
        (¬ plain → 1536 ≤ e.u → e.line.openMsg = false → e.book.owner = .l1 e.u →
          ∃ t, exec i s = .next t ∧ Departs s t e e.line.hdev (e.line.hclu * 96) (.l2 e.line.hclu)) ∧
        (plain → (s.pageRec (pa / 65536)).moved = true → e.line.openMsg = false → e.book.owner = .l1 e.u → ∃ t, exec i s = .next t ∧
          let r := s.pageRec (pa / 65536)
          Departs s t e r.dest (r.dclu * 96) (.l2 r.dclu)) ∧
        (plain → (s.pageRec (pa / 65536)).moved = false → e.line.loads < 63 →
          (e.u < 1536 → s.present e.u pa z.bytes = false) → s.pagesHeld s.nextId (pa / 65536) 1 = true →
          ∃ t, exec i s = .next t ∧ issued t ∧ t.wire = s.wire ++ [(s.nextId, .loadReq e.va e.u d z x.attr h (w64 va) pa
            (decide (e.u < 1536)) (s.ownCells e.u pa z.bytes))]) ∧
        (plain → (s.pageRec (pa / 65536)).moved = false → e.line.loads = 63 →
          (e.book.wasted < 3 → exec i s = .next (s.setCtx e.va ⟨e.line, { e.book with wasted := e.book.wasted + 1 }⟩)) ∧
          (e.book.wasted = 3 → CanPark s e → ∃ t, exec i s = .next t ∧ Parked s t e (.counters 0x0000007E) ∧ OthersKept s t e.va ∧
            SameMemory s t ∧ t.wire = s.wire))))) ∧
  ∀ (s : State) (e : Env) (i : Instr) (d : Reg) (z : LdSize) (h : Hint) (va : Nat) (x : TlbEntry),
    LoadOf s e i d z h va → va % z.bytes = 0 → s.acquireMask e.va = 0 → s.fillPending e.va = false → s.arenaOf va = none →
    s.xlate e.u e.line.tenant va accRead = .ok x → isStack (x.addr va) = true → s.hostBias (x.addr va) = false →
    (s.pageRec (x.addr va / 65536)).moved = false → e.line.loads < 63 → s.pagesHeld s.nextId (x.addr va / 65536) 1 = false →
    let pa := x.addr va
    let hit := decide (e.u < 1536) && s.present e.u pa z.bytes
    let checked := (s.verify pa x.kslot).1
    SlicesSound checked →
    ∃ t m, exec i s = .next t ∧
      t.ctx? e.va = some ⟨{ e.line.setPend d with loads := e.line.loads + 1, pc := e.line.pc + 4 }, issuedBook e⟩ ∧
      Sent s t e.u m ∧ OthersKept s t e.va ∧ SameMemory (if hit then s else checked) t ∧
      if hit then m = .load e.va d (z.extend (ofBytes (s.seenBytes e.u pa z.bytes))) false
      else match (s.verify pa x.kslot).2 with
        | none => m = .load e.va d (z.extend (ofBytes (checked.fetchedBytes e.u pa z.bytes))) false ∧
            (e.u < 1536 → ∀ k, k < 64 → (Assoc.get (t.unit e.u).dl1 (pa / 64 * 64 + k)).isSome)
        | some c => m = .error e.va d c (w64 va) false

/-- R20, R32, R223, R250, R251, R356, R357, R392, R398: a store on an IU is performed in the data L1 at issue, its bytes dirty with their
hints, and counts nowhere; a line that makes way for its line is written back.  One on a CIU, or to the host, a host-bias page or
another device, counts in STORES and is sent to its home.  None of these changes memory yet.  One to a context line that is TRAPPED or
HALTED writes it, and one to a line in another state traps with cause 0x05; one to a page that has MOVED sends its context there.  A
missing entry parks the context with wait kind 6 and sends one miss message; a permission that fails and a TRANSFORMED page trap with
causes 0x05 and 0x07.  With STORES at 63 the turn is wasted, and the fourth parks.  The model's choice: the set of a line in a data L1
is its number modulo 128, in RoomInL1 (log 60). -/
def Obligations.StoresIssue : Prop :=
  (∀ (s : State) (e : Env) (i : Instr) (d : Reg) (z : StSize) (h : Hint) (va : Nat), StoreOf s e i d z h va → va % z.bytes = 0 →
    let bs := bytesOf (e.line.reg d).toNat z.bytes
    let counted : Line := { e.line with stores := e.line.stores + 1, pc := e.line.pc + 4 }
    (∀ own x c, s.arenaOf va = some own → own = e.line.tenant ∨ e.line.priv = true → e.u < 1536 →
      s.xlate e.u own va accWrite = .ok x → s.ctx? (va / 128 * 128) = some c → (∀ cl, c.book.owner ≠ .hbm cl) →
      va / 128 * 128 ≠ e.va →
      (c.line.st = .trapped ∨ c.line.st = .halted → e.line.stores < 63 → ∃ t b, exec i s = .next t ∧
        t.ctx? (va / 128 * 128) = some ⟨c.line.stored (patchWords c.line.words (va % 128) bs) e.line.priv, b⟩ ∧
        t.ctx? e.va = some ⟨counted, issuedBook e⟩ ∧ t.wire = s.wire ++ [(s.nextId, .ack e.va)] ∧
        (∀ v, v ≠ e.va → v ≠ va / 128 * 128 → t.ctx? v = s.ctx? v) ∧ RegistersKept s t ∧ SameMemory s t) ∧
      (c.line.st ≠ .trapped → c.line.st ≠ .halted → exec i s = .next (trapped s e 0x05 (w64 va)))) ∧
    (∀ own, s.arenaOf va = some own → own ≠ e.line.tenant → e.line.priv = false → exec i s = .next (trapped s e 0x05 (w64 va))) ∧
    (s.arenaOf va = none →
      (s.xlate e.u e.line.tenant va accWrite = .error .miss → CanPark s e → ∃ t, exec i s = .next t ∧
        Parked s t e (.translation (w64 va)) ∧ OthersKept s t e.va ∧ SameMemory s t ∧
        t.wire = s.wire ++ [(s.nextId, .miss ⟨.ctx e.va, e.u, if e.u < 1536 then e.u / 96 else e.line.hclu, e.line.tenant, w64 va, 1,
          s.stamp⟩)]) ∧
      (∀ y, isWindow va = false → (s.unit e.u).tlb.find? (fun y => y.covers e.line.tenant va) = some y →
        (y.w = false → exec i s = .next (trapped s e 0x05 (w64 va))) ∧
        (y.w = true → y.transformed = true → exec i s = .next (trapped s e 0x07 (w64 va)))) ∧
      (∀ x, s.xlate e.u e.line.tenant va accWrite = .ok x →
        let pa := x.addr va
        let plain : Prop := isStack pa = true ∧ s.hostBias pa = false
        (¬ plain → e.u < 1536 → (∀ off, peerOf pa ≠ some (s.device, off)) →
          (e.line.stores < 63 → ∃ t, exec i s = .next t ∧ t.ctx? e.va = some ⟨counted, issuedBook e⟩ ∧
            t.wire = s.wire ++ [(s.nextId, .ustore e.va e.u x.attr h (w64 va) pa bs)] ∧ OthersKept s t e.va ∧ SameMemory s t) ∧
          (e.line.stores = 63 → e.book.wasted < 3 →
            exec i s = .next (s.setCtx e.va ⟨e.line, { e.book with wasted := e.book.wasted + 1 }⟩)) ∧
          (e.line.stores = 63 → e.book.wasted = 3 → CanPark s e → ∃ t, exec i s = .next t ∧
            Parked s t e (.counters 0x00007E00) ∧ OthersKept s t e.va ∧ SameMemory s t ∧ t.wire = s.wire)) ∧
        (¬ plain → 1536 ≤ e.u → e.line.openMsg = false → e.book.owner = .l1 e.u →
          ∃ t, exec i s = .next t ∧ Departs s t e e.line.hdev (e.line.hclu * 96) (.l2 e.line.hclu)) ∧
        (plain → (s.pageRec (pa / 65536)).moved = true → e.line.openMsg = false → e.book.owner = .l1 e.u → ∃ t, exec i s = .next t ∧
          let r := s.pageRec (pa / 65536)
          Departs s t e r.dest (r.dclu * 96) (.l2 r.dclu))))) ∧
  ∀ (s : State) (e : Env) (i : Instr) (d : Reg) (z : StSize) (h : Hint) (va : Nat) (x : TlbEntry),
    StoreOf s e i d z h va → va % z.bytes = 0 → s.arenaOf va = none →
    s.xlate e.u e.line.tenant va accWrite = .ok x → isStack (x.addr va) = true → s.hostBias (x.addr va) = false →
    (s.pageRec (x.addr va / 65536)).moved = false →
    (e.u < 1536 → ∃ t, exec i s = .next t ∧ t.ctx? e.va = some ⟨{ e.line with pc := e.line.pc + 4 }, issuedBook e⟩ ∧
      WriteBacks s t e.u ∧ OthersKept s t e.va ∧ SameMemory s t ∧
      (∀ k, k < z.bytes → Assoc.get (t.unit e.u).dl1 (x.addr va + k) =
        some ⟨BitVec.ofNat 8 ((e.line.reg d).toNat / 2 ^ (8 * k)), true, x.attr, h⟩) ∧
      (RoomInL1 s e.u (x.addr va / 64) → t.wire = s.wire ∧ ∀ a, a < x.addr va ∨ x.addr va + z.bytes ≤ a →
        (Assoc.get (t.unit e.u).dl1 a).map (fun b => (b.v, b.dirty)) =
        (Assoc.get (s.unit e.u).dl1 a).map (fun b => (b.v, b.dirty)))) ∧
    (1536 ≤ e.u → e.line.stores < 63 → ∃ t, exec i s = .next t ∧
      t.ctx? e.va = some ⟨{ e.line with stores := e.line.stores + 1, pc := e.line.pc + 4 }, issuedBook e⟩ ∧
      t.wire = s.wire ++ [(s.nextId, .ustore e.va e.u x.attr h (w64 va) (x.addr va) (bytesOf (e.line.reg d).toNat z.bytes))] ∧
      OthersKept s t e.va ∧ SameMemory s t)

/-- R250, R260: a misaligned access traps with cause 0x03 and its address, before anything else. -/
def Obligations.MisalignedAccessesTrap : Prop :=
  ∀ (s : State) (e : Env) (va : Nat),
    (∀ i d z h, LoadOf s e i d z h va → s.acquireMask e.va = 0 → s.fillPending e.va = false → va % z.bytes ≠ 0 →
      exec i s = .next (trapped s e 0x03 (w64 va))) ∧
    (∀ i d z h, StoreOf s e i d z h va → va % z.bytes ≠ 0 → exec i s = .next (trapped s e 0x03 (w64 va))) ∧
    (∀ g d a r, Turn s e g [d, a] true → va = (e.line.reg a).toNat % 2 ^ 56 → va % 8 ≠ 0 →
      ∀ i ∈ [Instr.take g d a r, .peek g d a r, .empty g d a r, .festat g d a r],
      exec i s = .next (trapped s e 0x03 (w64 va))) ∧
    (∀ g a v r, Turn s e g [a, v] true → va = (e.line.reg a).toNat % 2 ^ 56 → va % 8 ≠ 0 →
      exec (.put g a v r) s = .next (trapped s e 0x03 (w64 va)) ∧
      exec (.fill g a v r) s = .next (trapped s e 0x03 (w64 va))) ∧
    (∀ g a v, Turn s e g [a, v] false → va = (e.line.reg a).toNat % 2 ^ 56 → va % 8 ≠ 0 →
      ∀ i ∈ [Instr.moonAdd g a v, .moonMin g a v, .moonMax g a v, .moonOr g a v, .moonFadd g a v],
      exec i s = .next (trapped s e 0x03 (w64 va))) ∧
    (∀ g d a v r, Turn s e g [d, a, v] true → va = (e.line.reg a).toNat % 2 ^ 56 → va % 8 ≠ 0 →
      ∀ i ∈ [Instr.amoAdd g d a v r, .amoMin g d a v r, .amoMax g d a v r, .amoAnd g d a v r, .amoOr g d a v r,
        .amoXor g d a v r, .amoSwap g d a v r, .amoCas g d a v r, .amoFadd g d a v r],
      exec i s = .next (trapped s e 0x03 (w64 va)))

/-- R207, R221, R223, R255, R257, R258: prefetch, drop, and reconcile.  The model's choice: the set of a line in a data L1 is its number
modulo 128, and a line leaves only where room is needed, in RoomInL1 (log 60). -/
def Obligations.ResidencyInstructions : Prop :=
  (∀ (s : State) (e : Env) (g : Guard) (a : Reg) (x : TlbEntry), Turn s e g [a] false →
     let va := (e.line.reg a).toNat % 2 ^ 56
     let pa := x.addr va / 64 * 64
     (s.arenaOf va = none → s.xlate e.u e.line.tenant va accRead = .ok x → isStack pa = true → s.hostBias pa = false →
       s.pagesHeld s.nextId (pa / 65536) 1 = false →
       (s.verify pa x.kslot = (s, none) → SlicesSound s →
         ∃ t, exec (.pref g a) s = .next t ∧ t.ctx? e.va = some ⟨e.line.advance, issuedBook e⟩ ∧ WriteBacks s t e.u ∧
         OthersKept s t e.va ∧ SameMemory s t ∧
         (∀ k, k < 64 → ∃ b, Assoc.get (t.unit e.u).dl1 (pa + k) = some b ∧
           ∀ b0, Assoc.get (s.unit e.u).dl1 (pa + k) = some b0 → b0.dirty = true → b = b0) ∧
         (RoomInL1 s e.u (pa / 64) → ∀ p, p / 64 ≠ pa / 64 → Assoc.get (t.unit e.u).dl1 p = Assoc.get (s.unit e.u).dl1 p)) ∧
       ((s.verify pa x.kslot).2 ≠ none →
         exec (.pref g a) s = .next (retired (s.verify pa x.kslot).1 e e.line.advance))) ∧
     ((s.arenaOf va).isSome ∨ (∃ f, s.xlate e.u e.line.tenant va accRead = .error f) ∨
       (s.xlate e.u e.line.tenant va accRead = .ok x ∧
         (isStack pa = false ∨ s.hostBias pa = true ∨ s.pagesHeld s.nextId (pa / 65536) 1 = true)) →
       exec (.pref g a) s = .next (retired s e e.line.advance)) ∧
     (s.arenaOf va = none → s.xlate e.u e.line.tenant va accWrite = .ok x →
       ∃ t, exec (.cdrop g a) s = .next t ∧ t.ctx? e.va = some ⟨e.line.advance, issuedBook e⟩ ∧ t.wire = s.wire ∧
         OthersKept s t e.va ∧ SameMemory s t ∧
         (∀ p, Assoc.get (t.unit e.u).dl1 p =
           if p / 64 = x.addr va / 64 then none else Assoc.get (s.unit e.u).dl1 p) ∧
         ∀ l ∈ (t.unit (s.homeNow x.attr (x.addr va))).l2, l.line = x.addr va / 64 → l.dirty = [])) ∧
  (∀ (s : State) (e : Env) (g : Guard) (a : Reg), Turn s e g [a] true → 1536 ≤ e.u →
     exec (.pref g a) s = .next (retired s e e.line.advance)) ∧
  (∀ (s : State) (e : Env) (g : Guard) (r : Reach), Turn s e g [] true → s.ctx? e.va = some ⟨e.line, e.book⟩ →
     (r = .self ∨ r = .unit ∧ e.line.loads = 0 → e.line.stores = 0 → ∃ t, exec (.recon g r) s = .next t ∧
       t.ctx? e.va = some ⟨e.line.advance, { issuedBook e with recPend := false }⟩ ∧ OnlyLine s t e.va) ∧
     (r ≠ .self → r ≠ .unit → s.dirtyLines e.u = [] → s.releasing e.u = false → e.line.stores = 0 → e.line.loads = 0 →
       ∃ t, exec (.recon g r) s = .next t ∧
       t.ctx? e.va = some ⟨e.line.advance, { issuedBook e with recPend := false }⟩ ∧ t.wire = s.wire ∧
       OthersKept s t e.va ∧ SameMemory s t ∧ (t.unit e.u).dl1 = (s.unit e.u).dl1.filter (fun b => b.2.dirty)) ∧
     (r ≠ .self → r ≠ .unit → e.book.recPend = false → s.dirtyLines e.u ≠ [] → e.line.st = .issuing →
       e.line.stores + (s.dirtyLines e.u).length ≤ 63 → ∃ t b, exec (.recon g r) s = .next t ∧
       t.ctx? e.va = some ⟨{ e.line with stores := e.line.stores + (s.dirtyLines e.u).length }, b⟩ ∧ b.recPend = true ∧
       t.wire.length = s.wire.length + (s.dirtyLines e.u).length ∧ SameMemory s t))

/-! ## Full/empty accesses, atomic operations, moonlets (08_ordering, 10_memory_isa) -/

/-- R260, R261, R269, R289: the six full/empty accesses and the five moonlets at their issue.  What their page fixes is the entry, or for
the device's own aperture the page's record (R392, R394). -/
def Obligations.SyncIssue : Prop :=
  (∀ (s : State) (e : Env) (g : Guard) (d a v : Reg) (r : Reach) (x : TlbEntry) (dev pa : Nat),
     let va := (e.line.reg a).toNat % 2 ^ 56
     let rq (op : SyncOp) (reg : Reg) (w : W64) : SyncReq := ⟨e.va, e.u, s.homeAttr x pa, op, w64 va, pa, reg, w, r, s.nextId⟩
     s.syncTarget e va = .ok (x, dev, pa) → (e.u < 1536 ∨ (dev = s.device ∧ servingCiu pa = e.u)) →
     e.line.loads = 0 → e.line.stores = 0 →
     (Turn s e g [d, a] true → CanPark s e → ∃ t, exec (.take g d a r) s = .next t ∧ Parked s t e (.word (w64 va)) ∧
       Sent s t e.u (.sync (rq .take d (e.line.reg a))) ∧ OthersKept s t e.va ∧ SameMemory s t) ∧
     (Turn s e g [d, a] true → CanPark s e → ∃ t, exec (.peek g d a r) s = .next t ∧ Parked s t e (.word (w64 va)) ∧
       Sent s t e.u (.sync (rq .peek d (e.line.reg a))) ∧ OthersKept s t e.va ∧ SameMemory s t) ∧
     (Turn s e g [a, v] true → CanPark s e → ∃ t, exec (.put g a v r) s = .next t ∧ Parked s t e (.word (w64 va)) ∧
       Sent s t e.u (.sync (rq .put a (e.line.reg v))) ∧ OthersKept s t e.va ∧ SameMemory s t) ∧
     (Turn s e g [a, v] true → ∃ t, exec (.fill g a v r) s = .next t ∧
       t.ctx? e.va = some ⟨{ e.line with stores := 1, pc := e.line.pc + 4 }, issuedBook e⟩ ∧
       Sent s t e.u (.sync (rq .fill a (e.line.reg v))) ∧ OthersKept s t e.va ∧ SameMemory s t) ∧
     (Turn s e g [d, a] true → ∃ t, exec (.empty g d a r) s = .next t ∧
       t.ctx? e.va = some ⟨{ e.line.setPend d with loads := 1, pc := e.line.pc + 4 }, issuedBook e⟩ ∧
       Sent s t e.u (.sync (rq .empty d (e.line.reg a))) ∧ OthersKept s t e.va ∧ SameMemory s t) ∧
     (Turn s e g [d, a] true → ∃ t, exec (.festat g d a r) s = .next t ∧
       t.ctx? e.va = some ⟨{ e.line.setPend d with loads := 1, pc := e.line.pc + 4 }, issuedBook e⟩ ∧
       Sent s t e.u (.sync (rq .festat d (e.line.reg a))) ∧ OthersKept s t e.va ∧ SameMemory s t)) ∧
  (∀ (s : State) (e : Env) (g : Guard) (a v : Reg) (x : TlbEntry) (dev pa : Nat), Turn s e g [a, v] false →
     let va := (e.line.reg a).toNat % 2 ^ 56
     s.syncTarget e va = .ok (x, dev, pa) → e.line.stores < 63 →
     ∀ p ∈ [(Instr.moonAdd g a v, MoonOp.add), (.moonMin g a v, .min), (.moonMax g a v, .max), (.moonOr g a v, .or),
       (.moonFadd g a v, .fadd)],
     ∃ t, exec p.1 s = .next t ∧
       t.ctx? e.va = some ⟨{ e.line with stores := e.line.stores + 1, pc := e.line.pc + 4 }, issuedBook e⟩ ∧
       Sent s t e.u (.moonlet e.va e.u (s.homeAttr x pa) p.2 (w64 va) pa (e.line.reg v)) ∧ OthersKept s t e.va ∧ SameMemory s t)

/-- R260, R262: an access performed at its home: what it leaves in the word and in the full/empty bit, and the value it delivers.
TAKE and PEEK wait for a full word, PUT for an empty one; the others never wait. -/
def Obligations.FullEmptyAtHome : Prop :=
  ∀ (s : State) (id : Nat) (rq : SyncReq), s.msg? id = some (.sync rq) → s.released rq.unit id = true →
    s.behind id rq.unit rq.pa = false → rq.attr.trace = false → rq.pa % 8 = 0 → Intact s rq.pa rq.attr.kslot →
    s.deferredAt rq.pa = [] → s.faulted = false → SlicesSound s →
    let old := Memory.dword s.mem rq.pa
    let full := s.isFull rq.pa
    let wide := decide (rq.reach ≠ .self ∧ rq.reach ≠ .unit)
    (rq.op = .take → full = true → ∃ t n, exec (.syncAccessAtHome id) s = .next t ∧ StoredAt s t rq.pa [] ∧ t.isFull rq.pa = false ∧
      t.wire = Assoc.erase s.wire id ++ [(n, .served rq.ctx (some rq.reg) old wide)]) ∧
    (rq.op = .peek → full = true → ∃ t n, exec (.syncAccessAtHome id) s = .next t ∧ t.mem = s.mem ∧ t.isFull rq.pa = true ∧
      t.wire = Assoc.erase s.wire id ++ [(n, .served rq.ctx (some rq.reg) old wide)]) ∧
    (rq.op = .put → full = false → ∃ t n, exec (.syncAccessAtHome id) s = .next t ∧ t.isFull rq.pa = true ∧
      StoredAt s t rq.pa (bytesOf rq.v.toNat 8) ∧
      t.wire = Assoc.erase s.wire id ++ [(n, .served rq.ctx none 0 wide)]) ∧
    (rq.op = .fill → ∃ t n, exec (.syncAccessAtHome id) s = .next t ∧ t.isFull rq.pa = true ∧
      StoredAt s t rq.pa (bytesOf rq.v.toNat 8) ∧ t.wire = Assoc.erase s.wire id ++ [(n, .ack rq.ctx)]) ∧
    (rq.op = .empty → ∃ t n, exec (.syncAccessAtHome id) s = .next t ∧ StoredAt s t rq.pa [] ∧ t.isFull rq.pa = false ∧
      t.wire = Assoc.erase s.wire id ++ [(n, .load rq.ctx rq.reg old wide)]) ∧
    (rq.op = .festat → ∃ t n, exec (.syncAccessAtHome id) s = .next t ∧ t.mem = s.mem ∧ t.isFull rq.pa = full ∧
      t.wire = Assoc.erase s.wire id ++ [(n, .load rq.ctx rq.reg (if full then 1 else 0) wide)]) ∧
    (((rq.op = .take ∨ rq.op = .peek) ∧ full = false) ∨ (rq.op = .put ∧ full = true) →
      s.deferredCount (stackOf rq.pa) < 4194304 → ∃ t, exec (.syncAccessAtHome id) s = .next t ∧ t.mem = s.mem ∧
      t.wire = Assoc.erase s.wire id ∧ t.deferredAt rq.pa = [rq])

/-- R266 to R268, R310: what each atomic operation leaves in its word at its serving CIU, the departure of a context on an IU to that
CIU, and the return of one on another CIU to its home cluster.  The model's choice: a context L2 is named in the wait by the first IU
of its cluster (log 15). -/
def Obligations.AtomicOperations : Prop :=
  (∀ (s : State) (e : Env) (g : Guard) (d a v : Reg) (r : Reach) (x : TlbEntry) (pa : Nat), Turn s e g [d, a, v] true →
     s.syncTarget e ((e.line.reg a).toNat % 2 ^ 56) = .ok (x, s.device, pa) → servingCiu pa = e.u →
     e.line.loads = 0 → e.line.stores = 0 → (s.homeAttr x pa).trace = false → Intact s pa (s.homeAttr x pa).kslot → SlicesSound s →
     let m := Memory.dword s.mem pa
     let w := e.line.reg v
     let leaves (i : Instr) (new : W64) : Prop := ∃ t, exec i s = .next t ∧ StoredAt s t pa (bytesOf new.toNat 8) ∧
       t.ctx? e.va = some ⟨(e.line.setReg d m).advance, issuedBook e⟩ ∧ OthersKept s t e.va ∧ t.feEmpty = s.feEmpty ∧
       t.scratch = s.scratch ∧ t.wire = s.wire
     leaves (.amoAdd g d a v r) (BitVec.ofNat 64 (m.toNat + w.toNat)) ∧
     leaves (.amoMin g d a v r) (BitVec.ofInt 64 (min m.toInt w.toInt)) ∧
     leaves (.amoMax g d a v r) (BitVec.ofInt 64 (max m.toInt w.toInt)) ∧
     leaves (.amoAnd g d a v r) (m &&& w) ∧
     leaves (.amoOr g d a v r) (m ||| w) ∧
     leaves (.amoXor g d a v r) (m ^^^ w) ∧
     leaves (.amoSwap g d a v r) w ∧
     leaves (.amoCas g d a v r) (if m = e.line.reg d then w else m) ∧
     ∃ t n fl, exec (.amoFadd g d a v r) s = .next t ∧ StoredAt s t pa (bytesOf (n : W64).toNat 8) ∧
       t.ctx? e.va = some ⟨((e.line.setReg d m).addFlags fl).advance, issuedBook e⟩ ∧ OthersKept s t e.va ∧
       ∀ k, k < 2 → lane n 32 k =
         (fp32.addV e.line.round (fp32.unpack (lane m 32 k)) (fp32.unpack (lane w 32 k))).1 % 2 ^ 32) ∧
  (∀ (s : State) (e : Env) (g : Guard) (d a v : Reg) (r : Reach) (x : TlbEntry) (pa : Nat), Turn s e g [d, a, v] true →
     s.syncTarget e ((e.line.reg a).toNat % 2 ^ 56) = .ok (x, s.device, pa) → servingCiu pa ≠ e.u →
     e.line.openMsg = false → e.book.owner = .l1 e.u →
     ∀ i ∈ [Instr.amoAdd g d a v r, .amoMin g d a v r, .amoMax g d a v r, .amoAnd g d a v r, .amoOr g d a v r,
         .amoXor g d a v r, .amoSwap g d a v r, .amoCas g d a v r, .amoFadd g d a v r],
     let departs (dev unit : Nat) (dest : Owner) : Prop := ∃ t, exec i s = .next t ∧ Departs s t e dev unit dest
     (e.u < 1536 → e.line.loads = 0 → e.line.stores = 0 → departs s.device (servingCiu pa) (.l1 (servingCiu pa))) ∧
     (1536 ≤ e.u → departs e.line.hdev (e.line.hclu * 96) (.l2 e.line.hclu)))

/-- R208, R269: a moonlet performed at its word's home is one read, update and write: what each operation leaves there, with no
other byte changed, and the acknowledgment of its store. -/
def Obligations.MoonletsAtTheirHome : Prop :=
  ∀ (s : State) (id va u : Nat) (a : PageAttr) (op : MoonOp) (fva v : W64) (pa : Nat) (c : Ctx),
    s.msg? id = some (.moonlet va u a op fva pa v) → s.behind id u pa = false → s.released u id = true →
    s.ctx? va = some c → c.line.st = .ready → a.trace = false → Intact s pa a.kslot → s.faulted = false → SlicesSound s →
    ∃ t new, exec (.moonletPerform id) s = .next t ∧ StoredAt s t pa (bytesOf (new : W64).toNat 8) ∧
      t.ctx? va = some { c with line := { c.line with stores := c.line.stores - 1 } } ∧ t.feEmpty = s.feEmpty ∧
      t.wire = Assoc.erase s.wire id ∧
      let m := Memory.dword s.mem pa
      match op with
      | .add => new = BitVec.ofNat 64 (m.toNat + v.toNat)
      | .min => new = BitVec.ofInt 64 (min m.toInt v.toInt)
      | .max => new = BitVec.ofInt 64 (max m.toInt v.toInt)
      | .or => new = m ||| v
      | .fadd => ∀ k, k < 2 → lane new 32 k =
          (fp32.addV .rne (fp32.unpack (lane m 32 k)) (fp32.unpack (lane v 32 k))).1 % 2 ^ 32

/-! ## Tasks, deques and stage rings (12_task_isa) -/

/-- R320, R321: SPAWN and SPAWNR run the child in the spawner's slot: its registers, predicates, mode and rounding are the
spawner's, its CTX.PC the target, its JOIN the spawner's FRAME, its counters zero.  The spawner is READY after its instruction;
where its deque accepts a push, a continuation of it is the bottommost entry.  With a frame, an increment is under way to it and
counts in STORES. -/
def Obligations.SpawnRunsTheChild : Prop :=
  ∀ (s s1 : State) (e : Env) (g : Guard) (i : Instr) (target : VAddr) (child : Nat) (f : Option (TlbEntry × Nat)),
    ((∃ off, i = .spawn g off ∧ target = BitVec.ofInt 56 (e.line.pc.toNat + 4 * off.toInt)) ∨
      ∃ a, i = .spawnr g a ∧ target = (e.line.reg a).setWidth 56 ∧ target.toNat % 4 = 0) →
    Turn s e g [0, 1, 2, 3, 4, 5, 6, 7] false → e.line.openMsg = false → e.line.haltReq = false → e.book.owner = .l1 e.u →
    s.frameTarget e e.line.frame = .ok f → (f.isSome → e.line.stores < 63) →
    s.allocFrom e.u (e.u / 96) e.line.tenant = some (child, s1) → child ≠ e.va → s.framePending e.va = false →
    s.l1Count e.u < 256 → s.queueOk e.line.tenant e.line.queue = true →
    ∃ t c k, exec i s = .next t ∧
      t.ctx? child = some k ∧ k.line = { e.line with
        pc := target, pend := 0, cause := 0, openMsg := false, st := .issuing, wait := .none, frame := 0, join := e.line.frame,
        tiles := 0, engs := 0, stores := 0, loads := 0, hdev := s.device, hclu := e.u / 96, haltReq := false, oseq := 0 } ∧
      (t.slot e.u e.slot).occ = some child ∧
      t.ctx? e.va = some c ∧ c.line = { e.line with
        pc := e.line.pc + 4, st := .ready, wait := .none, oseq := c.line.oseq,
        stores := e.line.stores + (if f.isSome then 1 else 0) } ∧
      (s.dequeAccepts e.u e.line.tenant = true → (t.unit e.u).deque =
        ⟨BitVec.ofNat 64 (e.line.tenant * 2 ^ 56 + e.va),
         BitVec.ofNat 64 (e.line.queue * 2 ^ 58 + e.line.frame.toNat % 2 ^ 56)⟩ :: (s.unit e.u).deque) ∧
      (s.dequeAccepts e.u e.line.tenant = false → (t.unit e.u).deque = (s.unit e.u).deque) ∧
      ∀ x pa, f = some (x, pa) → ∃ m ∈ t.wire, m.2 = .frameInc e.va e.u (s.homeAttr x pa) (w64 (e.line.frame.toNat % 2 ^ 56)) pa

/-- R312, R320: the traps of SPAWN and SPAWNR, and of the instructions that may not be issued during an open message: RTE in the turn in
which it would complete.  The model's choice: 0x13 comes before the other checks of the instructions that always leave the slot,
and after those of RTE (log 11). -/
def Obligations.SpawnAndOpenMessageTraps : Prop :=
  (∀ (s : State) (e : Env) (g : Guard) (a : Reg) (off : BitVec 12), Turn s e g [0, 1, 2, 3, 4, 5, 6, 7] false →
     e.line.openMsg = false → s.framePending e.va = false →
     ((e.line.reg a).toNat % 4 ≠ 0 →
       exec (.spawnr g a) s = .next (trapped s e 0x03 (BitVec.ofNat 64 ((e.line.reg a).toNat % 2 ^ 56)))) ∧
     (e.line.frame = 0 → s.allocFrom e.u (e.u / 96) e.line.tenant = none →
       let read := s.openArena e.u (e.u / 96) e.line.tenant
       exec (.spawn g off) s = .next (trapped read e 0x0C 0) ∧
       ((e.line.reg a).toNat % 4 = 0 → exec (.spawnr g a) s = .next (trapped read e 0x0C 0)))) ∧
  (∀ (s : State) (e : Env) (g : Guard), e.line.openMsg = true →
     (∀ off a, Turn s e g [0, 1, 2, 3, 4, 5, 6, 7] false →
       exec (.spawn g off) s = .next (trapped s e 0x13 0) ∧ exec (.spawnr g a) s = .next (trapped s e 0x13 0)) ∧
     (Turn s e g [] false →
       exec (.done g) s = .next (trapped s e 0x13 0) ∧ exec (.yield g) s = .next (trapped s e 0x13 0)) ∧
     (∀ a, Turn s e g [a] false →
       exec (.await g a) s = .next (trapped s e 0x13 0) ∧ exec (.migrate g a) s = .next (trapped s e 0x13 0)) ∧
     (∀ a b r, Turn s e g [a, b] false →
       exec (.stgPush g a b r) s = .next (trapped s e 0x13 0) ∧ exec (.stgPop g a b r) s = .next (trapped s e 0x13 0)) ∧
     (∀ a own c, e.line.loads = 0 → e.line.stores = 0 → e.line.engs = 0 → e.line.tiles = 0 → s.dirtyLines e.u = [] →
       s.releasing e.u = false → e.line.join = 0 → s.arenaOf ((e.line.reg a).toNat % 2 ^ 56) = some own →
       own = e.line.tenant ∨ e.line.priv = true → (e.line.reg a).toNat % 128 = 0 →
       s.ctx? ((e.line.reg a).toNat % 2 ^ 56) = some c → c.line.st = .trapped →
       (Turn s e g [a] true → exec (.rte g a) s = .next (trapped s e 0x13 0)) ∧
       ∀ v, Turn s e g [a, v] true → (e.line.reg v).toNat % 4 = 0 → exec (.rteNewPc g a v) s = .next (trapped s e 0x13 0)))

/-- R322 to R326: AWAIT, DONE, FRAME, YIELD and MIGRATE at their issue. -/
def Obligations.TaskInstructions : Prop :=
  ∀ (s : State) (e : Env) (g : Guard), e.line.openMsg = false → e.book.owner = .l1 e.u →
    (∀ d, Turn s e g [d] false → e.line.frame = 0 →
      exec (.await g d) s = .next (retired s e (e.line.setReg d 0).advance)) ∧
    (∀ d x pa, Turn s e g [d] false → CanPark s e → e.line.loads = 0 → e.line.stores = 0 →
      s.frameTarget e e.line.frame = .ok (some (x, pa)) →
      ∃ t, exec (.await g d) s = .next t ∧ Parked s t e (.frame e.line.frame) ∧
        Sent s t e.u (.await e.va e.u (s.homeAttr x pa) (w64 (e.line.frame.toNat % 2 ^ 56)) pa d) ∧ OthersKept s t e.va ∧ SameMemory s t) ∧
    (∀ f, Turn s e g [] false → e.line.loads = 0 → e.line.stores = 0 → e.line.engs = 0 → e.line.tiles = 0 →
      s.frameTarget e e.line.join = .ok f → ((s.unit e.u).dqRow e.line.tenant).frozen = true →
      ∃ t c, exec (.done g) s = .next t ∧ t.ctx? e.va = some c ∧ (t.slot e.u e.slot).occ = none ∧
        (f = none → c.line.st = .free) ∧
        (∀ x pa, f = some (x, pa) → c.line.st = .done ∧
          Sent s t e.u (.frameDec e.va e.u (s.homeAttr x pa) (w64 (e.line.join.toNat % 2 ^ 56)) pa true))) ∧
    (∀ a b, Turn s e g [a, b] false → e.line.reg a = 0 →
      exec (.frame g a b) s = .next (retired s e { e.line with frame := 0, pc := e.line.pc + 4 })) ∧
    (∀ a b x dev pa, Turn s e g [a, b] false → e.line.loads = 0 → e.line.stores = 0 →
      let va := (e.line.reg a).toNat % 2 ^ 56
      e.line.reg a ≠ 0 → va % 32 = 0 → s.syncTarget e va = .ok (x, dev, pa) →
      ∃ t, exec (.frame g a b) s = .next t ∧
        t.ctx? e.va = some ⟨{ e.line with stores := 1, pc := e.line.pc + 4 }, issuedBook e⟩ ∧
        Sent s t e.u (.frameInit e.va e.u (s.homeAttr x pa) (e.line.reg a) pa (e.line.reg b)) ∧ OthersKept s t e.va ∧ SameMemory s t) ∧
    (Turn s e g [] false → e.line.haltReq = false → ∃ t b, exec (.yield g) s = .next t ∧
      t.ctx? e.va = some ⟨{ e.line with pc := e.line.pc + 4, st := .ready, wait := .none }, b⟩ ∧ b.stamp = s.stamp ∧
      b.owner = .l1 e.u ∧ (t.slot e.u e.slot).occ = none ∧ OthersKept s t e.va ∧ SameMemory s t ∧ t.wire = s.wire) ∧
    (∀ a, Turn s e g [a] false → s.migrateTo e (e.line.reg a) = .ok (s.device, e.u) →
      exec (.migrate g a) s = .next (retired s e e.line.advance)) ∧
    (∀ a dev u, Turn s e g [a] false → s.migrateTo e (e.line.reg a) = .ok (dev, u) → (dev ≠ s.device ∨ u ≠ e.u) →
      ∃ t b, exec (.migrate g a) s = .next t ∧
        t.ctx? e.va = some ⟨{ e.line with pc := e.line.pc + 4, st := .transit, wait := .transit dev u }, b⟩ ∧
        (t.slot e.u e.slot).occ = none ∧ Sent s t e.u (.comet e.va dev (.l1 u)) ∧ OthersKept s t e.va ∧ SameMemory s t)

/-- R316, R317, R322 to R324: a frame at its home.  An increment and a decrement change COUNT by one modulo 2^32, a decrement that did
not stay local sets REMOTE, an AWAIT that finds COUNT zero is served and clears REMOTE, one that finds no waiter armed arms its
own, and one that finds a waiter armed is refused for 4,096 cycles. -/
def Obligations.FramesAtTheirHome : Prop :=
  ∀ (s : State) (id va u : Nat) (a : PageAttr) (fva : W64) (pa : Nat), s.behind id u pa = false → s.released u id = true →
    a.trace = false → Intact s pa a.kslot → s.faulted = false → SlicesSound s →
    (∀ c, s.ctx? va = some c → ((Assoc.get (s.cluster (s.lineCluster c)).cache c.line.tenant).getD []).length < 63) →
    let w := (Memory.dword s.mem pa).toNat
    let count := w % 2 ^ 32
    (∀ c, s.msg? id = some (.frameInc va u a fva pa) → s.ctx? va = some c → c.line.st = .ready → ∃ t,
      exec (.frameIncrement id) s = .next t ∧ t.ctx? va = some { c with line := { c.line with stores := c.line.stores - 1 } } ∧
      StoredAt s t pa (bytesOf (w / 2 ^ 32 * 2 ^ 32 + (count + 1) % 2 ^ 32) 8)) ∧
    (∀ remote, s.msg? id = some (.frameDec va u a fva pa remote) → Assoc.get s.armed pa = none → ∃ t v,
      exec (.frameDecrement id) s = .next t ∧ StoredAt s t pa (bytesOf v 8) ∧
      v % 2 ^ 32 = (count + (2 ^ 32 - 1)) % 2 ^ 32 ∧ v / 2 ^ 33 = w / 2 ^ 33 ∧
      (v.testBit 32 = (remote || w.testBit 32)) ∧
      ∀ c, s.ctx? va = some c → c.line.st = .done → c.line.loads = 0 → c.line.stores = 0 → c.line.engs = 0 → c.line.tiles = 0 →
        ∃ c', t.ctx? va = some c' ∧ c'.line.st = .free) ∧
    (∀ remote v r b n0, s.msg? id = some (.frameDec va u a fva pa remote) → Assoc.get s.armed pa = some (v, b, r, n0) → count = 1 →
      ∃ t n, exec (.frameDecrement id) s = .next t ∧ Assoc.get t.armed pa = none ∧
        StoredAt s t pa (bytesOf (w / 2 ^ 33 * 2 ^ 33) 8) ∧
        (n, Msg.served v (some r) (w64 (w / 2 ^ 33 * 2 ^ 33 + (if remote || w.testBit 32 then 2 ^ 32 else 0)))
          (remote || w.testBit 32)) ∈ t.wire) ∧
    (∀ r, s.msg? id = some (.await va u a fva pa r) →
      (count = 0 → ∃ t n, exec (.awaitAtHome id) s = .next t ∧
        t.wire = Assoc.erase s.wire id ++ [(n, .served va (some r) (w64 w) (w.testBit 32))] ∧
        StoredAt s t pa (bytesOf (w / 2 ^ 33 * 2 ^ 33) 8)) ∧
      (count ≠ 0 → Assoc.get s.armed pa = none → ∃ t, exec (.awaitAtHome id) s = .next t ∧
        Assoc.get t.armed pa = some (va, u, r, id) ∧ t.wire = Assoc.erase s.wire id ∧ t.mem = s.mem) ∧
      (count ≠ 0 → (Assoc.get s.armed pa).isSome → ∃ t, exec (.awaitAtHome id) s = .next t ∧ t.armed = s.armed ∧
        t.msg? id = some (.awaitRefused va u a fva pa r ((s.unit u).cycle + 4096)) ∧
        (∀ n, n ≠ id → t.msg? n = s.msg? n) ∧ t.mem = s.mem)) ∧
    (∀ c ptr, s.msg? id = some (.frameInit va u a fva pa ptr) → s.ctx? va = some c → c.line.st = .ready → pa % 32 = 0 → ∃ t b,
      exec (.storeAcknowledge id) s = .next t ∧
      t.ctx? va = some ⟨{ c.line with frame := fva, stores := c.line.stores - 1 }, b⟩ ∧
      (∀ v, c.book.owner = .l1 v → b = c.book ∧ ∀ x ∈ (t.unit v).dl1, x.2.dirty = true) ∧
      StoredAt s t pa (wordsBytes [0, 0, ptr, 0]))

/-- R331 to R334, R340: pushes, pops and splits of the tenant's view of the unit's deque, with the statuses of R331. -/
def Obligations.DequePushAndPop : Prop :=
  ∀ (s : State) (e : Env) (g : Guard) (d a b : Reg),
    let x := s.unit e.u
    let v := e.line.reg a
    let w := e.line.reg b
    let row := x.dqRow e.line.tenant
    let lo (w : W64) : Nat := w.toNat % 2 ^ 32
    let hi (w : W64) : Nat := w.toNat / 2 ^ 32
    let range (lo hi : Nat) : W64 := BitVec.ofNat 64 (hi * 2 ^ 32 + lo)
    let entry (kind : Nat) : DqEntry := ⟨BitVec.ofNat 64 (e.line.tenant * 2 ^ 56 + v.toNat / 4 % 2 ^ 54 * 4 + kind), w⟩
    let pushed (t : State) (n : DqEntry) : Prop := (t.unit e.u).deque = n :: x.deque ∧
      t.ctx? e.va = some ⟨(e.line.setReg d 0).advance, issuedBook e⟩ ∧ OthersKept s t e.va ∧ SameMemory s t ∧ t.wire = s.wire
    let failed (st : W64) : Out := .next (retired s e (e.line.setReg d st).advance)
    let failed2 (st : W64) : Out := .next (retired s e ((e.line.setReg d st).setReg a 0).advance)
    let took (t : State) (m : List DqEntry) (ent : DqEntry) (w0 w1 : W64) : Prop := (t.unit e.u).deque = m ∧
      Assoc.get (t.unit e.u).holding e.va = some ent ∧
      t.ctx? e.va = some ⟨((e.line.setReg d w0).setReg a w1).advance, issuedBook e⟩ ∧ OthersKept s t e.va ∧ SameMemory s t ∧
      t.wire = s.wire
    (Turn s e g [d, a, b] false → v.toNat % 4 ≠ 0 →
      exec (.dqPushRange g d a b) s = .next (trapped s e 0x03 v) ∧ exec (.dqPushTask g d a b) s = .next (trapped s e 0x03 v)) ∧
    (Turn s e g [d, a, b] false → v.toNat % 4 = 0 →
      (hi w ≤ lo w → exec (.dqPushRange g d a b) s = failed 0x13) ∧
      (lo w < hi w → row.frozen = true → exec (.dqPushRange g d a b) s = failed 0x0B) ∧
      (row.frozen = true → exec (.dqPushTask g d a b) s = failed 0x0B) ∧
      (lo w < hi w → row.frozen = false → 256 ≤ x.deque.length → exec (.dqPushRange g d a b) s = failed 0x0F) ∧
      (row.frozen = false → 256 ≤ x.deque.length → exec (.dqPushTask g d a b) s = failed 0x0F) ∧
      (lo w < hi w → row.frozen = false → x.deque.length < 256 →
        ∃ t, exec (.dqPushRange g d a b) s = .next t ∧ pushed t (entry 1)) ∧
      (row.frozen = false → x.deque.length < 256 → ∃ t, exec (.dqPushTask g d a b) s = .next t ∧ pushed t (entry 2))) ∧
    (Turn s e g [d, a] false → d ≠ a → row.frozen = true → exec (.dqPop g d a) s = failed2 0x0B) ∧
    (Turn s e g [d, a] false → d ≠ a → row.frozen = false → x.bottom e.line.tenant = none →
      exec (.dqPop g d a) s = failed2 0x07) ∧
    (∀ i ent, Turn s e g [d, a] false → d ≠ a → row.frozen = false → x.bottom e.line.tenant = some (i, ent) →
      let n := hi ent.w1 - lo ent.w1
      let c := min n (max (max row.minChunk 1) ((n + (max row.g 1 - 1)) / max row.g 1))
      (ent.w0.toNat % 4 = 0 → exec (.dqPop g d a) s = failed2 0x07) ∧
      (ent.w0.toNat % 4 = 1 → lo ent.w1 + c ≠ hi ent.w1 → ∃ t, exec (.dqPop g d a) s = .next t ∧
        took t (setNth x.deque i ⟨ent.w0, range (lo ent.w1 + c) (hi ent.w1)⟩) ent (BitVec.ofNat 64 (ent.w0.toNat % 2 ^ 56))
          (range (lo ent.w1) (lo ent.w1 + c))) ∧
      (ent.w0.toNat % 4 = 1 → lo ent.w1 + c = hi ent.w1 → ∃ t, exec (.dqPop g d a) s = .next t ∧
        took t (removeAt x.deque i) ent (BitVec.ofNat 64 (ent.w0.toNat % 2 ^ 56)) (range (lo ent.w1) (lo ent.w1 + c))) ∧
      (2 ≤ ent.w0.toNat % 4 → ∃ t, exec (.dqPop g d a) s = .next t ∧
        took t (removeAt x.deque i) ent (BitVec.ofNat 64 (ent.w0.toNat % 2 ^ 56)) ent.w1)) ∧
    (∀ i ent, Turn s e g [d, a, b] false → d ≠ a →
      (w = 0 → exec (.dqSplit g d a b) s = failed2 0x13) ∧
      (w ≠ 0 → row.frozen = true → exec (.dqSplit g d a b) s = failed2 0x0B) ∧
      (w ≠ 0 → row.frozen = false → x.bottom e.line.tenant = some (i, ent) → ent.w0.toNat % 4 = 2 →
        exec (.dqSplit g d a b) s = failed2 0x13) ∧
      (w ≠ 0 → row.frozen = false → x.bottom e.line.tenant = some (i, ent) → ent.w0.toNat % 4 = 1 →
        lo ent.w1 + w.toNat < hi ent.w1 → ∃ t, exec (.dqSplit g d a b) s = .next t ∧
        took t (setNth x.deque i ⟨ent.w0, range (lo ent.w1 + w.toNat) (hi ent.w1)⟩) ent
          (BitVec.ofNat 64 (ent.w0.toNat % 2 ^ 56)) (range (lo ent.w1) (lo ent.w1 + w.toNat))) ∧
      (w ≠ 0 → row.frozen = false → x.bottom e.line.tenant = some (i, ent) → ent.w0.toNat % 4 = 1 →
        lo ent.w1 ≤ hi ent.w1 → hi ent.w1 ≤ lo ent.w1 + w.toNat → ∃ t, exec (.dqSplit g d a b) s = .next t ∧
        took t (removeAt x.deque i) ent (BitVec.ofNat 64 (ent.w0.toNat % 2 ^ 56)) ent.w1) ∧
      (w ≠ 0 → row.frozen = false →
        (x.bottom e.line.tenant = none ∨ (x.bottom e.line.tenant = some (i, ent) ∧ ent.w0.toNat % 4 = 0)) →
        exec (.dqSplit g d a b) s = failed2 0x07))

/-- R329, R331, R335, R336, R338: steals from their issue to their result, and the configuration of a view.  The model's choice: what a
thief holds is recorded when the result is delivered to it (log 22). -/
def Obligations.Steals : Prop :=
  (∀ (s : State) (e : Env) (g : Guard) (d a b : Reg),
     let row := (s.unit e.u).dqRow e.line.tenant
     let asked (t : State) (m : Msg) : Prop := t.wire = s.wire ++ [(s.nextId, m)] ∧
       t.ctx? e.va = some ⟨{ (e.line.setPend d).setPend a with loads := e.line.loads + 1, pc := e.line.pc + 4 }, issuedBook e⟩ ∧
       OthersKept s t e.va ∧ SameMemory s t
     (Turn s e g [d, a, b] false → e.line.loads < 63 →
       (s.victims e.u (e.line.reg b) = none → ∃ t, exec (.dqSteal g d a b) s = .next t ∧
         asked t (.stealResult e.va e.u d a 0x13 0 none)) ∧
       (s.victims e.u (e.line.reg b) = some [] → ∃ t, exec (.dqSteal g d a b) s = .next t ∧
         asked t (.stealResult e.va e.u d a 0x07 0 none)) ∧
       (∀ v vs, s.victims e.u (e.line.reg b) = some (v :: vs) → ∃ t, exec (.dqSteal g d a b) s = .next t ∧
         asked t (.steal ⟨e.u, e.line.tenant, some (e.va, d, a), none, v :: vs, false⟩))) ∧
     (Turn s e g [a] false → ∃ t, exec (.dqCfg g a) s = .next t ∧
       (t.unit e.u).dqRow e.line.tenant = ⟨row.frozen, (e.line.reg a).toNat / 2 ^ 32 % 2 ^ 8, (e.line.reg a).toNat % 2 ^ 32⟩ ∧
       t.ctx? e.va = some ⟨e.line.advance, issuedBook e⟩ ∧ CtxsKept s t e.va ∧ SameMemory s t ∧ t.wire = s.wire) ∧
     (Turn s e g [] false → ∃ t, exec (.dqCfgThaw g) s = .next t ∧
       (t.unit e.u).dqRow e.line.tenant = { row with frozen := false } ∧
       t.ctx? e.va = some ⟨e.line.advance, issuedBook e⟩ ∧ CtxsKept s t e.va ∧ SameMemory s t ∧ t.wire = s.wire) ∧
     (Turn s e g [d] false → exec (.dqCfgGet g d) s = .next (retired s e (e.line.setReg d (BitVec.ofNat 64
       (((s.unit e.u).deque.filter (fun n => decide (n.w0.toNat / 2 ^ 56 = e.line.tenant))).length * 2 ^ 41 +
         (if row.frozen then 2 ^ 40 else 0) + row.g * 2 ^ 32 + row.minChunk))).advance))) ∧
  (∀ (s : State) (id : Nat) (rq : StealReq) (v va : Nat) (d a : Reg) (rest : List (Nat × Nat)),
     (s.msg? id = some (.steal rq) → rq.ctx = some (va, d, a) → rq.victims = (s.device, v) :: rest → (s.unit v).boundaryDone = false →
       let frozen := ((s.unit v).dqRow rq.tenant).frozen
       ((frozen = true ∨ (s.unit v).top rq.tenant = none) → rest = [] → ∃ t n, exec (.stealAtVictim id) s = .next t ∧
         t.wire = Assoc.erase s.wire id ++ [(n, .stealResult va rq.unit d a (if rq.frozen || frozen then 0x0B else 0x07) 0 none)] ∧
         t.units = s.units) ∧
       ((frozen = true ∨ (s.unit v).top rq.tenant = none) → rest ≠ [] → ∃ t n, exec (.stealAtVictim id) s = .next t ∧
         t.wire = Assoc.erase s.wire id ++ [(n, .steal { rq with victims := rest, frozen := rq.frozen || frozen })] ∧
         t.units = s.units) ∧
       (∀ i ent, frozen = false → (s.unit v).top rq.tenant = some (i, ent) → ent.w0.toNat % 4 = 1 →
         ent.w1.toNat % 2 ^ 32 + 1 < ent.w1.toNat / 2 ^ 32 → ∃ t n, exec (.stealAtVictim id) s = .next t ∧
         let lo := ent.w1.toNat % 2 ^ 32
         let hi := ent.w1.toNat / 2 ^ 32
         let m := hi - (hi - lo + 1) / 2
         (t.unit v).deque = setNth (s.unit v).deque i ⟨ent.w0, BitVec.ofNat 64 (m * 2 ^ 32 + lo)⟩ ∧
         t.wire = Assoc.erase s.wire id ++ [(n, .stealResult va rq.unit d a (BitVec.ofNat 64 (ent.w0.toNat % 2 ^ 56))
           (BitVec.ofNat 64 (hi * 2 ^ 32 + m)) (some ent))]) ∧
       (∀ i ent, frozen = false → (s.unit v).top rq.tenant = some (i, ent) →
         (2 ≤ ent.w0.toNat % 4 ∨ (ent.w0.toNat % 4 = 1 ∧ ent.w1.toNat / 2 ^ 32 = ent.w1.toNat % 2 ^ 32 + 1)) →
         ∃ t n, exec (.stealAtVictim id) s = .next t ∧ (t.unit v).deque = removeAt (s.unit v).deque i ∧
         t.wire = Assoc.erase s.wire id ++ [(n, .stealResult va rq.unit d a (BitVec.ofNat 64 (ent.w0.toNat % 2 ^ 56)) ent.w1
           (some ent))])) ∧
     (∀ u w0 w1 w2 w3 taken c, s.msg? id = some (.stealResult va u d a w0 w1 taken) → s.ctx? va = some c → c.line.st = .ready →
       ∃ t, exec (.stealResultDelivery id w2 w3) s = .next t ∧ t.ctx? va = some { c with line :=
         { (((c.line.setReg d w0).setReg a w1).clearPend d).clearPend a with loads := c.line.loads - 1 } } ∧
         t.wire = Assoc.erase s.wire id ∧ ∀ ent, taken = some ent → Assoc.get (t.unit u).holding va = some ent))

/-- R343 to R345, R169: STG.PUSH and STG.POP park with wait kind 7, RING.PUSH and RING.POP with kind 3, their operation on its way to
the ring, which for RING.PUSH and RING.POP counts in TILES (R143); STG.STAT makes gd pending with SLOTS, TAIL and HEAD on the way to
it. -/
def Obligations.RingInstructions : Prop :=
  ∀ (s : State) (e : Env) (g : Guard) (d a : Reg) (ring : TileRef), NothingToRepair s →
    (∀ b r, Turn s e g [a, b] false → CanPark s e → s.handleAt e (e.line.reg a) [2] = .ok ring → e.line.loads = 0 →
      e.line.stores = 0 → ∃ t, exec (.stgPush g a b r) s = .next t ∧ Parked s t e (.stage ring.handle) ∧
      Sent s t e.u (.ringOp ⟨.ctx e.va, e.u, true, true, ring, none, e.line.reg b, a, r, s.nextId⟩) ∧ OthersKept s t e.va ∧
      SameMemory s t) ∧
    (∀ r, Turn s e g [d, a] false → CanPark s e → s.handleAt e (e.line.reg a) [2] = .ok ring → e.line.loads = 0 →
      e.line.stores = 0 → ∃ t, exec (.stgPop g d a r) s = .next t ∧ Parked s t e (.stage ring.handle) ∧
      Sent s t e.u (.ringOp ⟨.ctx e.va, e.u, false, true, ring, none, e.line.reg a, d, r, s.nextId⟩) ∧ OthersKept s t e.va ∧
      SameMemory s t) ∧
    (Turn s e g [d, a] false → s.handleAt e (e.line.reg a) [2] = .ok ring → e.line.loads < 63 →
      ∃ t, exec (.stgStat g d a) s = .next t ∧
      t.ctx? e.va = some ⟨{ e.line.setPend d with loads := e.line.loads + 1, pc := e.line.pc + 4 }, issuedBook e⟩ ∧
      Sent s t e.u (.load e.va d (BitVec.ofNat 64
        (ring.slots * 2 ^ 40 + (s.ringPos ring).2 * 2 ^ 16 + (s.ringPos ring).1)) false) ∧ OthersKept s t e.va ∧
      SameMemory s t) ∧
    (∀ tile, Turn s e g [d, a] false → CanPark s e → e.line.tiles < 63 → s.handleAt e (e.line.reg d) [2] = .ok ring →
      s.handleAt e (e.line.reg a) [1] = .ok tile → tile.dim = ring.dim → tile.fmt = ring.fmt →
      ∃ t, exec (.ringPush g d a) s = .next t ∧
      Parked s t { e with line := { e.line with tiles := e.line.tiles + 1 } } (.ring ring.handle) ∧
      Sent s t e.u (.ringOp ⟨.ctx e.va, e.u, true, false, ring, some tile, 0, d, .device, s.nextId⟩) ∧ OthersKept s t e.va ∧
      SameMemory s t) ∧
    (∀ tile, Turn s e g [d, a] false → CanPark s e → e.line.tiles < 63 → s.handleAt e (e.line.reg a) [2] = .ok ring →
      s.handleAt e (e.line.reg d) [1] = .ok tile → tile.dim = ring.dim → tile.fmt = ring.fmt →
      ∃ t, exec (.ringPop g d a) s = .next t ∧
      Parked s t { e with line := { e.line with tiles := e.line.tiles + 1 } } (.ring ring.handle) ∧
      Sent s t e.u (.ringOp ⟨.ctx e.va, e.u, false, false, ring, some tile, 0, d, .device, s.nextId⟩) ∧ OthersKept s t e.va ∧
      SameMemory s t)

/-! ## Tile, matrix and attention instructions (07_tile_isa) -/

/-- R143, R147 to R166, R170 to R183: a tile instruction whose operands pass their checks counts in TILES, moves CTX.PC on, makes gd
pending where it delivers a value, and becomes an operation of its context with the operands captured; nothing else of memory or
of another context changes.  The matrix, accumulator and attention instructions are issued so where their context owns the
accumulator and no hold and no latched step keeps them.  HND.NEW and HND.NEW.PAIR have at issue what their operation leaves in
the entry, the scratchpad and the free list, and a free list without an entry gives 0 and changes nothing: that they take it at
issue is the model's choice (log 81). -/
def Obligations.TileInstructionsIssue : Prop :=
  ∀ (s : State) (e : Env) (g : Guard) (d a b : Reg), e.line.tiles < 63 → NothingToRepair s →
    let issuesWith (i : Instr) (pend : Option Reg) (k : TileKind) (pairs : List Nat) : Prop := ∃ t n, exec i s = .next t ∧
      t.ctx? e.va = some ⟨{ (match pend with | some r => e.line.setPend r | none => e.line) with
        tiles := e.line.tiles + 1, pc := e.line.pc + 4 }, issuedBook e⟩ ∧
      t.tileOps = s.tileOps ++ [⟨n, e.va, e.u, e.slot, e.line.tenant, e.line.round, k, pairs⟩] ∧
      OthersKept s t e.va ∧ SameMemory s t ∧ t.wire = s.wire
    let issues (i : Instr) (pend : Option Reg) (k : TileKind) : Prop := issuesWith i pend k []
    let tile (r : Reg) (t : TileRef) : Prop := s.handleAt e (e.line.reg r) [1] = .ok t
    (∀ td ta tb, Turn s e g [d, a, b] false → tile d td → tile a ta → tile b tb → td.dim = ta.dim → td.dim = tb.dim →
      td.fmt ≤ 5 → ta.fmt ≤ 5 → tb.fmt ≤ 5 → floatFmt td.fmt = floatFmt ta.fmt → floatFmt ta.fmt = floatFmt tb.fmt →
      issues (.tadd g d a b) none (.bin .add td ta tb) ∧ issues (.tsub g d a b) none (.bin .sub td ta tb) ∧
      issues (.tmul g d a b) none (.bin .mul td ta tb) ∧ issues (.tmax g d a b) none (.bin .max td ta tb) ∧
      (floatFmt td.fmt = true → tb.fmt = 0 → issues (.tscaleRdiv g d a b) none (.rdiv td ta tb))) ∧
    (∀ td ta, Turn s e g [d, a, b] false → tile d td → tile a ta → td.dim = ta.dim → floatFmt td.fmt = true →
      floatFmt ta.fmt = true → issues (.tscale g d a b) none (.scale td ta (e.line.reg b))) ∧
    (∀ td ta, Turn s e g [d, a] false → tile d td → tile a ta → td.dim = ta.dim →
      (floatFmt td.fmt = true → floatFmt ta.fmt = true → issues (.texp g d a) none (.exp td ta)) ∧
      (td.fmt ≤ 5 → ta.fmt ≤ 5 → floatFmt td.fmt = floatFmt ta.fmt → ∀ acc col,
        issues (.trsum g d a acc col) none (.reduce false acc col td ta) ∧
        issues (.trmax g d a acc col) none (.reduce true acc col td ta)) ∧
      (td.fmt ≤ 5 → ta.fmt ≤ 5 → issues (.tcvt g d a) none (.cvt td ta)) ∧
      (td.fmt ≤ 5 ∨ td.fmt = 8 → ta.fmt = td.fmt → issues (.ttrans g d a) none (.trans td ta))) ∧
    (∀ td, Turn s e g [d, a] false → tile d td → issues (.tfill g d a) none (.fill td (e.line.reg a))) ∧
    (∀ ta, Turn s e g [d, a, b] false → tile a ta →
      let n := (e.line.reg b).toNat % (tileBytes ta.fmt ta.dim / 8)
      issues (.tget g d a b) (some d) (.get d ta n) ∧ issues (.tset g d a b) none (.set ta n (e.line.reg d))) ∧
    (∀ p dt sz t, Turn s e g [d, a] false → s.handleAt e (e.line.reg d) [3] = .ok p → s.pairOf e p = .ok (dt, sz) →
      tile a t → floatFmt t.fmt = true → t.dim = dt.dim →
      issuesWith (.tq g d a) none (.quant false dt sz t) [p.entry] ∧
      issuesWith (.tqAuto g d a) none (.quant true dt sz t) [p.entry]) ∧
    (∀ p dt sz t, Turn s e g [d, a] false → s.handleAt e (e.line.reg a) [3] = .ok p → s.pairOf e p = .ok (dt, sz) →
      tile d t → floatFmt t.fmt = true → t.dim = dt.dim →
      issuesWith (.tdq g d a) none (.dequant t dt sz) [p.entry]) ∧
    (∀ r, Turn s e g [d, a] false → s.handleAt e (e.line.reg a) [2] = .ok r → issues (.ringStat g d a) (some d) (.ringStat d r)) ∧
    (let makes (i : Instr) (head : Option Head) (r : State × W64) (pairs : List Nat) : Prop :=
      (head = none → r.2 = 0 ∧ r.1.mem = s.mem ∧ r.1.scratch = s.scratch ∧ r.1.tenants = s.tenants) ∧
      (NothingToRepair r.1 → ∃ t n, exec i s = .next t ∧
        t.ctx? e.va = some ⟨{ e.line.setPend d with tiles := e.line.tiles + 1, pc := e.line.pc + 4 }, issuedBook e⟩ ∧
        t.tileOps = s.tileOps ++ [⟨n, e.va, e.u, e.slot, e.line.tenant, e.line.round, .hndNew d r.2, pairs⟩] ∧
        t.mem = r.1.mem ∧ t.scratch = r.1.scratch ∧ t.tenants = r.1.tenants ∧ CtxsKept s t e.va ∧ t.wire = s.wire ∧
        ∀ p, (∀ h, head = some h → p < h.pa ∨ h.pa + 32 ≤ p) → Memory.read t.mem p = Memory.read s.mem p)
    (∀ s1 head, Turn s e g [d, a, b] false → s.freeEntry e = .ok (s1, head) →
      makes (.hndNew g d a b) head (s1.makeHandle e.line.tenant head (e.line.reg a) (s.placement e.u (e.line.reg b))) []) ∧
    ∀ ta tb s1 head, Turn s e g [d, a, b] false → s.freeEntry e = .ok (s1, head) → tile a ta → tile b tb → ta.dim = tb.dim →
      ta.fmt = 6 ∨ ta.fmt = 7 → tb.fmt = 8 →
      makes (.hndNewPair g d a b) head (s1.makePair e.line.tenant head ta tb) [ta.entry, tb.entry]) ∧
    (∀ t, Turn s e g [a] false → s.handleAt e (e.line.reg a) [1, 2, 3] = .ok t → issues (.hndFree g a) none (.hndFree t)) ∧
    (∀ t, Turn s e g [d, a] false → s.checkHandle e.u e.line.tenant (e.line.reg a) [1, 2, 3] = .ok t →
      let w := (Memory.dword s.mem t.entry).toNat
      issues (.hndInfo g d a) (some d) (.hndInfo d (BitVec.ofNat 64 (w / 2 ^ 48 * 2 ^ 48 + w / 2 ^ 32 % 2 ^ 8 * 2 ^ 32 +
        w / 2 ^ 8 % 2 ^ 6 * 2 ^ 8 + w % 2 ^ 6 / 2 ^ 4 * 2 ^ 4 + w % 4)))) ∧
    (Turn s e g [d, a] false → s.checkHandle e.u e.line.tenant (e.line.reg a) [1, 2, 3] = .error .invalid →
      issues (.hndInfo g d a) (some d) (.hndInfo d 0)) ∧
    let x := s.unit e.u
    let page (r : Reg) : Nat := (e.line.reg r).toNat % 2 ^ 56
    let free (r : Reg) : Prop := page r % 256 = 0 ∧ (page r, e.line.tenant) ∉ s.pagesUnder
    let run (r : Reg) (fmts : List Nat) (ts : List TileRef) : Prop :=
      s.runAt e (e.line.reg r) [1] (fun i t => t.dim == 32 && fmts[i]? == some t.fmt) fmts.length = .ok ts
    let goes (i : Instr) : Prop := ∃ t l, exec i s = .next t ∧ t.ctx? e.va = some ⟨l, issuedBook e⟩ ∧
      l.tiles = e.line.tiles + 1 ∧ l.pc = e.line.pc + 4 ∧ CtxsKept s t e.va ∧ SameMemory s t
    (x.accHold = [] → x.accOwn = e.va →
      (∀ ta tb, Turn s e g [a, b] false → Assoc.get x.latch e.slot = none → tile a ta →
        s.handleAt e (e.line.reg b) [1, 3] = .ok tb → ta.dim = 32 → tb.dim = 32 →
        (tb.kind = 1 ∧ ta.fmt = tb.fmt ∧ ta.fmt ≤ 2 ∨
          (∃ as bs, tb.kind = 1 ∧ ta.fmt = 5 ∧ tb.fmt = 5 ∧ run a [5, 5] as ∧ run b [5, 5] bs) ∨
          ∃ as bs zs ps n, tb.kind = 3 ∧ ta.fmt = 5 ∧ (tb.fmt = 6 ∧ n = 2 ∨ tb.fmt = 7 ∧ n = 4) ∧
            run a (List.replicate n 5) as ∧ s.pairRunAt e (e.line.reg b) tb.fmt n = .ok (bs, zs, ps)) →
        goes (.tmma g a b 0) ∧ goes (.tmmaZ g a b 0)) ∧
      (∀ (q : BitVec 2) t, Turn s e g [a] false → tile a t → t.fmt ≤ 5 → (t.dim = 32 → q = 0) →
        (∀ int, goes (.accSt g a int q)) ∧ goes (.accLd g a q)) ∧
      (∀ m, Turn s e g [a] false → page a % 64 = 0 →
        (s.spans e (page a) 4096 accWrite = .ok m → goes (.accStRaw g a)) ∧
        (s.spans e (page a) 4096 accRead = .ok m → goes (.accLdRaw g a))) ∧
      (Turn s e g [] false → goes (.accZ g)) ∧
      (∀ q m, Turn s e g [a, b] false → Assoc.get x.latch e.slot = none → run a [1, 1, 1, 1] q → free b →
        s.spans e (page b) 16640 accRead = .ok m → goes (.attnQk g a b)) ∧
      (∀ i st gt, Turn s e g [d, a, b] false → run d [0, 1] st → run a [0] [gt] → free b → goes (.attnSm g d a b i)) ∧
      (∀ o st m, Turn s e g [d, a, b] false → Assoc.get x.latch e.slot = none → run d [0, 0, 0, 0] o → run a [0, 1] st →
        free b → s.spans e (page b) 16640 accRead = .ok m → goes (.attnPv g d a b)) ∧
      (∀ n gt st, Turn s e g [d, a] false → run d [0] [gt] → run a [0, 1] st → goes (.attnClose g d a n))) ∧
    (Turn s e g [a] false → exec (.accOwn g a) s = .next (retired s e (e.line.setReg a (BitVec.ofNat 64 x.accOwn)).advance)) ∧
    (Turn s e g [a] false → e.line.priv = true → x.matrixIdle = true → x.accHold = [] →
      (∀ o ∈ s.tileOps, o.ctx = e.va → o.unit = e.u → o.kind.touches.acc = false) → ∃ t, exec (.accOwnSet g a) s = .next t ∧
      (t.unit e.u).accOwn = page a ∧ t.ctx? e.va = some ⟨e.line.advance, issuedBook e⟩ ∧ CtxsKept s t e.va ∧ SameMemory s t) ∧
    (∀ j m, Turn s e g [d, a] false → free a → s.spans e (addVa (page a) (0x4000 + 8 * j.toNat)) 8 accRead = .ok m →
      goes (.kvMass g d a j)) ∧
    (∀ s1 s2 bs ls, Turn s e g [d, a, b] false → page a % 64 = 0 → s.issueBytes e (page a) 64 = .ok (s1, bs) →
      let word (i : Nat) : Nat := ofBytes ((bs.drop (8 * i)).take 8)
      s1.issueBytes e (word 1 % 2 ^ 56) 4 = .ok (s2, ls) → (addVa (word 0) (ofBytes ls * 16640), e.line.tenant) ∉ s.pagesUnder →
      word 3 % 2 ^ 32 ≤ (e.line.reg b).toNat → goes (.kvMap g d a b))

/-- R20, R28, R36, R142, R143, R161, R166: the traps of handles and of the accumulator, the wait for the accumulator, and the turn of a
tile or ring instruction that finds TILES at 63, which is wasted, and parks the context when it is the fourth. -/
def Obligations.TileChecksTrap : Prop :=
  (∀ (s : State) (e : Env) (g : Guard) (d a b : Reg) (k q : BitVec 2),
     let trap (r : Reg) : Out := .next (trapped s e 0x0F (e.line.reg r))
     let bad (r : Reg) (kinds : List Nat) : Prop := s.checkHandle e.u e.line.tenant (e.line.reg r) kinds = .error .invalid
     (Turn s e g [d, a, b] false → bad d [1] → ∀ i ∈ [Instr.tadd g d a b, .tsub g d a b, .tmul g d a b, .tmax g d a b,
       .tscale g d a b, .tscaleRdiv g d a b], exec i s = trap d) ∧
     (Turn s e g [d, a] false → bad d [1] → ∀ i ∈ [Instr.texp g d a, .tcvt g d a, .ttrans g d a, .tfill g d a, .tdq g d a,
       .ringPop g d a], exec i s = trap d) ∧
     (Turn s e g [d, a, b] false → bad a [1] → ∀ i ∈ [Instr.tget g d a b, .tset g d a b, .hndNewPair g d a b], exec i s = trap a) ∧
     (Turn s e g [d, a] false → bad d [3] → ∀ i ∈ [Instr.tq g d a, .tqAuto g d a], exec i s = trap d) ∧
     (Turn s e g [d, a] false → bad d [2] → exec (.ringPush g d a) s = trap d) ∧
     (Turn s e g [d, a] false → bad a [2] → exec (.ringStat g d a) s = trap a ∧ exec (.stgStat g d a) s = trap a) ∧
     (Turn s e g [a] false → bad a [1, 2, 3] → exec (.hndFree g a) s = trap a) ∧
     (Turn s e g [a, b] false → (s.unit e.u).accOwn = e.va → bad a [1] →
       exec (.tmma g a b k) s = trap a ∧ exec (.tmmaZ g a b k) s = trap a) ∧
     (Turn s e g [a] false → (s.unit e.u).accOwn = e.va → bad a [1] → exec (.accLd g a q) s = trap a)) ∧
  (∀ (s : State) (e : Env) (g : Guard) (d a b : Reg) (k q : BitVec 2) (i4 : BitVec 4) (int : Bool),
     (s.unit e.u).accOwn ≠ e.va →
     let trap : Out := .next (trapped s e 0x0B (BitVec.ofNat 64 (s.unit e.u).accOwn))
     (Turn s e g [a, b] false → exec (.tmma g a b k) s = trap ∧ exec (.tmmaZ g a b k) s = trap ∧ exec (.attnQk g a b) s = trap) ∧
     (Turn s e g [d, a, b] false → exec (.attnSm g d a b i4) s = trap ∧ exec (.attnPv g d a b) s = trap) ∧
     (e.line.priv = false → Turn s e g [a] false →
       exec (.accSt g a int q) s = trap ∧ exec (.accStRaw g a) s = trap ∧ exec (.accLd g a q) s = trap ∧
       exec (.accLdRaw g a) s = trap) ∧
     (e.line.priv = false → Turn s e g [] false → exec (.accZ g) s = trap)) ∧
  (∀ (s : State) (e : Env) (g : Guard) (a : Reg), Turn s e g [a] false → CanPark s e → e.line.priv = true →
     (s.unit e.u).accOwn ≠ e.va → (s.unit e.u).matrixIdle = false →
     (∃ t, exec (.accOwnSet g a) s = .next t ∧ Parked s t e (.acc e.u) ∧ e.va ∈ (t.unit e.u).accHold ∧
       (t.unit e.u).accOwn = (s.unit e.u).accOwn ∧ OthersKept s t e.va ∧ SameMemory s t) ∧
     ∃ t, exec (.accZ g) s = .next t ∧ Parked s t e (.acc e.u) ∧ e.va ∈ (t.unit e.u).accHold ∧ t.tileOps = s.tileOps) ∧
  ∀ (s : State) (e : Env) (g : Guard) (d a b : Reg) (x : TileRef), e.line.tiles = 63 →
    let full (i : Instr) : Prop :=
      (e.book.wasted < 3 → exec i s = .next (s.setCtx e.va ⟨e.line, { e.book with wasted := e.book.wasted + 1 }⟩)) ∧
      (e.book.wasted = 3 → CanPark s e → ∃ t, exec i s = .next t ∧ Parked s t e (.counters 0x7E000000) ∧ OthersKept s t e.va ∧
        SameMemory s t ∧ t.wire = s.wire ∧ t.tileOps = s.tileOps)
    (Turn s e g [d, a] false → s.handleAt e (e.line.reg d) [1] = .ok x → full (.tfill g d a)) ∧
    (Turn s e g [d, a, b] false → s.handleAt e (e.line.reg a) [1] = .ok x → full (.tget g d a b) ∧ full (.tset g d a b)) ∧
    (Turn s e g [d, a] false → s.handleAt e (e.line.reg a) [2] = .ok x → full (.ringStat g d a)) ∧
    (Turn s e g [a] false → s.handleAt e (e.line.reg a) [1, 2, 3] = .ok x → full (.hndFree g a)) ∧
    (∀ ring, x.dim = ring.dim → x.fmt = ring.fmt → Turn s e g [d, a] false →
      (s.handleAt e (e.line.reg d) [2] = .ok ring → s.handleAt e (e.line.reg a) [1] = .ok x → full (.ringPush g d a)) ∧
      (s.handleAt e (e.line.reg a) [2] = .ok ring → s.handleAt e (e.line.reg d) [1] = .ok x → full (.ringPop g d a)))

/-- R157 to R166: TMMA puts its step into the free latch of its slot, in each of its four classes; an accumulator instruction is
issued as a tile operation where the matrix unit is idle or its context owns the accumulator. -/
def Obligations.MatrixInstructionsIssue : Prop :=
  ∀ (s : State) (e : Env) (g : Guard) (a b : Reg) (k q : BitVec 2), e.line.tiles < 63 →
    (s.unit e.u).accHold = [] → NothingToRepair s →
    let issues (i : Instr) (kind : TileKind) : Prop := ∃ t n, exec i s = .next t ∧
      t.ctx? e.va = some ⟨{ e.line with tiles := e.line.tiles + 1, pc := e.line.pc + 4 }, issuedBook e⟩ ∧
      t.tileOps = s.tileOps ++ [⟨n, e.va, e.u, e.slot, e.line.tenant, e.line.round, kind, []⟩] ∧
      OthersKept s t e.va ∧ SameMemory s t
    let latchedWith (i : Instr) (kind : TileKind) (pairs : List Nat) : Prop := ∃ t n, exec i s = .next t ∧
      t.ctx? e.va = some ⟨{ e.line with tiles := e.line.tiles + 1, pc := e.line.pc + 4 }, issuedBook e⟩ ∧
      t.tileOps = s.tileOps ++ [⟨n, e.va, e.u, e.slot, e.line.tenant, e.line.round, kind, pairs⟩] ∧
      Assoc.get (t.unit e.u).latch e.slot = some ⟨n, 1⟩ ∧ OthersKept s t e.va ∧ SameMemory s t
    let latched (i : Instr) (kind : TileKind) : Prop := latchedWith i kind []
    (∀ ta tb cls, Turn s e g [a, b] false → (s.unit e.u).accOwn = e.va → Assoc.get (s.unit e.u).latch e.slot = none →
      s.handleAt e (e.line.reg a) [1] = .ok ta → s.handleAt e (e.line.reg b) [1, 3] = .ok tb → ta.dim = 32 → tb.dim = 32 →
      tb.kind = 1 → (cls = .f16 ∧ (ta.fmt = 1 ∧ tb.fmt = 1 ∨ ta.fmt = 2 ∧ tb.fmt = 2) ∧ k = 0 ∨
        cls = .f32 ∧ ta.fmt = 0 ∧ tb.fmt = 0) →
      latched (.tmma g a b k) (.mma false cls k.toNat [ta] [tb] []) ∧ latched (.tmmaZ g a b k) (.mma true cls k.toNat [ta] [tb] [])) ∧
    (∀ ta tb as bs, Turn s e g [a, b] false → (s.unit e.u).accOwn = e.va → Assoc.get (s.unit e.u).latch e.slot = none →
      s.handleAt e (e.line.reg a) [1] = .ok ta → s.handleAt e (e.line.reg b) [1, 3] = .ok tb → ta.dim = 32 → tb.dim = 32 →
      tb.kind = 1 → ta.fmt = 5 → tb.fmt = 5 → k = 0 →
      s.runAt e (e.line.reg a) [1] (fun _ t => t.dim == 32 && t.fmt == 5) 2 = .ok as →
      s.runAt e (e.line.reg b) [1] (fun _ t => t.dim == 32 && t.fmt == 5) 2 = .ok bs →
      latched (.tmma g a b k) (.mma false .int 0 as bs []) ∧ latched (.tmmaZ g a b k) (.mma true .int 0 as bs [])) ∧
    (∀ ta tb as bs zs ps n, Turn s e g [a, b] false → (s.unit e.u).accOwn = e.va → Assoc.get (s.unit e.u).latch e.slot = none →
      s.handleAt e (e.line.reg a) [1] = .ok ta → s.handleAt e (e.line.reg b) [1, 3] = .ok tb → ta.dim = 32 → tb.dim = 32 →
      tb.kind = 3 → ta.fmt = 5 → (tb.fmt = 6 ∧ n = 2 ∨ tb.fmt = 7 ∧ n = 4) → k = 0 →
      s.runAt e (e.line.reg a) [1] (fun _ t => t.dim == 32 && t.fmt == 5) n = .ok as →
      s.pairRunAt e (e.line.reg b) tb.fmt n = .ok (bs, zs, ps) →
      latchedWith (.tmma g a b k) (.mma false .grouped 0 as bs zs) ps ∧
      latchedWith (.tmmaZ g a b k) (.mma true .grouped 0 as bs zs) ps) ∧
    (∀ t, Turn s e g [a] false → (s.unit e.u).accOwn = e.va → s.handleAt e (e.line.reg a) [1] = .ok t → t.fmt ≤ 5 →
      (t.dim = 32 → q = 0) →
      (∀ int, issues (.accSt g a int q) (.accSt t int q.toNat)) ∧ issues (.accLd g a q) (.accLd t q.toNat)) ∧
    (∀ m, Turn s e g [a] false → (s.unit e.u).accOwn = e.va → (e.line.reg a).toNat % 64 = 0 →
      (s.spans e ((e.line.reg a).toNat % 2 ^ 56) 4096 accWrite = .ok m → issues (.accStRaw g a) (.accStRaw m)) ∧
      (s.spans e ((e.line.reg a).toNat % 2 ^ 56) 4096 accRead = .ok m → issues (.accLdRaw g a) (.accLdRaw m))) ∧
    (Turn s e g [] false → (s.unit e.u).accOwn = e.va → issues (.accZ g) .accZ) ∧
    (Turn s e g [a] false → exec (.accOwn g a) s =
      .next (retired s e (e.line.setReg a (BitVec.ofNat 64 (s.unit e.u).accOwn)).advance)) ∧
    (Turn s e g [a] false → e.line.priv = true →
      let pending : Prop := ∃ o ∈ s.tileOps, o.ctx = e.va ∧ o.unit = e.u ∧ o.kind.touches.acc = true
      ((s.unit e.u).matrixIdle = true → ¬ pending → ∃ t, exec (.accOwnSet g a) s = .next t ∧
        (t.unit e.u).accOwn = (e.line.reg a).toNat % 2 ^ 56 ∧
        t.ctx? e.va = some ⟨e.line.advance, issuedBook e⟩ ∧ CtxsKept s t e.va ∧ SameMemory s t) ∧
      ((s.unit e.u).matrixIdle = true → pending → exec (.accOwnSet g a) s = .next s) ∧
      ((s.unit e.u).matrixIdle = false → (s.unit e.u).accOwn = e.va → exec (.accOwnSet g a) s = .next s))

/-- R176 to R183: the attention and key-value instructions at their issue, with the tiles and the page that they name captured; QK
and PV put four steps into the latch of the slot.  The model's choice: KV.MAP captures its value as it issues (log 26) and reads
page list[0] of its descriptor in every case (log 76). -/
def Obligations.AttentionInstructionsIssue : Prop :=
  ∀ (s : State) (e : Env) (g : Guard) (d a b : Reg), e.line.tiles < 63 → (s.unit e.u).accHold = [] → NothingToRepair s →
    let issues (i : Instr) (pend : Option Reg) (kind : TileKind) (steps : Nat) : Prop := ∃ t n, exec i s = .next t ∧
      t.ctx? e.va = some ⟨{ (match pend with | some r => e.line.setPend r | none => e.line) with
        tiles := e.line.tiles + 1, pc := e.line.pc + 4 }, issuedBook e⟩ ∧
      t.tileOps = s.tileOps ++ [⟨n, e.va, e.u, e.slot, e.line.tenant, e.line.round, kind, []⟩] ∧
      (0 < steps → Assoc.get (t.unit e.u).latch e.slot = some ⟨n, steps⟩) ∧ OthersKept s t e.va ∧ SameMemory s t
    let run (r : Reg) (fmts : List Nat) (ts : List TileRef) : Prop :=
      s.runAt e (e.line.reg r) [1] (fun i t => t.dim == 32 && fmts[i]? == some t.fmt) fmts.length = .ok ts
    let page (r : Reg) : Nat := (e.line.reg r).toNat % 2 ^ 56
    let free (r : Reg) : Prop := page r % 256 = 0 ∧ (page r, e.line.tenant) ∉ s.pagesUnder
    let owner : Prop := (s.unit e.u).accOwn = e.va
    let latch : Prop := Assoc.get (s.unit e.u).latch e.slot = none
    (∀ q m, Turn s e g [a, b] false → owner → latch → run a [1, 1, 1, 1] q → free b →
      s.spans e (page b) 16640 accRead = .ok m → issues (.attnQk g a b) none (.attnQk q (w64 (page b)) m) 4) ∧
    (∀ i st gt, Turn s e g [d, a, b] false → owner → run d [0, 1] st → run a [0] [gt] → free b →
      issues (.attnSm g d a b i) none (.attnSm st gt (w64 (page b)) i.toNat) 0) ∧
    (∀ o st m, Turn s e g [d, a, b] false → owner → latch → run d [0, 0, 0, 0] o → run a [0, 1] st → free b →
      s.spans e (page b) 16640 accRead = .ok m → issues (.attnPv g d a b) none (.attnPv o st (w64 (page b)) m) 4) ∧
    (∀ n gt st, Turn s e g [d, a] false → run d [0] [gt] → run a [0, 1] st →
      issues (.attnClose g d a n) none (.attnClose gt st n.toNat 0) 0) ∧
    (∀ j m, Turn s e g [d, a] false → free a → s.spans e (addVa (page a) (0x4000 + 8 * j.toNat)) 8 accRead = .ok m →
      issues (.kvMass g d a j) (some d) (.kvMass d (w64 (page a)) m) 0) ∧
    (∀ s1 s2 bs ls, Turn s e g [d, a, b] false → page a % 64 = 0 → s.issueBytes e (page a) 64 = .ok (s1, bs) →
      let word (i : Nat) : Nat := ofBytes ((bs.drop (8 * i)).take 8)
      s1.issueBytes e (word 1 % 2 ^ 56) 4 = .ok (s2, ls) →
      (addVa (word 0) (ofBytes ls * 16640), e.line.tenant) ∉ s.pagesUnder →
      (word 3 % 2 ^ 32 ≤ (e.line.reg b).toNat → issues (.kvMap g d a b) (some d) (.kvMap d (w64 (page a)) 0) 0) ∧
      ∀ s3 s4 rs ps, (e.line.reg b).toNat < word 3 % 2 ^ 32 →
        s2.issueBytes e (addVa (word 2) (4 * (e.line.reg b).toNat)) 4 = .ok (s3, rs) →
        let r := ofBytes rs
        s3.issueBytes e (addVa (word 0) (r % 2 ^ 26 * 16640 + 0x4080 + 4 * (r / 2 ^ 26 % 32))) 4 = .ok (s4, ps) →
        issues (.kvMap g d a b) (some d) (.kvMap d (w64 (page a)) (w64 (ofBytes ps * 2 ^ 32 + r))) 0)

/-! ## Engines (07_tile_isa, 10_memory_isa) -/

/-- R20, R209, R212, R270, R272: the push of one command, and what a push that cannot be made does. -/
def Obligations.EnginePushes : Prop :=
  (∀ (s : State) (e : Env) (g : Guard) (a b c d : Reg) (tri : Bool), e.line.engs < 63 → NothingToRepair s →
     let va (r : Reg) : Nat := (e.line.reg r).toNat % 2 ^ 56
     let ready (q : Nat) : Prop := s.queueUsed e.u q < 16 ∧
       (∀ k ∈ s.cmds, k.id ∈ s.fenceDeps e.book q → k.unit = e.u) ∧
       ∀ f ∈ e.book.fences, f.1.getLsbD q = true → ∀ n ∈ f.2, n < 2 ^ 48
     let pushes (i : Instr) (p30 : Option Bool) (op : EngOp) (q : Nat) (wa wb wc wd : W64) (desc : List W64) : Prop :=
       ∃ t n, exec i s = .next t ∧
       t.ctx? e.va = some ⟨{ (match p30 with | some v => e.line.setP 30 v | none => e.line) with
         engs := e.line.engs + 1, pc := e.line.pc + 4 }, issuedBook e⟩ ∧
       t.cmds = s.cmds ++ [⟨n, op, e.va, e.u, q, e.line.tenant, wa, wb, wc, wd, desc, s.fenceDeps e.book q, .queued, 0, false, none,
         [], 0, false⟩] ∧ OthersKept s t e.va ∧ SameMemory s t
     let p30 : Option Bool := if tri then some true else none
     let words (i : Instr) (op : EngOp) (q : Nat) (desc : List W64) : Prop :=
       pushes i p30 op q (e.line.reg a) (e.line.reg b) (e.line.reg c) (e.line.reg d) desc
     (Turn s e g [a, b, c, d] false → va d % 8 = 0 →
       (∀ q1, ready (if q1 then 1 else 0) → words (.copy g a b c d q1 tri) .copy (if q1 then 1 else 0) []) ∧
       (∀ q1 t, ready (if q1 then 1 else 0) → (e.line.reg c).toNat % 2 ^ 32 % 8 = 0 →
         ((e.line.reg c).getLsbD 63 = false → va a % 8 = 0 ∧ s.handleAt e (e.line.reg b) [1, 2] = .ok t) →
         ((e.line.reg c).getLsbD 63 = true → va b % 8 = 0 ∧ s.handleAt e (e.line.reg a) [1, 2] = .ok t) →
         words (.copyT g a b c d q1 tri) .copyT (if q1 then 1 else 0) [w64 t.dim]) ∧
       (ready 3 → words (.streamClose g a b c d tri) .streamClose 3 []) ∧
       (ready 3 → va a % 64 = 0 → words (.graphLoad g a b c d tri) (.graphLoad false) 3 [] ∧
         words (.graphLoadF g a b c d tri) (.graphLoad true) 3 [] ∧ words (.streamOpen g a b c d tri) .streamOpen 3 []) ∧
       (∀ s1 bs, s.issueBytes e (va a) 64 = .ok (s1, bs) → va a % 64 = 0 →
         (ready 2 → va b % 2 ^ ((e.line.reg c).toNat % 4) = 0 →
           words (.gath g a b c d tri) .gath 2 (toWords bs) ∧ words (.gathii g a b c d tri) .gathii 2 (toWords bs) ∧
           words (.scat g a b c d tri) .scat 2 (toWords bs)) ∧
         (ready 4 → va b % 4 = 0 →
           words (.collAr g a b c d tri) .collAr 4 (toWords bs) ∧ words (.collBc g a b c d tri) .collBc 4 (toWords bs)))) ∧
     (Turn s e g [d, a, b] false → ready 5 → va a % 64 = 0 → va d % 8 = 0 → e.line.tiles = 0 →
       pushes (.kvEvict g d a b) none .kvEvict 5 (e.line.reg a) (e.line.reg b) 0 (e.line.reg d) []) ∧
     (∀ s1 bs, Turn s e g [a] false → ready 6 → va a % 8 = 0 → s.issueBytes e (va a) 32 = .ok (s1, bs) →
       let w (i : Nat) : W64 := nth (toWords bs) i 0
       (w 3).toNat % 8 = 0 → pushes (.cpf g a) none .cpf 6 (w 0) (w 1) (w 2) (w 3) [])) ∧
  (∀ (s : State) (e : Env) (g : Guard) (a b c d : Reg) (q1 : Bool), Turn s e g [a, b, c, d] false →
     (e.line.reg d).toNat % 8 = 0 →
     let q := if q1 then 1 else 0
     let foreign : Prop := (∃ k ∈ s.cmds, k.id ∈ s.fenceDeps e.book q ∧ k.unit ≠ e.u) ∨
       ∃ f ∈ e.book.fences, f.1.getLsbD q = true ∧ ∃ n ∈ f.2, 2 ^ 48 ≤ n
     ((foreign ∨ 63 ≤ e.line.engs ∨ 16 ≤ s.queueUsed e.u q) →
       exec (.copy g a b c d q1 true) s = .next (retired s e (e.line.setP 30 false).advance)) ∧
     ((foreign ∨ 63 ≤ e.line.engs) → e.book.wasted < 3 → ∃ t, exec (.copy g a b c d q1 false) s = .next t ∧
       t.ctx? e.va = some ⟨e.line, { e.book with wasted := e.book.wasted + 1 }⟩ ∧ OnlyLine s t e.va) ∧
     (¬ foreign → e.line.engs < 63 → 16 ≤ s.queueUsed e.u q → CanPark s e → ∃ t, exec (.copy g a b c d q1 false) s = .next t ∧
       Parked s t e (.queue q) ∧ t.cmds = s.cmds ∧ OthersKept s t e.va ∧ SameMemory s t))

/-- R212, R235 to R237, R248, R259, R276, R287: pin windows, fences and waits.  A PIN of a reserved form, or of a window in which a
page is TRANSFORMED, is refused with p30 = 0.  The model's choice: PIN looks up the pages of its window as it issues, and a window with
a TRANSFORMED page is refused as one of a reserved form is (log 19). -/
def Obligations.PinsFencesAndWaits : Prop :=
  (∀ (s s1 : State) (e : Env) (g : Guard) (a v : Reg) (bs : List Byte),
     let w (i : Nat) : W64 := nth (toWords bs) i 0
     let m := e.line.reg v
     let num := (w 2).toNat % 16
     let refuses (t : State) : Prop := exec (.pin g a v) s = .next t ∧ t.ctx? e.va =
       some ⟨(e.line.setP 30 false).advance, { issuedBook e with absent := [], found := [] }⟩ ∧ t.cmds = s.cmds ∧ t.tenants = s.tenants
     (Turn s e g [a, v] false → (e.line.reg a).toNat % 8 = 0 →
       s.issueBytes e ((e.line.reg a).toNat % 2 ^ 56) 32 = .ok (s1, bs) →
       (((w 0).toNat % 65536 ≠ 0 ∨ w 1 = 0 ∨ (w 1).toNat % 65536 ≠ 0 ∨ 16 ≤ (w 2).toNat ∨ w 3 ≠ 0 ∨ m = 0 ∨ 4096 ≤ m.toNat) →
         ∃ t, refuses t) ∧
       (s1.pinPages e.u e.line.tenant e.book ((w 1).toNat / 65536) ((w 0).toNat % 2 ^ 56) = .ok none → ∃ t, refuses t) ∧
       (∀ ps, s1.pinRefused e.line.tenant (toWords bs) m = false →
         s1.pinPages e.u e.line.tenant e.book ((w 1).toNat / 65536) ((w 0).toNat % 2 ^ 56) = .ok (some ps) →
         e.line.engs < 63 → s.queueUsed e.u 6 < 16 →
         (∀ k ∈ s.cmds, k.id ∈ s.fenceDeps e.book 6 → k.unit = e.u) →
         (∀ f ∈ e.book.fences, f.1.getLsbD 6 = true → ∀ i ∈ f.2, i < 2 ^ 48) → ∃ t n, exec (.pin g a v) s = .next t ∧
         t.ctx? e.va = some ⟨{ e.line.setP 30 true with engs := e.line.engs + 1, pc := e.line.pc + 4 },
           { issuedBook e with absent := [], found := [] }⟩ ∧
         (t.tenant e.line.tenant).pins = (s.tenant e.line.tenant).pins.filter (fun p => p.num != num) ++
           [⟨num, (w 0).toNat, (w 1).toNat, m.setWidth 12, ps.map (fun x => (x.1, x.2.1))⟩] ∧
         t.cmds = s.cmds ++ [⟨n, .pinFetch, e.va, e.u, 6, e.line.tenant, w 0, w 1, w64 num, 0,
           ps.flatMap (fun x => [w64 x.1, w64 x.2.1, w64 x.2.2]), s.fenceDeps e.book 6, .queued, 0, false, none, [], 0, false⟩])) ∧
     (Turn s e g [a] false → ∃ t, exec (.unpin g a) s = .next t ∧ t.ctx? e.va = some ⟨e.line.advance, issuedBook e⟩ ∧
       (t.tenant e.line.tenant).pins =
         (s.tenant e.line.tenant).pins.filter (fun p => p.num != (e.line.reg a).toNat % 16) ∧ SameMemory s t ∧ t.cmds = s.cmds)) ∧
  (∀ (s : State) (e : Env) (g : Guard) (a : Reg) (mask : BitVec 7),
     let cond : W32 := (e.line.reg a).setWidth 32
     let v := (e.line.reg a).toNat
     let within (n at' : Nat) : Prop := v.testBit (at' + 6) = true → n ≤ v / 2 ^ at' % 64
     let holds : Prop := within e.line.loads 0 ∧ within e.line.stores 8 ∧ within e.line.engs 16 ∧ within e.line.tiles 24
     (Turn s e g [] false → ∃ t b, exec (.qfence g mask) s = .next t ∧ t.ctx? e.va = some ⟨e.line.advance, b⟩ ∧
       OnlyLine s t e.va ∧ ∀ k ∈ s.cmds, k.ctx = e.va → ∀ q, q < 7 → mask.getLsbD q = true → k.id ∈ t.fenceDeps b q) ∧
     (Turn s e g [a] false → holds → ∃ t, exec (.waitc g a) s = .next t ∧
       t.ctx? e.va = some ⟨e.line.advance, issuedBook e⟩ ∧ OthersKept s t e.va ∧ SameMemory s t ∧ t.wire = s.wire ∧
       (t.unit e.u).dl1 = (if v.testBit 22 || v.testBit 30 then (s.unit e.u).dl1.filter (fun b => b.2.dirty)
         else (s.unit e.u).dl1)) ∧
     (Turn s e g [a] false → CanPark s e → ¬ holds → ∃ t, exec (.waitc g a) s = .next t ∧ Parked s t e (.counters cond) ∧
       OthersKept s t e.va ∧ SameMemory s t ∧ t.wire = s.wire) ∧
     (Turn s e g [a] false → exec (.wlim g a) s =
       .next (retired s e { e.line with wlimit := (e.line.reg a).setWidth 16, pc := e.line.pc + 4 })))

/-- R271 to R275, R277: the work of a COPY and the end of a command.  The model's choice: one ENGINE_START makes a COPY of this size whole
(log 43). -/
def Obligations.EngineCommands : Prop :=
  (∀ (s : State) (k : Cmd) (n : Nat) (x y : TlbEntry),
     s.cmd? k.id = some k → k.op = .copy → k.phase = .queued → k.elem = 0 → s.canRun k = true →
     k.c.toNat % 2 ^ 40 = n → 0 < n →
     let src := k.a.toNat % 2 ^ 56
     let dst := k.b.toNat % 2 ^ 56
     src % 64 + n ≤ 64 → dst % 64 + n ≤ 64 →
     s.xlate k.unit k.tenant src accRead = .ok x → s.xlate k.unit k.tenant dst accWrite = .ok y →
     (x.covers k.tenant dst = true → x = y) → x.addr src % 64 = src % 64 → y.addr dst % 64 = dst % 64 →
     Intact s (x.addr src) x.kslot → Intact s (y.addr dst) y.kslot → x.addr src / 64 ≠ y.addr dst / 64 →
     (s.pageRec (x.addr src / 65536)).moved = false → (s.pageRec (y.addr dst / 65536)).moved = false → y.trace = false →
     SlicesSound s →
     ∃ t k', exec (.engineStart k.id) s = .next t ∧ t.cmd? k.id = some k' ∧ k'.phase = .ended 0 ∧
       StoredAt s t (y.addr dst) (Memory.readN s.mem (x.addr src) n)) ∧
  (∀ (s : State) (k : Cmd) (word fva detail : W64) (x : TlbEntry) (c : Ctx),
     s.cmd? k.id = some k → s.faulted = false → s.ctx? k.ctx = some c → c.line.st = .ready → k.op = .copy →
     s.missing (.cmd k.id) = false → s.queueWaiter k.unit k.queue = none →
     let va := k.d.toNat % 2 ^ 56
     let gone (t : State) : Prop := t.cmds = s.cmds.filter (fun m => m.id != k.id)
     let down (b : Book) : Ctx := ⟨{ c.line with engs := c.line.engs - 1 }, b⟩
     (va = 0 → (k.phase = .ended word → ∃ t, exec (.engineComplete k.id) s = .next t ∧ gone t ∧
         t.ctx? k.ctx = some (down c.book) ∧ SameMemory s t) ∧
       (k.phase = .handed word fva detail → ∃ t, exec (.engineHandBack k.id) s = .next t ∧ gone t ∧
         t.ctx? k.ctx = some (down { c.book with traps := c.book.traps ++ [⟨0x0E, fva, detail, 0⟩] }) ∧ SameMemory s t)) ∧
     (va ≠ 0 → s.xlate k.unit k.tenant va accRmw = .ok x → Intact s (x.addr va) x.kslot → x.trace = false →
       (s.pageRec (x.addr va / 65536)).moved = false → x.addr va % 8 = 0 → s.deferredAt (x.addr va) = [] → SlicesSound s →
       (k.phase = .ended word → ∃ t, exec (.engineComplete k.id) s = .next t ∧ gone t ∧
         t.ctx? k.ctx = some (down c.book) ∧ StoredAt s t (x.addr va) (bytesOf word.toNat 8) ∧ t.isFull (x.addr va) = true) ∧
       (k.phase = .handed word fva detail → ∃ t, exec (.engineHandBack k.id) s = .next t ∧ gone t ∧
         t.ctx? k.ctx = some (down { c.book with traps := c.book.traps ++ [⟨0x0E, fva, detail, 0⟩] }) ∧
         StoredAt s t (x.addr va) (bytesOf word.toNat 8) ∧ t.isFull (x.addr va) = true)))

/-! ## Traps, returns, registers and debug (02_contexts, 14_system_isa, 16_recovery) -/

/-- R42 to R45: a trap at a slot whose context's vector is valid and whose allocator has two lines: the line is TRAPPED with its cause
and CTX.PC as it holds it, the handler runs in the slot at the vector with the VAs of the line and of the record in g0 and g1 and
the privilege that its cause gives it, and the record holds what R45 lays out.  The model's choice: a reserve gives its oldest line
first (log 70), and the handler's OSEQ and HALTREQ are 0 (log 71). -/
def Obligations.TrapsCreateHandlers : Prop :=
  ∀ (s : State) (e : Env) (cause : Byte) (fva : W64) (h r : Nat) (rest : List Nat), s.env? = some e →
    e.book.owner = .l1 e.u → s.units.all (fun x => (Assoc.get x.2.holding e.va).isNone) = true →
    let system := decide (cause = 0x04 ∨ cause = 0x08 ∨ cause = 0x09 ∨ cause = 0x0B ∨ cause = 0x0C)
    let tenant := if system then 0 else e.line.tenant
    (s.tenant tenant).vecEn = true → s.l1Count e.u < 256 → (system = false → s.queueOk e.line.tenant e.line.queue = true) →
    let cl := if e.u < 1536 then e.u / 96 else s.allocCluster e.u e.line.hclu
    let cached := (Assoc.get (s.cluster cl).cache tenant).getD []
    (cached = rest ++ [r, h] ∨
      (system = true ∧ cached = [] ∧ (s.tenant 0).arena = none ∧ (s.cluster cl).reserve = h :: r :: rest)) →
    h ≠ e.va → r ≠ e.va → h ≠ r →
    let t := trapped s e cause fva
    (∃ b, t.ctx? e.va = some ⟨{ e.line with st := .trapped, cause := cause, wait := .none, openMsg := false, stepOn := false }, b⟩) ∧
    (t.slot e.u e.slot).occ = some h ∧
    (∃ b, t.ctx? h = some ⟨{
      g := #v[BitVec.ofNat 64 e.va, BitVec.ofNat 64 r, 0, 0, 0, 0, 0, 0], pc := (s.tenant tenant).vec, pred := 0x80000000,
      pend := 0, cause := 0, stepOn := false, openMsg := false, flags := {}, st := .issuing, priv := system, round := .rne,
      wait := .none, frame := 0, join := 0, wlimit := 0, tiles := 0, engs := 0, stores := 0, loads := 0, hdev := s.device,
      hclu := cl, queue := e.line.queue, tenant := tenant, haltReq := false, oseq := 0 }, b⟩ ∧ b.record = some r) ∧
    Assoc.get t.records r = some [BitVec.ofNat 64 e.va, BitVec.ofNat 64 e.line.pc.toNat,
      BitVec.ofNat 64 ((s.fetched.getD 0).toNat + cause.toNat * 2 ^ 32 + (if system then 2 ^ 40 else 0)), fva, 0,
      BitVec.ofNat 64 (e.line.oseq + e.u * 2 ^ 16 + s.device * 2 ^ 32), BitVec.ofNat 64 e.line.stat, 0, 0, 0, 0, 0, 0, 0, 0, 0]

/-- R42, R43, R373, R406: a trap whose vector is not valid, and the instructions TRAP and BKPT. -/
def Obligations.TrapsWithoutVector : Prop :=
  (∀ (s : State) (e : Env) (cause : Byte) (fva : W64), s.env? = some e → e.book.owner = .l1 e.u →
     s.units.all (fun x => (Assoc.get x.2.holding e.va).isNone) = true →
     let tenant := if cause = 0x04 ∨ cause = 0x08 ∨ cause = 0x09 ∨ cause = 0x0B ∨ cause = 0x0C then 0 else e.line.tenant
     (s.tenant tenant).vecEn = false →
     let t := trapped s e cause fva
     (∃ b, t.ctx? e.va = some ⟨{ e.line with st := .trapped, cause := cause, wait := .none, openMsg := false, stepOn := false }, b⟩) ∧
     (t.slot e.u e.slot).occ = none ∧ OthersKept s t e.va ∧ SameMemory s t ∧ t.records = s.records ∧
     (s.linkUp = true → t.hostOut = s.hostOut ++
       [⟨0x0A, 2046, 0, 0, [7, BitVec.ofNat 64 e.va, BitVec.ofNat 64 cause.toNat]⟩])) ∧
  (∀ (s : State) (e : Env) (g : Guard), Turn s e g [] true → e.book.owner = .l1 e.u →
     s.units.all (fun x => (Assoc.get x.2.holding e.va).isNone) = true → (s.tenant e.line.tenant).vecEn = false →
     (∃ t b, exec (.trap g) s = .next t ∧ t.ctx? e.va = some ⟨{ e.line with
       pc := e.line.pc + 4, st := .trapped, cause := 0x16, wait := .none, openMsg := false, stepOn := false }, b⟩ ∧
       (t.slot e.u e.slot).occ = none) ∧
     (∃ t b, exec (.bkpt g) s = .next t ∧ t.ctx? e.va = some ⟨{ e.line with
       st := .trapped, cause := 0x14, wait := .none, openMsg := false, stepOn := false }, b⟩ ∧
       (t.slot e.u e.slot).occ = none))

/-- R27, R374: RTE makes its TRAPPED target READY with CAUSE zero, at the new PC in the form that has one, and ends its own context as
DONE does; a target whose line was sent to another device is resumed there; each of the checks that fails traps and leaves the
target as it was.  The model's choice: the high byte of the address register is ignored (log 50), and the words of the message to
the other device (log 28). -/
def Obligations.ReturnFromTrap : Prop :=
  ∀ (s : State) (e : Env) (g : Guard) (a b : Reg), e.line.openMsg = false → e.line.loads = 0 → e.line.stores = 0 →
    e.line.engs = 0 → e.line.tiles = 0 → s.dirtyLines e.u = [] → s.releasing e.u = false → e.book.owner = .l1 e.u →
    let v := e.line.reg a
    let t0 := v.toNat % 2 ^ 56
    let trap (v : W64) (c : Byte) : Out := .next (trapped s e c v)
    (∀ own c u, s.arenaOf t0 = some own → t0 % 128 = 0 → (own = e.line.tenant ∨ e.line.priv = true) → s.ctx? t0 = some c →
      c.line.st = .trapped → c.line.haltReq = false → c.book.owner = .l1 u → t0 ≠ e.va → e.line.join = 0 →
      (e.u < 1536 → ((s.unit e.u).dqRow e.line.tenant).frozen = true) →
      ((Assoc.get (s.cluster (s.allocCluster e.u e.line.hclu)).cache e.line.tenant).getD []).length < 63 →
      (Turn s e g [a] true → ∃ t b1 b2 l, exec (.rte g a) s = .next t ∧
        t.ctx? t0 = some ⟨{ c.line with cause := 0, st := .ready, wait := .none }, b1⟩ ∧
        t.ctx? e.va = some ⟨l, b2⟩ ∧ l.st = .free ∧ (t.slot e.u e.slot).occ = none) ∧
      (Turn s e g [a, b] true → (e.line.reg b).toNat % 4 = 0 → ∃ t b1 b2 l, exec (.rteNewPc g a b) s = .next t ∧
        t.ctx? t0 = some ⟨{ c.line with pc := (e.line.reg b).setWidth 56, cause := 0, st := .ready, wait := .none }, b1⟩ ∧
        t.ctx? e.va = some ⟨l, b2⟩ ∧ l.st = .free ∧ (t.slot e.u e.slot).occ = none)) ∧
    (∀ own dev, s.arenaOf t0 = some own → t0 % 128 = 0 → (own = e.line.tenant ∨ e.line.priv = true) → s.ctx? t0 = none →
      Assoc.get s.abroad t0 = some dev → e.line.join = 0 → (e.u < 1536 → ((s.unit e.u).dqRow e.line.tenant).frozen = true) →
      ((Assoc.get (s.cluster (s.allocCluster e.u e.line.hclu)).cache e.line.tenant).getD []).length < 63 →
      let tells (i : Instr) (ws : List W64) : Prop := ∃ t b2 l, exec i s = .next t ∧ t.peerOut = s.peerOut ++ [(dev, ws)] ∧
        t.ctx? e.va = some ⟨l, b2⟩ ∧ l.st = .free ∧ (t.slot e.u e.slot).occ = none
      (Turn s e g [a] true → tells (.rte g a) [18, w64 t0, 0, 0]) ∧
      (Turn s e g [a, b] true → (e.line.reg b).toNat % 4 = 0 → tells (.rteNewPc g a b) [18, w64 t0, 1, e.line.reg b])) ∧
    (Turn s e g [a] true →
      (s.arenaOf t0 = none ∨ t0 % 128 ≠ 0 ∨ (∃ own, s.arenaOf t0 = some own ∧ own ≠ e.line.tenant ∧ e.line.priv = false) ∨
        (s.ctx? t0 = none ∧ Assoc.get s.abroad t0 = none) ∨ (∃ c, s.ctx? t0 = some c ∧ c.line.st ≠ .trapped)) → exec (.rte g a) s = trap v 0x05) ∧
    (∀ own, Turn s e g [a, b] true → s.arenaOf t0 = some own → t0 % 128 = 0 → (own = e.line.tenant ∨ e.line.priv = true) →
      (e.line.reg b).toNat % 4 ≠ 0 → exec (.rteNewPc g a b) s = trap (e.line.reg b) 0x03)

/-- R350, R375 to R379: reads and writes of special registers.  The model's choice: a tenant's register is written as its CSRW issues, the
acknowledgment that counts STORES down coming later (log 44); DQ_CFG reads 0 on a CIU (log 45); TEN_HLEN is judged on bits
[24:0] of the value (log 47). -/
def Obligations.RegisterAccess : Prop :=
  (∀ (s : State) (e : Env) (g : Guard) (d : Reg), Turn s e g [d] true →
     let i := (e.line.reg d).toNat
     let x := s.unit e.u
     let t := s.tenant (if e.line.priv then i else e.line.tenant)
     let is (n : BitVec 9) (v : W64) : Prop := exec (.csrr g d n) s = .next (retired s e (e.line.setReg d v).advance)
     is 0x000 x.rot ∧ is 0x007 (BitVec.ofNat 64 (s.device * 2 ^ 32 + e.u)) ∧
     is 0x003 (BitVec.ofNat 64 (x.fwLevel * 16 + x.level)) ∧
     (e.u < 1536 → is 0x001 x.mrot ∧ is 0x002 (x.mrotv.setWidth 64) ∧ is 0x006 (BitVec.ofNat 64 x.accOwn)) ∧
     (1536 ≤ e.u → is 0x001 0 ∧ is 0x002 0 ∧ is 0x006 0 ∧ is 0x018 0) ∧
     is 0x0E1 0 ∧ is 0x100 0 ∧ is 0x101 0 ∧
     ((e.line.priv = true → i < 256) → e.line.tenant < 256 →
       is 0x040 (BitVec.ofNat 64 (t.vec.toNat + if t.vecEn then 1 else 0)) ∧ is 0x042 (BitVec.ofNat 64 t.htab.toNat) ∧
       is 0x043 (BitVec.ofNat 64 t.hlen) ∧ is 0x044 (BitVec.ofNat 64 t.hfree) ∧
       is 0x045 (BitVec.ofNat 64 (t.qset.toNat % 2 ^ 32)) ∧ is 0x046 (BitVec.ofNat 64 (t.qset.toNat / 2 ^ 32)) ∧
       is 0x047 (BitVec.ofNat 64 t.pinq)) ∧
     (e.line.priv = true → 256 ≤ i → ∀ n ∈ [0x040, 0x042, 0x043, 0x044, 0x045, 0x046, 0x047, 0x04C, 0x018], is n 0) ∧
     (e.line.priv = true → i < 64 → is 0x060 (BitVec.ofNat 64
       ((s.queue i).quant * 2 ^ 16 + (s.queue i).cls * 2 ^ 8 + (s.queue i).weight))) ∧
     (e.line.priv = true → e.line.loads < 63 → i < 2 → ∃ u, exec (.csrr g d 0x0E0) s = .next u ∧
       u.ctx? e.va = some ⟨{ e.line.setPend d with loads := e.line.loads + 1, pc := e.line.pc + 4 }, issuedBook e⟩ ∧
       u.wire = s.wire ++ [(s.nextId, .load e.va d (BitVec.ofNat 64 ((Assoc.get s.corr i).getD 0)) false)] ∧
       OthersKept s u e.va ∧ SameMemory s u)) ∧
  (∀ (s : State) (e : Env) (g : Guard) (a : Reg), Turn s e g [a] true → e.line.stores < 63 → e.line.priv = true →
     let v := e.line.reg a
     let i := v.toNat / 2 ^ 56
     let old := s.tenant i
     let low := v.toNat % 2 ^ 56
     let writes (n : BitVec 9) (x : Tenant) : Prop := ∃ t, exec (.csrw g a n) s = .next t ∧ t.tenant i = x ∧
       t.ctx? e.va = some ⟨{ e.line with stores := e.line.stores + 1, pc := e.line.pc + 4 }, issuedBook e⟩ ∧
       t.wire = s.wire ++ [(s.nextId, .ack e.va)] ∧ CtxsKept s t e.va ∧ SameMemory s t ∧
       ∀ j, j ≠ i → t.tenant j = s.tenant j
     writes 0x040 { old with vec := BitVec.ofNat 56 (low / 4 * 4), vecEn := v.getLsbD 0 } ∧
     writes 0x041 { old with ptb := BitVec.ofNat 56 low } ∧
     writes 0x042 { old with htab := BitVec.ofNat 56 (low / 4096 * 4096) } ∧
     (low % 2 ^ 25 ≤ 2 ^ 24 → writes 0x043 { old with hlen := low % 2 ^ 25 }) ∧
     (2 ^ 24 < low % 2 ^ 25 → writes 0x043 old) ∧
     writes 0x044 { old with hfree := low % 2 ^ 24 } ∧
     (s.queuesTaken i (BitVec.ofNat 64 (old.qset.toNat / 2 ^ 32 * 2 ^ 32 + low % 2 ^ 32)) = false →
       writes 0x045 { old with qset := BitVec.ofNat 64 (old.qset.toNat / 2 ^ 32 * 2 ^ 32 + low % 2 ^ 32) }) ∧
     (s.queuesTaken i (BitVec.ofNat 64 (old.qset.toNat / 2 ^ 32 * 2 ^ 32 + low % 2 ^ 32)) = true → writes 0x045 old) ∧
     writes 0x047 { old with pinq := low % 2 ^ 24 } ∧
     writes 0x048 { old with kshrV := BitVec.ofNat 4 (low / 2 ^ 32), kshrS := BitVec.ofNat 32 low } ∧
     (∃ t, exec (.csrw g a 0x003) s = .next t ∧ (t.unit e.u).fwLevel = v.toNat / 16 % 16 ∧
       t.ctx? e.va = some ⟨e.line.advance, issuedBook e⟩ ∧ t.wire = s.wire) ∧
     ∀ n ∈ [0x000, 0x001, 0x002, 0x004, 0x005, 0x006, 0x007], exec (.csrw g a n) s = .next (retired s e e.line.advance))

/-- R311, R312, R342, R366, R378: messages to the host, the release of a quarantined block, and the row of a view.  The model's choice:
MIE_QCLR counts nothing in STORES and sends nothing (log 46). -/
def Obligations.MessagesAndSettings : Prop :=
  (∀ (s : State) (e : Env) (g : Guard) (a : Reg), Turn s e g [a] true →
     let v := e.line.reg a
     ∀ w ∈ [(Instr.lnkTxw g a, Instr.lnkTxe g a), (.csrw g a 0x100, .csrw g a 0x101)],
     (e.line.openMsg = false → exec w.1 s = .next (s.setCtx e.va ⟨{ e.line with openMsg := true, pc := e.line.pc + 4 },
       { issuedBook e with msg := [v], msgStart := s.issueCycle e.u }⟩)) ∧
     (e.line.openMsg = true → e.book.msg.length < 8 → exec w.1 s = .next (s.setCtx e.va ⟨{ e.line with pc := e.line.pc + 4 },
       { issuedBook e with msg := e.book.msg ++ [v] }⟩)) ∧
     (e.line.openMsg = true → 8 ≤ e.book.msg.length →
       exec w.1 s = .next (trapped s e 0x13 0) ∧ exec w.2 s = .next (trapped s e 0x13 0)) ∧
     ((e.line.openMsg = true → e.book.msg.length < 8) → e.line.haltReq = false → s.linkUp = true → ∃ t, exec w.2 s = .next t ∧
       t.ctx? e.va = some ⟨{ e.line with openMsg := false, pc := e.line.pc + 4 }, { issuedBook e with msg := [] }⟩ ∧
       t.hostOut = s.hostOut ++ [⟨0x0A, e.u, e.line.tenant, 0, (if e.line.openMsg then e.book.msg else []) ++ [v]⟩] ∧
       OthersKept s t e.va ∧ SameMemory s t)) ∧
  (∀ (s : State) (e : Env) (g : Guard) (a : Reg), Turn s e g [a] true → e.line.priv = true →
     let v := e.line.reg a
     let block := v.toNat / 64 % 2 ^ 46
     let tenant := v.toNat / 2 ^ 56
     (∀ i ∈ [Instr.mieQclr g a, .csrw g a 0x0E1],
       (Assoc.get s.quarantine block = none → exec i s = .next (retired s e e.line.advance)) ∧
       (∀ q, Assoc.get s.quarantine block = some q → (∀ k, k < 8 → s.deferredAt (block * 64 + 8 * k) = []) →
         ∃ t, exec i s = .next t ∧ Assoc.get t.quarantine block = none ∧
         (∀ k, k < 64 → Memory.read t.mem (block * 64 + k) = 0) ∧
         (∀ p, p < block * 64 ∨ block * 64 + 64 ≤ p → Memory.read t.mem p = Memory.read s.mem p) ∧
         (∀ k, k < 8 → t.isFull (block * 64 + 8 * k) = true) ∧
         t.ctx? e.va = some ⟨e.line.advance, issuedBook e⟩ ∧ OthersKept s t e.va ∧ t.wire = s.wire)) ∧
     (∀ i ∈ [Instr.dqCfgPrivWrite g a, .csrw g a 0x018], e.u < 1536 → ∃ t, exec i s = .next t ∧
       (t.unit e.u).dqRow tenant = ⟨((s.unit e.u).dqRow tenant).frozen && v.getLsbD 40, v.toNat / 2 ^ 32 % 2 ^ 8,
         v.toNat % 2 ^ 32⟩ ∧
       t.ctx? e.va = some ⟨e.line.advance, issuedBook e⟩ ∧ CtxsKept s t e.va ∧ SameMemory s t))

/-- R22, R23, R27, R386, R387: HALT, HALT.Q, RESUME and STEP at a target of the issuer's tenant, by the state of its line, with the
status that each delivers; a target whose line was sent to another device is asked for it there.  The model's choice: they act
as they issue, on the line that holds the address (log 49), and the words of the message to the other device (log 28). -/
def Obligations.DebugInstructions : Prop :=
  ∀ (s : State) (e : Env) (g : Guard) (d a : Reg), Turn s e g [d, a] true → e.line.loads < 63 →
    let t0 := (e.line.reg a).toNat % 2 ^ 56 / 128 * 128
    (∃ own, s.arenaOf ((e.line.reg a).toNat % 2 ^ 56) = some own ∧ (own = e.line.tenant ∨ e.line.priv = true)) →
    let issued (t : State) : Prop := t.ctx? e.va =
      some ⟨{ e.line.setPend d with loads := e.line.loads + 1, pc := e.line.pc + 4 }, issuedBook e⟩ ∧ SameMemory s t
    (∀ dev, s.ctx? t0 = none → Assoc.get s.abroad t0 = some dev →
      ∀ x ∈ [(Instr.halt g d a, 0), (.haltQ g d a, 1), (.resume g d a, 2), (.step g d a, 3)], ∃ t, exec x.1 s = .next t ∧ issued t ∧
        t.wire = s.wire ++ [(s.nextId, .statusReq e.va d)] ∧ t.asked = s.asked ++ [s.nextId] ∧
        t.peerOut = s.peerOut ++ [(dev, [14, w64 x.2, w64 t0, w64 (2 * s.nextId + 1)])] ∧ CtxsKept s t e.va) ∧
    ∀ c : Ctx, s.ctx? t0 = some c → t0 ≠ e.va → c.book.haltDue = [] → c.line.engs = 0 → c.line.tiles = 0 →
    let gives (i : Instr) (status : W64) (l : Line → Prop) : Prop := ∃ t k, exec i s = .next t ∧ issued t ∧
      (s.nextId, Msg.load e.va d status false) ∈ t.wire ∧ t.ctx? t0 = some k ∧ l k.line
    (c.line.st = .ready → ∀ i ∈ [Instr.halt g d a, .haltQ g d a], gives i 0 (fun l =>
      l = { c.line with haltReq := true, st := .halted, wait := .debug })) ∧
    (c.line.st = .waiting → gives (.halt g d a) 0 (fun l => l = { c.line with haltReq := true })) ∧
    (c.line.st = .trapped ∨ c.line.st = .done ∨ c.line.st = .free → ∀ i ∈ [Instr.halt g d a, .haltQ g d a],
      gives i 1 (fun l => l = c.line)) ∧
    (∀ u, c.line.st = .halted → c.book.owner = .l1 u →
      gives (.resume g d a) 0 (fun l => l = { c.line with haltReq := false, st := .ready, wait := .none }) ∧
      gives (.step g d a) 0 (fun l => l = { c.line with
        haltReq := false, stepOn := true, cause := 0, st := .ready, wait := .none })) ∧
    (∀ u, c.line.st = .trapped → c.book.owner = .l1 u →
      (c.line.cause = 0x14 ∨ c.line.cause = 0x15 → gives (.step g d a) 0 (fun l => l = { c.line with
        haltReq := false, stepOn := true, cause := 0, st := .ready, wait := .none })) ∧
      (c.line.cause ≠ 0x14 → c.line.cause ≠ 0x15 → gives (.step g d a) 1 (fun l => l = c.line))) ∧
    (c.line.st ≠ .halted → c.line.haltReq = false → gives (.resume g d a) 1 (fun l => l = c.line)) ∧
    (c.line.st = .waiting → c.line.haltReq = true → gives (.resume g d a) 0 (fun l => l = { c.line with haltReq := false }))

/-- R354, R355, R360, R381, R396: TLB.W of an image that R355 accepts puts its entry first in the TLB of every unit it names, in place of
those of its tenant that it overlaps, and delivers 0; an image that R355 refuses, or a unit that is none, delivers 1 and changes
no TLB.  TLB.I removes the entries that its word names from the TLB of every unit it names, and the message that its status waits
for lists each of them with its unit, so that TLB_INVALIDATE_COMPLETE (TranslationService) waits for the accesses made through
them. -/
def Obligations.TranslationEntries : Prop :=
  ∀ (s s1 : State) (e : Env) (g : Guard) (d a b : Reg) (bs : List Byte), Turn s e g [d, a, b] false → e.line.priv = true →
    e.line.loads < 63 → SlicesSound s →
    let va := (e.line.reg a).toNat % 2 ^ 56
    let w (i : Nat) : W64 := BitVec.ofNat 64 (ofBytes ((bs.drop (8 * i)).take 8))
    let u := (e.line.reg b).toNat % 2 ^ 11
    let issued (tenant : Nat) (t : State) : Prop := t.ctx? e.va =
      some ⟨{ e.line.setPend d with loads := e.line.loads + 1, pc := e.line.pc + 4 }, issuedBook e⟩ ∧ CtxsKept s t e.va ∧
      SameMemory s t ∧ ((s.tenant tenant).pins = [] → RegistersKept s t)
    let all := (e.line.reg b).getLsbD 16
    let named := if all then (List.range 1632).filter (fun v => s.unitUp v) else [u]
    (va % 32 = 0 → NothingToRepair s → s.issueBytes e va 32 = .ok (s1, bs) →
      let tenant := (w 0).toNat / 2 ^ 8 % 2 ^ 8
      let size := match (w 0).toNat % 4 with | 0 => 2 ^ 16 | 1 => 2 ^ 21 | 2 => 2 ^ 28 | _ => 2 ^ 32
      let page := (w 1).toNat / 2 ^ 16 % 2 ^ 36
      s.pagesHeld s.nextId page (size / 65536) = false →
      (all = true ∨ s.unitUp u = true → s.imageFits (w 0) (w 1) (w 2) (w 3) = true → ∃ t x, exec (.tlbW g d a b) s = .next t ∧
        issued tenant t ∧ t.wire = s1.wire ++ [(s1.nextId, .load e.va d 0 false)] ∧
        (∀ v ∈ named, (t.unit v).tlb = (x :: (s1.unit v).tlb.filter (fun y => !(TlbEntry.overlaps x y))).take 2048) ∧
        (∀ v, v ∉ named → (t.unit v).tlb = (s1.unit v).tlb) ∧
        x.tenant = tenant ∧ x.size = size ∧ x.va = (w 0).toNat / 2 ^ 16 % 2 ^ 40 * 2 ^ 16 ∧
        x.pa = page * 2 ^ 16 ∧ x.kslot = (w 1).toNat / 2 ^ 8 % 2 ^ 8 ∧ x.hsel = (w 2).toNat / 2 ^ 32 % 2 ^ 16 ∧
        x.cls = (w 2).toNat / 2 ^ 24 % 2 ^ 8 ∧ x.group = (w 2).getLsbD 8 ∧ x.peerpin = (w 2).getLsbD 7 ∧
        x.transformed = (w 2).getLsbD 5 ∧ x.trace = (w 2).getLsbD 4 ∧
        x.r = (w 2).getLsbD 0 ∧ x.w = (w 2).getLsbD 1 ∧ x.x = (w 2).getLsbD 2) ∧
      ((all = false ∧ s.unitUp u = false) ∨ s.imageFits (w 0) (w 1) (w 2) (w 3) = false → ∃ t, exec (.tlbW g d a b) s = .next t ∧
        issued tenant t ∧ RegistersKept s t ∧ t.wire = s1.wire ++ [(s1.nextId, .load e.va d 1 false)] ∧ t.units = s1.units)) ∧
    let tenant := (e.line.reg a).toNat / 2 ^ 8 % 2 ^ 8
    (all = true ∨ s.unitUp u = true → ∃ t ws n, exec (.tlbI g d a b) s = .next t ∧ issued tenant t ∧
      (∀ v ∈ named, (t.unit v).tlb = (s.unit v).tlb.filter (fun x => !(removes (e.line.reg a) x))) ∧
      (∀ v, v ∉ named → (t.unit v).tlb = (s.unit v).tlb) ∧
      t.wire = s.wire ++ ws ++ [(n, .tlbInv e.va d tenant (named.flatMap (fun v =>
        ((s.unit v).tlb.filter (fun x => removes (e.line.reg a) x)).map (fun x => (v, x.pa, x.size)))))] ∧
      ∀ m ∈ ws, ∃ v c a h cs, m.2 = Msg.writeBack v c a h cs ∧ v ∈ named) ∧
    (all = false → s.unitUp u = false → ∃ t, exec (.tlbI g d a b) s = .next t ∧ issued tenant t ∧
      RegistersKept s t ∧ t.wire = s.wire ++ [(s.nextId, .load e.va d 1 false)] ∧ t.units = s.units)

/-- R382 to R385: KEY.LD and KEY.CLR ask the management core; SLOT.SET leaves its value with the unit until its boundary, or delivers 1;
QWT.SET writes the entry of a queue, and its store counts until every unit has taken the entry up; ARENA.SET installs or removes an
arena, or delivers 1.  The model's choice: the entry and the arena are written as the instruction issues (log 44). -/
def Obligations.PrivilegedSettings : Prop :=
  ∀ (s : State) (e : Env) (g : Guard) (d a b : Reg), e.line.priv = true →
    let va := e.line.reg a
    let vb := e.line.reg b
    let issued (t : State) : Prop := t.ctx? e.va =
      some ⟨{ e.line.setPend d with loads := e.line.loads + 1, pc := e.line.pc + 4 }, issuedBook e⟩ ∧ OthersKept s t e.va
    let u := vb.toNat / 2 ^ 16 % 2 ^ 11
    let table := vb.toNat % 4
    (Turn s e g [d, a, b] false → e.line.loads < 63 → ∃ t, exec (.keyLd g d a b) s = .next t ∧ issued t ∧ SameMemory s t ∧
      t.wire = s.wire ++ [(s.nextId, .keyChange e.va d (va.toNat % 2 ^ 8) (some (vb.toNat % 2 ^ 32)))]) ∧
    (Turn s e g [d, a] false → e.line.loads < 63 → ∃ t, exec (.keyClr g d a) s = .next t ∧ issued t ∧ SameMemory s t ∧
      t.wire = s.wire ++ [(s.nextId, .keyChange e.va d (va.toNat % 2 ^ 8) none)]) ∧
    (Turn s e g [d, a, b] false → e.line.loads < 63 →
      (s.unitUp u = true → (table = 0 → rotLegal va = true) → (table = 1 → u < 1536) →
        (table = 2 → u < 1536 ∧ va.toNat < 2 ^ 16) → table ≠ 3 → ∃ t, exec (.slotSet g d a b) s = .next t ∧ issued t ∧
        SameMemory s t ∧ t.wire = s.wire ∧ (t.unit u).tableSets = (s.unit u).tableSets ++ [⟨table, va, e.va, d⟩] ∧
        (t.unit u).rot = (s.unit u).rot) ∧
      ((s.unitUp u = false ∨ table = 3 ∨ (table = 0 ∧ rotLegal va = false) ∨ (table = 1 ∧ 1536 ≤ u)) →
        ∃ t, exec (.slotSet g d a b) s = .next t ∧ issued t ∧ SameMemory s t ∧ t.units = s.units ∧
        t.wire = s.wire ++ [(s.nextId, .load e.va d 1 false)])) ∧
    (Turn s e g [a, b] false → e.line.stores < 63 → ∃ t, exec (.qwtSet g a b) s = .next t ∧
      t.queue (va.toNat % 64) = ⟨vb.toNat / 2 ^ 16 % 2 ^ 8, vb.toNat / 2 ^ 8 % 4, vb.toNat % 2 ^ 8⟩ ∧
      (∀ q, q ≠ va.toNat % 64 → t.queue q = s.queue q) ∧
      t.ctx? e.va = some ⟨{ e.line with stores := e.line.stores + 1, pc := e.line.pc + 4 }, issuedBook e⟩ ∧
      t.wire = s.wire ++ [(s.nextId, .qwtSet e.va (va.toNat % 64) (s.queue (va.toNat % 64)) (s.units.map (fun x => x.1)))] ∧
      CtxsKept s t e.va ∧ SameMemory s t) ∧
    (Turn s e g [d, a, b] false → e.line.loads < 63 →
      let settled (t : State) : Prop := t.ctx? e.va =
        some ⟨{ e.line.setPend d with loads := e.line.loads + 1, pc := e.line.pc + 4 }, issuedBook e⟩ ∧ CtxsKept s t e.va
      let tenant := va.toNat % 2 ^ 8
      let base := vb.toNat % 2 ^ 56
      let count := va.toNat / 2 ^ 32
      (s.arenaRefused tenant base count = true → ∃ t, exec (.arenaSet g d a b) s = .next t ∧ settled t ∧ SameMemory s t ∧
        t.tenants = s.tenants ∧ t.wire = s.wire ++ [(s.nextId, .load e.va d 1 false)]) ∧
      (s.arenaRefused tenant base count = false → tenant ≠ 0 → va.getLsbD 8 = true →
        (s.clusters.all (fun c => (Assoc.get c.2.cache tenant).isNone)) = true →
        ∃ t, exec (.arenaSet g d a b) s = .next t ∧ settled t ∧ SameMemory s t ∧
        (t.tenant tenant).arena = (if count = 0 then none else some (base, count)) ∧
        t.wire = s.wire ++ [(s.nextId, .load e.va d 0 false)]))

/-! ## Messages that arrive, waits that end, lines that move -/

/-- R26, R27, R214, R251, R253, R261: deliveries to a line that is not in TRANSIT, and arrivals at homes.  A result writes its
register, clears its pending bit and counts LOADS down as one update; an error leaves the register and delivers its trap; the end
of a wait moves CTX.PC on and makes the context READY, that of a ring operation counting TILES down (R143); an acknowledgment counts STORES down; a write-back changes its dirty bytes
and no other.  The model's choice: exec of a delivery to a line in TRANSIT, which is none of that moment, answers noOccasion (log 3). -/
def Obligations.DeliveriesAndArrivals : Prop :=
  ∀ (s : State) (id va : Nat) (c : Ctx), s.ctx? va = some c →
    let without : State := { s with wire := Assoc.erase s.wire id }
    let down : Ctx := { c with line := { c.line with stores := c.line.stores - 1 } }
    (c.line.st = .ready ∨ c.line.st = .issuing →
      (∀ r v, s.msg? id = some (.load va r v false) → exec (.loadDelivery id) s =
        .next (without.setCtx va { c with line := { (c.line.setReg r v).clearPend r with loads := c.line.loads - 1 } })) ∧
      (∀ r cause fva, s.msg? id = some (.error va r cause fva false) → exec (.errorDelivery id) s =
        .next (without.setCtx va ⟨{ c.line.clearPend r with loads := c.line.loads - 1 },
          { c.book with traps := c.book.traps ++ [⟨cause, fva, 0, 0⟩] }⟩)) ∧
      (s.msg? id = some (.ack va) → exec (.storeAcknowledge id) s = .next (without.setCtx va down)) ∧
      (∀ u a h fva pa bs, s.msg? id = some (.ustore va u a h fva pa bs) → s.faulted = false → s.behind id u pa = false →
        a.trace = false → Intact s pa a.kslot → SlicesSound s →
        ∃ t, exec (.storeAcknowledge id) s = .next t ∧ t.ctx? va = some down ∧ StoredAt s t pa bs ∧
        t.wire = Assoc.erase s.wire id) ∧
      (∀ u a h pa b cs, s.msg? id = some (.writeBack u (some va) a h ((pa, b) :: cs)) → s.faulted = false →
        s.behind id u pa = false → a.trace = false → Intact s pa a.kslot → SlicesSound s → ∃ t, exec (.writeBackArrival (.message id)) s = .next t ∧
        t.ctx? va = some down ∧ t.mem = Memory.writeCells s.mem ((pa, b) :: cs) ∧ t.wire = Assoc.erase s.wire id)) ∧
    (∀ r v u, s.msg? id = some (.served va r v false) → c.line.st = .waiting → c.line.haltReq = false → c.book.owner = .l1 u →
      ∃ t b, exec (.loadDelivery id) s = .next t ∧ t.wire = Assoc.erase s.wire id ∧ t.ctx? va =
        some ⟨{ (match r with | some d => c.line.setReg d v | none => c.line) with
          pc := c.line.pc + 4, st := .ready, wait := .none
          tiles := match c.line.wait with | .ring _ => c.line.tiles - 1 | _ => c.line.tiles }, b⟩ ∧ b.timer = none ∧ OnlyLine without { t with stamp := s.stamp } va) ∧
    (∀ r v, s.msg? id = some (.load va r v false) → c.line.st = .transit →
      exec (.loadDelivery id) s = .fault (.noOccasion "LOAD_DELIVERY")) ∧
    (∀ u line, (s.unit u).dl1.any (fun b => b.1 / 64 == line) = true → (s.dirtyLines u).contains line = false →
      (s.unit u).dl1.all (fun b => !(b.1 / 64 == line && b.2.dirty)) = true →
      exec (.writeBackArrival (.evict u line)) s =
        .next (s.setUnit u { s.unit u with
          dl1 := (s.unit u).dl1.filter (fun b => b.1 / 64 != line), dl1Lru := (s.unit u).dl1Lru.filter (fun l => l.1 != line) }))

/-- R22, R263, R264, R308, R312, R322, R358: a refused access is sent again when its 4,096 cycles have passed; a wait's limit
asks its home first, and then, or where there is no home to ask, traps the context with cause 0x0A at its instruction; an access
performed before the cancel stands; an open message past its limit traps with cause 0x13.  Each trap clears STEP (R387).  The
model's choice: exec of an event whose time has not come answers noOccasion (log 3), and a ring operation that its limit ends counts in
TILES no longer (log 25). -/
def Obligations.WaitsThatEnd : Prop :=
  ∀ (s : State) (id va : Nat) (c : Ctx),
    let again (i : Instr) (m : Msg) : Prop :=
      exec i s = .next { s with wire := Assoc.erase s.wire id ++ [(s.nextId, m)], nextId := s.nextId + 1 }
    let expired (i : Instr) (tiles : Nat) : Prop := ∃ t b, exec i s = .next t ∧ t.ctx? va = some ⟨{ c.line with
      st := .trapped, wait := .none, cause := 0x0A, openMsg := false, stepOn := false, tiles := tiles }, b⟩ ∧ b.timer = none ∧
      SameMemory s t
    (∀ rq due, s.msg? id = some (.syncRefused rq due) →
      (due ≤ (s.unit rq.unit).cycle ∨ 4096 ≤ rq.unit → again (.deferredResend id) (.sync rq)) ∧
      (rq.unit < 4096 → (s.unit rq.unit).cycle < due → exec (.deferredResend id) s = .fault (.noOccasion "DEFERRED_RESEND"))) ∧
    (∀ v u a fva pa r due, s.msg? id = some (.awaitRefused v u a fva pa r due) → due ≤ (s.unit u).cycle ∨ 4096 ≤ u →
      exec (.awaitResend id) s = .next (s.changeMsg id (.await v u a fva pa r))) ∧
    (∀ rq due, s.msg? id = some (.missRefused rq due) → due ≤ (s.unit rq.unit).cycle →
      again (.missResend id) (.miss rq)) ∧
    (s.ctx? va = some c → c.line.st = .waiting → (∀ u, c.line.wait ≠ .acc u) → (s.tenant c.line.tenant).vecEn = false →
      c.book.traps = [] →
      (∀ u t0, c.book.timer = some (u, t0) → t0 ≤ (s.unit u).cycle →
        (c.line.wait.atHome = true → exec (.waitLimitExpiry va) s =
          .next ((s.setCtx va { c with book := { c.book with timer := none } }).post
            (.cancel va c.line.wait c.book.stamp))) ∧
        (c.line.wait.atHome = false → expired (.waitLimitExpiry va) c.line.tiles)) ∧
      (s.msg? id = some (.cancel va c.line.wait c.book.stamp) → s.accessUnderWay va = false →
        (s.accessServed va c.line.wait c.book.stamp = true → exec (.waitCancel id) s =
          .next { s with wire := Assoc.erase s.wire id }) ∧
        (s.accessServed va c.line.wait c.book.stamp = false →
          expired (.waitCancel id) (if s.ringWaits va then c.line.tiles - 1 else c.line.tiles) ∧ ∀ t, exec (.waitCancel id) s = .next t →
          ∀ d ∈ t.deferred, ∀ rq ∈ d.2, rq.ctx ≠ va))) ∧
    (∀ u k, s.turnDue u = true → rotSlot (s.unit u).rot ((s.unit u).cycle % 16) = k →
      s.ctx? va = some c → (s.slot u k).occ = some va → c.line.openMsg = true → c.line.st = .issuing →
      c.book.owner = .l1 u → c.book.msgStart + 64 < (s.unit u).cycle → (s.tenant c.line.tenant).vecEn = false →
      s.units.all (fun x => (Assoc.get x.2.holding va).isNone) = true →
      ∃ t b, exec (.openMessageLimit u k) s = .next t ∧ t.ctx? va = some ⟨{ c.line with
        st := .trapped, wait := .none, cause := 0x13, openMsg := false, stepOn := false }, b⟩ ∧ b.msg = [] ∧
        (t.slot u k).occ = none)

/-- R27, R29, R30, R39, R301 to R304, R309, R310, R335, R431: a line that changes owner raises its OSEQ by one.  A comet's line is
READY at its destination once its stores are done and no delivery is held for it; one for another device leaves this one, its words
sent there.  A refill's claim installs its line; a take's claim sends the line on its way, and its arrival puts it into the slot
that waits for it; a stale claim changes nothing; a victim of a context L2 is claimed, and the claim of an eviction moves its line
down.  The model's choice: the words of a line's message to another device (log 28). -/
def Obligations.LinesMove : Prop :=
  ∀ (s : State) (id va u : Nat) (c : Ctx), s.ctx? va = some c →
    let moved (o : Owner) (st : CtxState) (t : State) : Prop := ∃ b, t.ctx? va = some ⟨{ c.line with
      st := st, wait := if st = c.line.st then c.line.wait else .none, oseq := (c.line.oseq + 1) % 65536 }, b⟩ ∧ b.owner = o
    let without : State := { s with wire := Assoc.erase s.wire id }
    let held : Prop := ∃ m ∈ s.wire, (∃ r v i, m.2 = .load va r v i) ∨ (∃ r x f i, m.2 = .error va r x f i) ∨
      ∃ v d a w0 w1 x, m.2 = .stealResult va v d a w0 w1 x
    let code (dest : Owner) : Nat := match dest with | .l1 v => v | .l2 cl => 4096 + cl | .hbm cl => 4096 + cl
    (∀ dev dest, s.msg? id = some (.comet va dev dest) → c.line.stores = 0 → c.line.haltReq = false → c.line.st = .transit →
      (∀ v, c.book.owner = .l1 v → s.released v id = true) → ¬ held →
      (dev ≠ s.device → c.book.traps = [] → c.book.haltDue = [] → ∃ t, exec (.cometArrival id) s = .next t ∧ t.ctx? va = none ∧
        t.wire = Assoc.erase s.wire id ∧ Assoc.get t.abroad va = some dev ∧ t.peerOut = s.peerOut ++
          [(dev, 4 :: w64 va :: w64 (code dest) :: (({ c.line with oseq := (c.line.oseq + 1) % 65536 } : Line).words ++
            c.book.word.setWidth 64 :: s.fenceWords va c.book))]) ∧
      (dev = s.device → dest = .l1 u → s.l1Count u < 256 →
        ∃ t, exec (.cometArrival id) s = .next t ∧ moved (.l1 u) .ready t ∧ t.wire = Assoc.erase s.wire id) ∧
      (∀ cl, dev = s.device → dest = .l2 cl → s.l2Count cl < 65536 →
        ∃ t, exec (.cometArrival id) s = .next t ∧ moved (.l2 cl) .ready t ∧ t.wire = Assoc.erase s.wire id)) ∧
    (∀ oseq, s.msg? id = some (.claim va (.l1 u) .refill oseq) → s.claimedBefore va id = false →
      (c.line.oseq ≠ oseq → exec (.orreryClaim id) s = .next without) ∧
      (c.line.oseq = oseq → c.line.st ≠ .free → c.book.owner ≠ .l1 u → s.claimReleased c id = true →
        s.l1Count u < 256 → (∀ k ∈ (s.unit u).slots, k.occ ≠ some va) →
        ∃ t, exec (.orreryClaim id) s = .next t ∧ moved (.l1 u) c.line.st t ∧ t.wire = Assoc.erase s.wire id)) ∧
    (∀ oseq, s.msg? id = some (.claim va (.l1 u) .take oseq) → s.claimedBefore va id = false → u < 4096 → c.line.st ≠ .free → c.book.take = some u →
      c.line.oseq = oseq → c.line.stores = 0 → s.claimReleased c id = true →
      ∃ t n, exec (.orreryClaim id) s = .next t ∧ moved (.l1 u) c.line.st t ∧
        t.wire = Assoc.erase s.wire id ++ [(n, .lineMove va u c.book.owner.l1?)]) ∧
    (∀ k, s.msg? id = some (.lineMove va u none) → c.line.st = .ready → c.book.owner = .l1 u → c.book.take = some u →
      s.l1Count u < 256 → (s.unit u).slots.findIdx? (fun x => x.occ == some va) = some k → c.line.priv = false →
      s.queueOk c.line.tenant c.line.queue = true → ∃ t b, exec (.contextLineArrival id) s = .next t ∧
        t.ctx? va = some ⟨{ c.line with st := .issuing, wait := .none }, b⟩ ∧ b.take = none ∧ (t.slot u k).occ = some va ∧
        t.wire = Assoc.erase s.wire id) ∧
    (∀ cl, s.victimL2 cl = some va → c.book.owner = .l2 cl → ∃ t, exec (.contextL2Evict cl va) s = .next t ∧
      t.ctx? va = some ⟨c.line, { c.book with leaving := true }⟩ ∧
      t.wire = s.wire ++ [(s.nextId, .claim va (.hbm cl) .evict c.line.oseq)]) ∧
    (∀ oseq dest, s.msg? id = some (.claim va dest .evict oseq) → s.claimedBefore va id = false →
      (c.line.oseq ≠ oseq → exec (.orreryClaim id) s = .next without) ∧
      (c.line.oseq = oseq → c.line.st ≠ .free → c.book.leaving = true → s.claimReleased c id = true →
        (∀ cl k, dest = .hbm cl → c.book.owner = .l2 k → s.canEvictL2 va = true → ∃ t, exec (.orreryClaim id) s = .next t ∧ moved dest c.line.st t ∧
          t.wire = Assoc.erase s.wire id) ∧
        (∀ cl, dest = .l2 cl → c.book.owner = .l1 u → u < 1536 → s.l2Count cl < 65536 →
          ∃ t, exec (.orreryClaim id) s = .next t ∧ moved dest c.line.st t ∧ t.wire = Assoc.erase s.wire id)))

/-- R35, R143, R144, R169, R344: a ring operation performed at the ring's home moves one slot and one position and ends its
context's wait, or joins the ring's list where it cannot proceed; one whose ring has been lost since its check ends its wait with
cause 0x10; a tile operation that no earlier one holds back is performed whole and counts TILES down. -/
def Obligations.RingAndTileOperations : Prop :=
  (∀ (s : State) (id va : Nat) (rq : RingReq) (tile : TileRef), s.msg? id = some (.ringOp rq) → rq.who = .ctx va →
    let pos := s.ringPos rq.ring
    let n := tileBytes rq.ring.fmt rq.ring.dim
    let slot (p : Nat) : Nat := rq.ring.base (p % max 1 rq.ring.slots)
    let gone : List (Nat × Msg) := Assoc.erase s.wire id
    let bytesAt (t : State) (a : Nat) (bs : List Byte) : Prop :=
      ∀ k, k < bs.length → some (Memory.read t.scratch (a + k)) = bs[k]?
    let word0 := (s.readEntry rq.ring 0).toNat
    let lives : Prop := word0 / 2 ^ 48 = rq.ring.handle.toNat % 2 ^ 16 ∧ word0 % 4 = 2
    let joins (i : Instr) : Prop := ∃ t, exec i s = .next t ∧ t.wire = gone ∧ t.ringList rq.ring.entry = [rq] ∧ SameMemory s t
    (¬ lives → (rq.stage = false → s.ringBlocked rq = false → ∃ t w, exec (.ringOpAtHome id) s = .next t ∧ SameMemory s t ∧
        t.wire = gone ++ [(s.nextId, .dropped va ⟨0x10, rq.ring.handle, 0, w⟩)] ∧ t.ringLists = s.ringLists) ∧
      (rq.stage = true → s.released rq.unit id = true → ∃ t w, exec (.stageOpAtHome id) s = .next t ∧ SameMemory s t ∧
        t.wire = gone ++ [(s.nextId, .dropped va ⟨0x10, rq.ring.handle, 0, w⟩)] ∧ t.ringLists = s.ringLists)) ∧
    (lives → rq.ring.entry % 64 ≤ 32 → Intact s rq.ring.entry rq.ring.kslot → s.ringList rq.ring.entry = [] →
    (rq.stage = false → rq.tile = some tile → s.ringBlocked rq = false →
      (rq.push = true → s.ringCount rq.ring < rq.ring.slots → ∃ t m, exec (.ringOpAtHome id) s = .next t ∧
        t.wire = gone ++ [(m, .served va none (w64 (ofBytes (s.padRead (slot pos.2) 8))) false)] ∧
        t.ringPos rq.ring = (pos.1, (pos.2 + 1) % 65536) ∧ bytesAt t (slot pos.2) (s.padRead (tile.base 0) n)) ∧
      (rq.push = false → 0 < s.ringCount rq.ring → ∃ t m, exec (.ringOpAtHome id) s = .next t ∧
        t.wire = gone ++ [(m, .served va none (w64 (ofBytes (s.padRead (slot pos.1) 8))) false)] ∧
        t.ringPos rq.ring = ((pos.1 + 1) % 65536, pos.2) ∧ bytesAt t (tile.base 0) (s.padRead (slot pos.1) n)) ∧
      (rq.push = true → rq.ring.slots ≤ s.ringCount rq.ring → joins (.ringOpAtHome id)) ∧
      (rq.push = false → s.ringCount rq.ring = 0 → joins (.ringOpAtHome id))) ∧
    (rq.stage = true → s.released rq.unit id = true →
      (rq.push = true → s.ringCount rq.ring < rq.ring.slots → ∃ t m, exec (.stageOpAtHome id) s = .next t ∧
        t.wire = gone ++ [(m, .served va none (w64 (ofBytes (s.padRead (slot pos.2) 8))) (wideReach rq.reach))] ∧
        t.ringPos rq.ring = (pos.1, (pos.2 + 1) % 65536) ∧ bytesAt t (slot pos.2) (bytesOf rq.word.toNat 8)) ∧
      (rq.push = false → 0 < s.ringCount rq.ring → ∃ t m, exec (.stageOpAtHome id) s = .next t ∧
        t.wire = gone ++ [(m, .served va (some rq.reg) (w64 (ofBytes (s.padRead (slot pos.1) 8))) (wideReach rq.reach))] ∧
        t.ringPos rq.ring = ((pos.1 + 1) % 65536, pos.2) ∧ t.scratch = s.scratch) ∧
      (rq.push = true → rq.ring.slots ≤ s.ringCount rq.ring → joins (.stageOpAtHome id)) ∧
      (rq.push = false → s.ringCount rq.ring = 0 → joins (.stageOpAtHome id))))) ∧
  ∀ (s : State) (op : TileOp) (c : Ctx), s.tileOp? op.id = some op → s.tileBlocked op = false → s.storesBefore op = true →
    s.ctx? op.ctx = some c → c.line.st = .ready →
    let ends (l : Line) (t : State) : Prop := exec (.tileOpComplete op.id) s = .next t ∧
      t.ctx? op.ctx = some { c with line := { l with tiles := c.line.tiles - 1 } } ∧
      t.tileOps = s.tileOps.filter (fun o => o.id != op.id) ∧ t.wire = s.wire ∧ t.mem = s.mem
    (∀ r a idx, op.kind = .get r a idx → ∃ t, t.scratch = s.scratch ∧
      ends ((c.line.setReg r (w64 (ofBytes (s.padRead (a.base 0 + 8 * idx) 8)))).clearPend r) t) ∧
    (∀ a idx v, op.kind = .set a idx v → ∃ t, ends c.line t ∧
      t.scratch = Memory.writeRange s.scratch (a.base 0 + 8 * idx) (bytesOf v.toNat 8)) ∧
    (∀ d v, op.kind = .fill d v → ∃ t, ends c.line t ∧
      t.scratch = Memory.writeRange s.scratch (d.base 0) (tileImage d.fmt d.dim (fun _ _ => v.toNat % 2 ^ fmtBits d.fmt))) ∧
    (op.kind = .accZ → ∃ t, ends c.line t ∧ ∀ m n, (t.unit op.unit).accWord m n = 0)

/-- R158, R159, R160, R177, R181: a matrix period starts the step in the latch of the slot that IU_MROT names; a step that is done
has written the accumulator and ends its operation; an ATTN.CLOSE adds a staged page's scaled weights to the masses of its valid
tokens, and skips a slot that holds no page. -/
def Obligations.MatrixStepsAndCommits : Prop :=
  (∀ (s : State) (u p : Nat) (l : Latched) (op : TileOp), u < 1536 → s.unitUp u = true → s.faulted = false →
    (s.unit u).cycle % 16 = 0 → (s.unit u).periodDone = false → (s.unit u).running = none → p = (s.unit u).cycle / 16 % 16 →
    (s.unit u).level ≤ rev4 p → (s.unit u).mrotv.getLsbD p = true →
    let k := rotSlot (s.unit u).mrot p
    Assoc.get (s.unit u).latch k = some l → s.tileOp? l.op = some op → s.tileBlocked op = false → s.storesBefore op = true →
    ∃ t, exec (.matrixPeriod u) s = .next t ∧ (t.unit u).running = some (l.op, (s.unit u).cycle + 16) ∧
      (t.unit u).periodDone = true ∧ (t.unit u).acc = (s.unit u).acc ∧
      (l.left ≤ 1 → Assoc.get (t.unit u).latch k = none) ∧
      (1 < l.left → Assoc.get (t.unit u).latch k = some ⟨l.op, l.left - 1⟩)) ∧
  (∀ (s : State) (u due : Nat) (op : TileOp) (c : Ctx) (z : Bool) (cls : MClass) (k : Nat) (as bs szs : List TileRef),
    (s.unit u).running = some (op.id, due) → due ≤ (s.unit u).cycle → s.tileOp? op.id = some op → op.unit = u →
    op.kind = .mma z cls k as bs szs → s.ctx? op.ctx = some c → c.line.st = .ready →
    (∀ x ∈ (s.unit u).latch, x.2.op ≠ op.id) → s.lines.all (fun x => x.2.line.wait != .acc u) = true →
    ∃ t, exec (.matrixStepComplete u) s = .next t ∧ (t.unit u).running = none ∧
      t.ctx? op.ctx = some { c with line := { c.line with tiles := c.line.tiles - 1 } } ∧
      t.tileOps = s.tileOps.filter (fun o => o.id != op.id) ∧
      ∀ m n, m < 32 → n < 32 → (t.unit u).accWord m n = s.mmaElem u z cls k as bs szs m n % 2 ^ 32) ∧
  ∀ (s : State) (op : TileOp) (c : Ctx) (stage : TileRef) (stats : List TileRef) (a : PageAttr) (pa : Nat),
    s.tileOp? op.id = some op → op.kind = .attnClose stage stats 0 0 → s.tileBlocked op = false → s.storesBefore op = true →
    s.ctx? op.ctx = some c → c.line.st = .ready →
    let word (k : Nat) : Nat := s.at' stage 1 k
    let va := (word 2 + word 3 * 2 ^ 32) % 2 ^ 56
    let ended (t : State) : Prop := exec (.attnClosePerform op.id) s = .next t ∧
      t.ctx? op.ctx = some { c with line := { c.line with tiles := c.line.tiles - 1 } } ∧
      t.tileOps = s.tileOps.filter (fun o => o.id != op.id)
    (word 2 = 0 → word 3 = 0 → ∃ t, ended t ∧ t.mem = s.mem) ∧
    (∀ ms, word 2 + word 3 * 2 ^ 32 ≠ 0 → va % 256 = 0 → s.spansAt op.unit op.tenant accRmw 3 va pageBytes = .ok ms →
      (va, op.tenant) ∉ s.pagesUnder → a.trace = false → pa % 256 = 0 →
      s.spansAt op.unit op.tenant accRmw 3 (addVa va 0x4000) 256 = .ok [⟨addVa va 0x4000, pa, 256, a⟩] →
      (∀ k, k < 4 → Intact s (pa + 64 * k) a.kslot) → SlicesSound s →
      let f := closeScale (word 0) (s.elemOf stats 0 0 0) (s.elemOf stats 0 0 1)
      ∃ t, ended t ∧ StoredAt s t pa ((List.range 32).flatMap (fun i =>
        let old := ofBytes (Memory.readN s.mem (pa + 4 * i) 4)
        let d := (fp32.mulV .rne (fp32.unpack (s.at' stage 0 i)) (fp32.unpack f)).1
        bytesOf (if (Memory.read s.mem (pa + 0x83 + 4 * i)).getLsbD 7 then addRne old d else old) 4)))

/-! ## Units, services, host, errors and the start -/

/-- R292 to R294, R313 to R315, R383: a turn without a context to run moves the unit's cycle on and nothing else of the machine; a boundary
that comes due installs the last value that SLOT.SET left for each table and the larger of the two throttle levels; hardware's own
level waits for a boundary.  The governor: an adjustment moves grants between consumer and producer, keeps their sum, and leaves
each at least 1 and at most its demand; an entry that is idle, or whose ring is between its marks, or has seen fewer operations than
it has slots, stays; above APH the adjustment goes up by one and below PER down by one, the count begun again, where that changes a
grant of some IU of the ring's cluster, and else nothing moves.  The model's choice: when a governor moves and how it reads its
ring (log 16). -/
def Obligations.CyclesAndBoundaries : Prop :=
  (∀ (cn cd pn pd : Nat) (adj : Int), 1 ≤ cn → cn ≤ cd → 1 ≤ pn → pn ≤ pd →
    let r := adjusted cn cd pn pd adj
    r.1 + r.2 = cn + pn ∧ 1 ≤ r.1 ∧ r.1 ≤ cd ∧ 1 ≤ r.2 ∧ r.2 ≤ pd ∧
    (1 ≤ (cn : Int) + adj → (cn : Int) + adj ≤ cd → 1 ≤ (pn : Int) - adj → (pn : Int) - adj ≤ pd → (r.1 : Int) = cn + adj) ∧
    adjusted cn cd pn pd 0 = (cn, pn)) ∧
  (∀ (s : State) (cl : Nat) (e : Gov) (r : TileRef),
    let shifts (adj : Int) : Prop := ∃ bs ∈ s.clusterGrants (r.iu / 96), ∃ c p,
      bs.find? (fun b => b.q == e.cons) = some c ∧ bs.find? (fun b => b.q == e.prod) = some p ∧
      adjusted c.n c.demand p.n p.demand adj ≠ adjusted c.n c.demand p.n p.demand e.adj
    let moved (adj : Int) : Prop := (shifts adj → s.govMove cl e = { e with adj := adj, ops := 0 }) ∧ (¬ shifts adj → s.govMove cl e = e)
    (e.ring = 0 ∨ e.prod = e.cons ∨ e.aph < e.per ∨ s.queueTenant e.prod = none → s.govRing cl e = none ∧ s.govMove cl e = e) ∧
    (s.govRing cl e = some r →
      (e.per ≤ s.ringCount r → s.ringCount r ≤ e.aph → s.govMove cl e = e) ∧
      (e.ops < r.slots → s.govMove cl e = e) ∧
      (r.slots ≤ e.ops → e.aph < s.ringCount r → moved (e.adj + 1)) ∧
      (r.slots ≤ e.ops → s.ringCount r < e.per → moved (e.adj - 1)))) ∧
  ∀ (s : State) (u : Nat), s.unitUp u = true → s.faulted = false →
    let x := s.unit u
    let value (table : Nat) (old : W64) : W64 := ((lastOf table x.tableSets).map (fun t => t.value)).getD old
    let turned : State := s.setUnit u { x with cycle := x.cycle + 1, boundaryDone := false, periodDone := false }
    ((s.slot u (rotSlot x.rot (x.cycle % 16))).occ = none → (x.cycle % 16 = 0 → x.boundaryDone = true) →
      (32 ≤ (s.lines.filter (fun l => l.2.book.owner == .l1 u && l.2.line.st == .ready)).length ∨ s.fifoHead u none = none) →
      exec (.slotTurn u) s = .next { turned with
        turnUnit := u, turnSlot := rotSlot x.rot (x.cycle % 16), fetched := none }) ∧
    (x.cycle % 16 = 0 → x.boundaryDone = false → ∃ t, exec (.rotationBoundary u) s = .next t ∧
      (t.unit u).boundaryDone = true ∧ (t.unit u).cycle = x.cycle ∧ (t.unit u).level = max x.hwLevel x.fwLevel ∧
      (t.unit u).rot = value 0 x.rot ∧ (t.unit u).mrot = value 1 x.mrot ∧
      (t.unit u).mrotv = (value 2 (x.mrotv.setWidth 64)).setWidth 16 ∧ (t.unit u).tableSets = []) ∧
    (∀ level, level < 16 → exec (.hardwareThrottle u level) s = .next (s.setUnit u { x with hwLevel := level }))

/-- R185, R220, R277, R285: a collective of which every rank is present gives each rank's buffer the result of the whole; a
compaction marks the pages that its descriptor lists, or ends with status 3 where it cannot hold its live tokens, memory as the reads
of the descriptor leave it, and ends with its word when its writes are made; replay without a match for 1,048,576 cycles is abandoned.
The model's choice: exec of an abandonment that is not due answers noOccasion (log 3). -/
def Obligations.CollectivesAndCompaction : Prop :=
  (∀ (s : State) (g : Group) (k1 k2 : Cmd) (x1 x2 : TlbEntry), s.groups = [g] → s.faulted = false → g.members = [(0, k1.id), (1, k2.id)] →
    g.guests = [] → SlicesSound s → g.p = 2 → g.n = 1 → g.op ≤ 2 → g.fmt = 1 → g.bc = false →
    let ready (k : Cmd) (x : TlbEntry) (rank : Nat) : Prop := s.cmd? k.id = some k ∧ k.op = .collAr ∧ k.rank = rank ∧
      k.count = 1 ∧ s.missing (.cmd k.id) = false ∧ k.b.toNat % 4 = 0 ∧
      s.xlate k.unit k.tenant (k.b.toNat % 2 ^ 56) accRmw = .ok x ∧ Intact s (x.addr (k.b.toNat % 2 ^ 56)) x.kslot ∧
      (s.pageRec (x.addr (k.b.toNat % 2 ^ 56) / 65536)).moved = false ∧ x.trace = false ∧
      x.addr (k.b.toNat % 2 ^ 56) % 4 = 0
    ready k1 x1 0 → ready k2 x2 1 → k1.unit ≠ k2.unit → k1.id ≠ k2.id →
    let p1 := x1.addr (k1.b.toNat % 2 ^ 56)
    let p2 := x2.addr (k2.b.toNat % 2 ^ 56)
    p1 / 64 ≠ p2 / 64 →
    let a := ofBytes (Memory.readN s.mem p1 4)
    let b := ofBytes (Memory.readN s.mem p2 4)
    let ia : Int := if a < 2 ^ 31 then a else (a : Int) - 2 ^ 32
    let ib : Int := if b < 2 ^ 31 then b else (b : Int) - 2 ^ 32
    let r : Int := if g.op = 0 then ia + ib else if g.op = 1 then max ia ib else min ia ib
    ∃ t m1 m2, exec (.collectivePerform g.id) s = .next t ∧ t.groups = [] ∧ t.cmd? k1.id = some m1 ∧ m1.phase = .ended 0 ∧
      t.cmd? k2.id = some m2 ∧ m2.phase = .ended 0 ∧ (ofBytes (Memory.readN t.mem p1 4) : Int) = r % 2 ^ 32 ∧
      (ofBytes (Memory.readN t.mem p2 4) : Int) = r % 2 ^ 32 ∧
      ∀ q, (q < p1 ∨ p1 + 4 ≤ q) → (q < p2 ∨ p2 + 4 ≤ q) → Memory.read t.mem q = Memory.read s.mem q) ∧
  (∀ (s s1 s2 : State) (k : Cmd) (t0 : TlbEntry) (pa : Nat) (at' : PageAttr) (ws lb : List Byte), s.cmd? k.id = some k →
    k.op = .kvEvict → k.phase = .queued → s.canRun k = true → s.engAt k (k.a.toNat % 2 ^ 56) accRead = .ok (t0, pa, at') →
    s.compactorFree k.id (dieOfStack (stackOf pa)) = true → s.engRead k (k.a.toNat % 2 ^ 56) 64 = .ok s1 ws →
    let word (i : Nat) : Nat := ofBytes ((ws.drop (8 * i)).take 8)
    let live := word 3 % 2 ^ 32
    let n := word 4 % 2 ^ 32
    (32 * n < live → ∃ t k', exec (.kvEvictPerform k.id) s = .next t ∧ t.cmd? k.id = some k' ∧ k'.phase = .ended 3 ∧
      t.pagesUnder = s.pagesUnder ∧ t.mem = s1.mem) ∧
    (live ≤ 32 * n → s1.engRead k (word 1 % 2 ^ 56) (4 * n) = .ok s2 lb → ∃ t k', exec (.kvEvictPerform k.id) s = .next t ∧
      t.cmd? k.id = some k' ∧ k'.phase = .marked ∧ t.mem = s2.mem ∧ t.pagesUnder = s.pagesUnder ++ (List.range n).map (fun i =>
        (addVa (word 0 % 2 ^ 56) (ofBytes ((lb.drop (4 * i)).take 4) * pageBytes), k.tenant)))) ∧
  (∀ (s : State) (k : Cmd) (x : TlbEntry) (va : Nat) (bs : List Byte), s.cmd? k.id = some k → k.op = .kvEvict → k.phase = .moving →
    s.faulted = false → s.missing (.cmd k.id) = false → k.plan = [(va, bs)] → bs ≠ [] → va % 64 + bs.length ≤ 64 →
    s.xlate k.unit k.tenant va accWrite = .ok x → x.addr va % 64 = va % 64 → Intact s (x.addr va) x.kslot →
    (s.pageRec (x.addr va / 65536)).moved = false → x.trace = false → SlicesSound s →
    ∃ t k', exec (.kvCompactMove k.id) s = .next t ∧ t.cmd? k.id = some k' ∧ k'.phase = .ended k.c ∧
      StoredAt s t (x.addr va) bs) ∧
  (∀ (s : State) (p : Port), (s.alog p).mode = 2 →
    ((s.alog p).since + 1048576 ≤ s.portCycle p → ∃ t, exec (.replayAbandon p) s = .next t ∧
      t.alog p = { s.alog p with mode := 0, diverged := true } ∧ t.wire = s.wire ∧ t.mem = s.mem) ∧
    (s.portCycle p < (s.alog p).since + 1048576 → exec (.replayAbandon p) s = .fault (.noOccasion "REPLAY_ABANDON")))

/-- R352, R357 to R360, R368, R382, R409: a miss joins the walk of its page or begins one; its reply ends the walk: FILLED makes the
context READY to repeat its access, NOT PRESENT, PROTECTION and DEFER trap it with causes 0x06, 0x05 and 0x04; a TLB.I delivers its
status when no access made through its entries, nor a tile operation or started command of its tenant at their units, is left, and
not before; a key slot is loaded, refused or emptied, with its lines gone from the memory-side caches; a TLB entry with a
parity error is gone.  The model's choice: one queue entry for each walk (log 52), what a TLB.I waits for (log 51), and that exec
before then answers noOccasion (log 3). -/
def Obligations.TranslationService : Prop :=
  (∀ (s : State) (id : Nat) (rq : MissReq), s.msg? id = some (.miss rq) →
    let ws := (s.cluster rq.cluster).tsu
    (ws.any (fun k => k.joins rq) = false → ws.length < 4096 → ∃ t, exec (.tsuMissMessage id) s = .next t ∧
      t.wire = Assoc.erase s.wire id ∧ (t.cluster rq.cluster).tsu = ws ++ [⟨id, [rq]⟩]) ∧
    (∀ k, ws = [k] → k.joins rq = true → ∃ t, exec (.tsuMissMessage id) s = .next t ∧
      t.wire = Assoc.erase s.wire id ∧ (t.cluster rq.cluster).tsu = [{ k with reqs := k.reqs ++ [rq] }]) ∧
    (ws.any (fun k => k.joins rq) = false → 4096 ≤ ws.length → exec (.tsuMissMessage id) s = .next { s with
      wire := Assoc.erase s.wire id ++ [(s.nextId, .missRefused rq ((s.unit rq.unit).cycle + 4096))], nextId := s.nextId + 1 })) ∧
  (∀ (s : State) (id cl va : Nat) (rq : MissReq) (c : Ctx), s.walk? id = some (cl, ⟨id, [rq]⟩) → rq.who = .ctx va →
    s.ctx? va = some c → c.line.st = .waiting → c.line.wait = .translation rq.va → c.book.stamp = rq.tag →
    let ended (t : State) : Prop := (t.cluster cl).tsu = (s.cluster cl).tsu.filter (fun k => k.id != id)
    let trap (i : Instr) (cause : Byte) : Prop := ∃ t b, exec i s = .next t ∧ ended t ∧ t.ctx? va = some ⟨{ c.line with
      st := .trapped, wait := .none, cause := cause, openMsg := false, stepOn := false }, b⟩
    (∀ u, (s.unit rq.unit).tlb.any (fun t => t.covers rq.tenant (rq.va.toNat % 2 ^ 56)) = true → c.line.haltReq = false →
      c.book.owner = .l1 u → ∃ t b, exec (.filled id []) s = .next t ∧ ended t ∧
      t.ctx? va = some ⟨{ c.line with st := .ready, wait := .none }, b⟩) ∧
    (s.units.all (fun x => (Assoc.get x.2.holding va).isNone) = true →
      ((s.tenant c.line.tenant).vecEn = false → (∀ g a v, decode c.book.word ≠ some (.pin g a v)) →
        trap (.notPresent id) 0x06 ∧ trap (.protection id) 0x05) ∧
      ((s.tenant 0).vecEn = false → trap (.defer id) 0x04))) ∧
  (∀ (s : State) (id va tenant : Nat) (c : Ctx) (r : Reg) (gone : List (Nat × Nat × Nat)),
    s.msg? id = some (.tlbInv va r tenant gone) → s.ctx? va = some c → c.line.st ≠ .transit →
    let through (a : Underway) : Prop := a.seq < id ∧ a.tenant = tenant ∧ ∃ x ∈ gone, x.1 = a.unit ∧ x.2.1 ≤ a.pa ∧ a.pa < x.2.1 + x.2.2
    let at' (unit : Nat) : Prop := ∃ x ∈ gone, x.1 = unit
    let rest : Prop := (∃ a ∈ s.accesses, through a) ∨ (∃ o ∈ s.tileOps, o.id < id ∧ o.tenant = tenant ∧ at' o.unit) ∨
      ∃ k ∈ s.cmds, k.id < id ∧ (k.phase = .marked ∨ k.phase = .moving) ∧ k.tenant = tenant ∧ at' k.unit
    (gone = [] → ¬ rest) ∧
    (¬ rest → exec (.tlbInvalidateComplete id) s = .next { s with
      wire := Assoc.erase s.wire id ++ [(s.nextId, .load va r 0 false)], nextId := s.nextId + 1 }) ∧
    (rest → exec (.tlbInvalidateComplete id) s = .fault (.noOccasion "TLB_INVALIDATE_COMPLETE")) ∧
    (∀ m v u a h fva pa bs x, (m, Msg.ustore v u a h fva pa bs) ∈ s.wire → m < id → a.tenant = tenant → x ∈ gone → x.1 = u →
      x.2.1 ≤ pa → pa < x.2.1 + x.2.2 → rest)) ∧
  (∀ (s : State) (id va slot : Nat) (r : Reg) (key : Option Nat), s.msg? id = some (.keyChange va r slot key) →
    s.wire.any (fun m => decide (m.1 < id) && (match m.2 with | .keyChange _ _ _ _ => true | _ => false)) = false →
    SlicesSound s →
    let done (status : W64) (t : State) : Prop := exec (.keySlotChange id) s = .next t ∧
      t.wire = Assoc.erase s.wire id ++ [(s.nextId, .load va r status false)] ∧ t.mem = s.mem
    let flushed (t : State) : Prop := ∀ line, t.inMsc line slot = false
    (key = none → ∃ t, done 0 t ∧ Assoc.get t.keys slot = none ∧ flushed t) ∧
    (∀ k m, key = some k → Assoc.get s.keyStore k = some m →
      ∃ t, done 0 t ∧ Assoc.get t.keys slot = some m ∧ flushed t) ∧
    (∀ k, key = some k → Assoc.get s.keyStore k = none → ∃ t, done 1 t ∧ t.keys = s.keys ∧ t.hstacks = s.hstacks)) ∧
  (∀ (s : State) (u n : Nat), n < (s.unit u).tlb.length → s.unitUp u = true →
    exec (.tlbParityError u n) s = .next (s.setUnit u { s.unit u with tlb := removeAt (s.unit u).tlb n }))

/-- R291, R350, R389 to R394, R397, R402: a root spawn writes the line that its payload describes and answers with its VA, or with
the status of its refusal; host loads and stores, and peers' accesses, reach stack memory through the page's record; a request of
a wrong length is answered 0xFF; a message for another device goes on where a port is up.  The model's choice: the
predicate word of a root spawn's line (log 12), and the form of messages between devices (log 28). -/
def Obligations.HostRequests : Prop :=
  ∀ (s : State) (tag tenant : Nat) (payload : List W64),
    let w (i : Nat) : W64 := nth payload i 0
    let reply (kind status : Nat) (ws : List W64) : HostMsg := ⟨kind, tag, tenant, status, ws⟩
    let tells (t : State) (m : HostMsg) : Prop := t.hostOut = s.hostOut ++ [m]
    (s.linkUp = true → s.faulted = false → tenant < 256 → (∀ m ∈ s.wire, ∀ i, m.2 ≠ .inbound i) →
      (payload.length = 10 →
        (rootInvalid payload = true → exec (.rootSpawn tag tenant payload) s =
          .next { s with hostOut := s.hostOut ++ [reply 0x02 3 [0]] }) ∧
        (rootInvalid payload = false → (s.tenant tenant).qset.getLsbD ((w 1).toNat % 64) = false →
          exec (.rootSpawn tag tenant payload) s = .next { s with hostOut := s.hostOut ++ [reply 0x02 2 [0]] }) ∧
        (∀ cl va s1, rootInvalid payload = false → (s.tenant tenant).qset.getLsbD ((w 1).toNat % 64) = true →
          cl = (w 1).toNat / 2 ^ 32 % 2 ^ 8 → cl < 16 → s.clusterUp cl = true → s.allocFrom (cl * 96) cl tenant = some (va, s1) →
          s1.l2Count cl < 65536 → ∃ t c, exec (.rootSpawn tag tenant payload) s = .next t ∧ (∃ before, t.hostOut = before ++ [reply 0x02 0 [w64 va]]) ∧ t.ctx? va = some c ∧
          c.line.st = .ready ∧ c.line.pc = (w 0).setWidth 56 ∧ c.line.tenant = tenant ∧ c.line.priv = false ∧
          c.line.hclu = cl ∧ c.line.queue = (w 1).toNat % 64 ∧ c.line.pred = 0x80000000 ∧ c.book.owner = .l2 cl ∧
          ∀ r : Reg, c.line.reg r = w (2 + r.toNat))) ∧
      (∀ pa n z, (z = 0 ∧ n = 1 ∨ z = 1 ∧ n = 2 ∨ z = 2 ∧ n = 4 ∨ z = 3 ∧ n = 8 ∨ z = 6 ∧ n = 64) →
        (w 0).toNat / 2 ^ 60 % 2 ^ 3 = z → (w 0).toNat % 2 ^ 52 = pa → pa % n = 0 → isStack pa = true →
        s.fenced pa = false → SlicesSound s → s.inbound tenant pa false = none → s.inbound tenant pa true = none → Intact s pa (s.inboundAttr pa).kslot →
        (s.inboundAttr pa).trace = false →
        (payload.length = 1 → ∃ t ws, exec (.hostLoad tag tenant payload) s = .next t ∧ tells t (reply 0x05 0 ws) ∧
          SameMemory s t ∧ ws.length = (n + 7) / 8 ∧ (wordsBytes ws).take n = Memory.readN s.mem pa n) ∧
        (payload.length = (if n = 64 then 9 else 2) → ∃ t, exec (.hostStore tag tenant payload) s = .next t ∧
          tells t (reply 0x05 0 []) ∧ StoredAt s t pa ((wordsBytes (payload.drop 1)).take n))) ∧
      (∀ pa, (w 0).toNat / 2 ^ 60 % 2 ^ 3 = 3 → (w 0).toNat % 2 ^ 52 = pa → pa % 8 = 0 → isStack pa = true →
        s.fenced pa = false → s.inbound tenant pa false = some 0x05 → payload.length = 1 → exec (.hostLoad tag tenant payload) s =
          .next { s with hostOut := s.hostOut ++ [reply 0x05 1 []] })) ∧
    (∀ header : W64, s.linkUp = true → header.toNat / 2 ^ 16 % 2 ^ 8 = payload.length → header.toNat % 2 ^ 8 = 0x03 →
      payload.length ≠ 1 → exec (.invalidMessage header payload) s = .next { s with hostOut := s.hostOut ++
        [⟨0x05, header.toNat / 2 ^ 32 % 2 ^ 32, header.toNat / 2 ^ 24 % 2 ^ 8, 0xFF, []⟩] }) ∧
    (∀ header : W64, s.linkUp = true → header.toNat / 2 ^ 16 % 2 ^ 8 = payload.length → header.toNat % 2 ^ 8 = 0x01 →
      payload.length ≠ 10 → exec (.invalidMessage header payload) s = .next { s with hostOut := s.hostOut ++
        [⟨0x02, header.toNat / 2 ^ 32 % 2 ^ 32, header.toNat / 2 ^ 24 % 2 ^ 8, 0xFF, [0]⟩] }) ∧
    (∀ m : HostMsg, m.words.tail = m.payload ∧ ∀ h, m.words.head? = some h → h.toNat = m.tag % 2 ^ 32 * 2 ^ 32 +
      m.tenant % 2 ^ 8 * 2 ^ 24 + m.payload.length % 2 ^ 8 * 2 ^ 16 + m.status % 2 ^ 8 * 2 ^ 8 + m.kind % 2 ^ 8) ∧
    (∀ (rq : PeerRequest) (pa ctx : Nat), s.faulted = false → rq.dest = s.device → rq.peer < 64 → rq.peer ≠ s.device → rq.tenant < 256 →
      pa % 8 = 0 → isStack pa = true → s.fenced pa = false → s.inbound rq.tenant pa false = none →
      s.inbound rq.tenant pa true = none → Intact s pa (s.inboundAttr pa).kslot → (s.inboundAttr pa).trace = false →
      SlicesSound s → (∀ m ∈ s.wire, ∀ i, m.2 ≠ .inbound i) →
      (rq.op = .load pa 8 ctx → ∃ t, exec (.peerAccess rq) s = .next t ∧
        t.peerOut = s.peerOut ++ [(rq.peer, [8, w64 ctx, 10, Memory.dword s.mem pa])] ∧ SameMemory s t) ∧
      (∀ v, rq.op = .store pa 8 [v] ctx → ∃ t, exec (.peerAccess rq) s = .next t ∧
        t.peerOut = s.peerOut ++ [(rq.peer, [8, w64 ctx, 2])] ∧ StoredAt s t pa (bytesOf v.toNat 8))) ∧
    (∀ dest, dest < 64 → dest ≠ s.device →
      ((∃ p, p < 18 ∧ s.start.ports.getLsbD p = true) → exec (.peerMessageForward dest payload) s =
        .next { s with peerOut := s.peerOut ++ [(dest, payload)] }) ∧
      (s.start.ports = 0 → exec (.peerMessageForward dest payload) s = .fault (.noOccasion "PEER_MESSAGE_FORWARD")))

/-- R371, R395, R396, R399 to R402: a flip gives the bias of every valid page that it names to the other side once no command may
touch it; a page that moves is marked with its destination, and one that a peer has pinned is skipped and counted; and the six
replies of the management core.  The model's choice: the bytes that the start log is hashed as (log 5), the words of a
management message that R400 to R402 do not lay out (log 56), and the version to which the minimum rises (log 57). -/
def Obligations.PagesAndManagement : Prop :=
  ∀ (s : State) (tag tenant : Nat) (payload : List W64),
    let w (i : Nat) : W64 := nth payload i 0
    let first := (w 0).toNat / 2 ^ 16 % 2 ^ 36
    let n := (w 1).toNat
    (s.linkUp = true → s.faulted = false → tenant < 256 → payload.length = 2 → 0 < n → n ≤ 65536 → s.cmds = [] →
      (∀ m ∈ s.wire, ∀ i, m.2 ≠ .inbound i) → SlicesSound s → Assoc.sorted s.pageRecs = true → ∃ t, exec (.biasFlip tag tenant payload) s = .next t ∧
      t.hostOut = s.hostOut ++ [⟨0x07, tag, tenant, 0, []⟩] ∧ SameMemory s t ∧
      ∀ p, t.pageRec p = if first ≤ p ∧ p < first + n ∧ (s.pageRec p).valid = true then
        { s.pageRec p with bias := (w 0).getLsbD 63 } else s.pageRec p) ∧
    (∀ pa dest dclu, isStack pa = true → dest < 64 → dest ≠ s.device → dclu < 16 → (s.pageRec (pa / 65536)).moved = false →
      s.faulted = false → SlicesSound s → (∀ m ∈ s.wire, ∀ i, m.2 ≠ .inbound i) →
      ((s.pageRec (pa / 65536)).peerpin = true → exec (.pageMove pa dest dclu) s = .next { s with skipped := s.skipped + 1 }) ∧
      ((s.pageRec (pa / 65536)).peerpin = false → s.cmds = [] → ∃ t, exec (.pageMove pa dest dclu) s = .next t ∧
        t.pageRec (pa / 65536) = { s.pageRec (pa / 65536) with moved := true, dest := dest, dclu := dclu } ∧
        t.moved = s.moved + 1 ∧ SameMemory s t)) ∧
    (s.linkUp = true → 1 ≤ payload.length → payload.length ≤ 255 →
      let answers (i : Instr) (t : State) (status : Nat) (ws : List W64) : Prop := exec i s = .next t ∧
        t = { t with hostOut := s.hostOut ++ [⟨0x09, tag, 0, status, ws⟩] }
      let sub := (w 0).toNat % 2 ^ 8
      (sub = 1 → s.deviceSet = false → s.starting = none → (w 2).getLsbD 8 = true → ∃ t,
        answers (.hello tag payload) t 0 [w 1 &&& 1, s.start.capability] ∧ t.device = (w 2).toNat % 2 ^ 6 ∧ t.deviceSet = true) ∧
      (sub = 1 → s.deviceSet = true → (w 2).getLsbD 8 = true → (w 2).toNat % 2 ^ 6 ≠ s.device →
        answers (.hello tag payload) { s with hostOut := s.hostOut ++ [⟨0x09, tag, 0, 1, [w 1 &&& 1, s.start.capability]⟩] } 1
          [w 1 &&& 1, s.start.capability]) ∧
      (sub = 2 → ∃ t ws, answers (.attestation tag payload) t 0 (1 :: Config.serial :: fixed 6 s.fwDigest ++
        dwords (sha384 (wordsBytes s.start.log)) ++ [s.start.capability, w64 s.minVersion] ++ ws) ∧ ws.length = 28) ∧
      (sub = 3 → ∀ m, Config.unwrapKey (payload.drop 2) = some m → ∃ t, answers (.keyStore tag payload) t 0 [] ∧
        Assoc.get t.keyStore ((w 1).toNat % 2 ^ 32) = some m) ∧
      (sub = 3 → Config.unwrapKey (payload.drop 2) = none → ∃ t, answers (.keyStore tag payload) t 1 [] ∧
        t.keyStore = s.keyStore) ∧
      (sub = 4 → ∃ t, answers (.trackerReport tag payload) t 0 [w64 s.moved, w64 s.skipped] ∧ t.moved = 0 ∧ t.skipped = 0) ∧
      (sub = 5 → ∃ t, answers (.raiseMinimumVersion tag payload) t 0 [w64 (max s.minVersion s.fwVersion)] ∧
        t.minVersion = max s.minVersion s.fwVersion) ∧
      (sub = 0 ∨ 6 ≤ sub → ∃ t, answers (.unknownSubkind tag payload) t 0xFE []))

/-- R366, R406, R408 to R416: what each error does.  A corrected one is counted; an uncorrectable accumulator is zero and without an
owner; lost dirty bytes poison their block, and a lost clean line of an L2 slice is gone and counted; a context line is TRAPPED with cause 0x09; a tile's handle is stale and its space
free once no operation holds it; a deque loses the entry and freezes; a device fault stops the device; a patrol read leaves a
block that stands as it was written, corrects one that can be corrected, and quarantines one that cannot. -/
def Obligations.SoftErrors : Prop :=
  (∀ (s : State) (code die : Nat), 1 ≤ code → code ≤ 9 → die < 6 → ∃ t, exec (.correctedSoftError code die) s = .next t ∧
    (Assoc.get t.corrected (code * 8 + die)).getD 0 = (Assoc.get s.corrected (code * 8 + die)).getD 0 + 1 ∧
    t.lines = s.lines ∧ t.units = s.units ∧ SameMemory s t) ∧
  (∀ (s : State) (u : Nat), u < 1536 → s.unitUp u = true → (s.unit u).latch = [] →
    s.lines.all (fun x => x.2.line.wait != .acc u) = true → ∃ t, exec (.accumulatorUncorrectable u) s = .next t ∧
    (t.unit u).acc = [] ∧ (t.unit u).accOwn = 0 ∧
    (∀ c, s.ctx? (s.unit u).accOwn = some c → (s.unit u).accOwn ≠ 0 → c.line.st ≠ .free →
      t.ctx? (s.unit u).accOwn = some { c with book := { c.book with
        traps := c.book.traps ++ [⟨0x09, w64 (s.unit u).accOwn, 6, 0⟩] } })) ∧
  (∀ (s : State) (u line : Nat), isStack (line * 64) = true → s.hostBias (line * 64) = false →
    Assoc.get s.quarantine line = none → s.quarCount (dieOfStack (stackOf (line * 64))) < 1024 →
    (∀ b, (s.unit u).dl1.find? (fun b => b.1 / 64 == line && b.2.dirty) = some b →
      ∃ t, exec (.poisonWriteBack (.dataL1 u) line) s = .next t ∧ Assoc.get t.quarantine line = some (b.2.attr.kslot, true) ∧
        (t.unit u).dl1 = (s.unit u).dl1.filter (fun b => b.1 / 64 != line) ∧ SameMemory s t) ∧
    (∀ l, (s.unit u).l2.find? (fun l => l.line == line) = some l → ∃ t, exec (.poisonWriteBack (.slice u) line) s = .next t ∧
      SameMemory s t ∧ (l.dirty ≠ [] → Assoc.get t.quarantine line = some (l.kslot, true) ∧
        ∀ v, (t.unit v).l2 = (s.unit v).l2.filter (fun l => l.line != line)) ∧
      (l.dirty = [] → t.quarantine = s.quarantine ∧ (Assoc.get t.corrected (4 * 8 + dieOfUnit u)).getD 0 =
        (Assoc.get s.corrected (4 * 8 + dieOfUnit u)).getD 0 + 1 ∧
        (t.unit u).l2 = (s.unit u).l2.filter (fun m => !(m.line == line && m.kslot == l.kslot))))) ∧
  (∀ (s : State) (va u : Nat) (lost : BitVec 16) (c : Ctx), s.ctx? va = some c → c.book.owner = .l1 u → lost ≠ 0 →
    c.line.st = .ready → c.moving = false → s.units.all (fun x => (Assoc.get x.2.holding va).isNone) = true →
    (s.tenant 0).vecEn = false → ∃ t b l, exec (.contextLineUncorrectable va lost) s = .next t ∧ t.ctx? va = some ⟨l, b⟩ ∧
      l.st = .trapped ∧ l.cause = 0x09 ∧ l.tenant = c.line.tenant ∧
      (∀ r : Reg, l.reg r = if lost.getLsbD r.toNat then 0 else c.line.reg r) ∧ l.pc = if lost.getLsbD 8 then 0 else c.line.pc) ∧
  (∀ (s : State) (tenant index : Nat) (tile : TileRef),
    s.units.findSome? (fun x => (s.entryAt x.1 tenant 0 index none [1, 2]).toOption) = some tile →
    tile.kind = 1 → tile.entry % 32 = 0 → Intact s tile.entry tile.kslot → s.ringList tile.entry = [] →
    let old := (Memory.dword s.mem tile.entry).toNat
    let gen := old / 2 ^ 48
    ∃ t, exec (.tileUncorrectable tenant index) s = .next t ∧
      Memory.dword t.mem tile.entry = BitVec.ofNat 64 ((if gen = 65535 then 1 else gen + 1) * 2 ^ 48 +
        old / 2 ^ 32 % 2 ^ 8 * 2 ^ 32 + old / 2 ^ 8 % 2 ^ 6 * 2 ^ 8 + old % 2 ^ 6 / 2 ^ 4 * 2 ^ 4) ∧
      t.spaceDue = s.spaceDue ++ [tile] ∧
      ∀ k, k < tileBytes tile.fmt tile.dim → Memory.read t.scratch (tile.base 0 + k) = 0) ∧
  (∀ (s : State) (u n : Nat) (e : DqEntry), (s.unit u).deque[n]? = some e → ∃ t,
    exec (.dequeEntryUncorrectable u n false) s = .next t ∧ (t.unit u).deque = removeAt (s.unit u).deque n ∧
    ((t.unit u).dqRow (e.w0.toNat / 2 ^ 56)).frozen = true ∧
    (∀ tenant, tenant ≠ e.w0.toNat / 2 ^ 56 → (t.unit u).dqRow tenant = (s.unit u).dqRow tenant)) ∧
  (∀ (s : State) (unit : Nat), s.faulted = false → ∃ t, exec (.deviceFault 9 unit) s = .next t ∧ t.faulted = true ∧
    t.lines = s.lines ∧ SameMemory s t ∧
    (s.linkUp = true → t.hostOut = s.hostOut ++ [⟨0x0A, 2046, 0, 0, [5, 9, w64 unit]⟩])) ∧
  (∀ (s : State) (k : Nat) (upsets : List (Nat × Nat × Byte)) (tag : Nat × KeyMat), s.stackUp k = true → s.faulted = false →
    (s.stack k).patrolAt ≤ s.stackCycle k →
    let block := k * 805306368 + (s.stack k).patrol
    let s1 := s.upset k upsets
    Assoc.get s.quarantine block = none → Assoc.get s.blockTag block = some tag → s.hostBias (block * 64) = false →
    (Assoc.get s.keys tag.1).isSome = true → isStack (block * 64) = true →
    s.quarCount (dieOfStack (stackOf (block * 64))) < 1024 →
    ∃ t, exec (.patrolRead ⟨k, upsets⟩) s = .next t ∧ (t.stack k).patrol = ((s.stack k).patrol + 1) % 805306368 ∧
      (t.stack k).patrolAt = (s.stack k).patrolAt + 1024 ∧
      (Assoc.get s1.damage block = none → Assoc.get s.keys tag.1 = some tag.2 → t.quarantine = s.quarantine ∧ SameMemory s t) ∧
      (Assoc.get s1.damage block ≠ none → match s1.repair block tag.1 with
        | some s2 => t.quarantine = s.quarantine ∧ SameMemory s2 t ∧ t.corr = s2.corr ∧ t.blockTag = s2.blockTag ∧
            Assoc.get t.damage block = none
        | none => Assoc.get t.quarantine block = some (tag.1, false) ∧ SameMemory s t))

/-- R370, R401, R402, R418 to R424: a start with new firmware whose version is not below the fused minimum, at which every element
passes and every link's other end shares a version, comes as far as the host link and waits there for a hello; the hello that gives
the device its number, which no partner bears, brings the whole device up: 81 records of the next start's number, every stack
and cluster, no context, no key and no translation, and memory as DRAM held it.  A start whose images are below the minimum
starts nothing.  The model's choice: what a later start keeps (log 58), and that the two images of step 4 carry one version (log 79). -/
def Obligations.StartBringsUp : Prop :=
  ∀ (s : State) (outcomes : List StartOutcome) (newFirmware : Bool),
    let number := (s.start.number + 1) % 65536
    let blank (t : State) : Prop := t.lines = [] ∧ t.units = [] ∧ t.keys = [] ∧ t.tenants = [] ∧ t.wire = [] ∧ t.quarantine = [] ∧
      t.mem = s.dramMem ∧ t.feEmpty = s.feEmpty ∧ t.blockTag = s.blockTag ∧ t.minVersion = s.minVersion
    ((∀ o ∈ outcomes, o.passed = true ∧ o.mask &&& 0x0003 ≠ 0) → s.minVersion ≤ s.startVersion true →
      ∃ t, exec (.start outcomes true) s = .next t ∧ blank t ∧ t.faulted = true ∧ t.linkUp = true ∧ t.deviceSet = false ∧
        t.start.number = number ∧ t.start.ports = 0 ∧ t.fwVersion = s.startVersion true ∧ t.hostOut = s.hostOut ∧
        ∀ (tag : Nat) (payload : List W64), 1 ≤ payload.length → payload.length ≤ 255 → (nth payload 0 0).toNat % 2 ^ 8 = 1 →
          let w := nth payload 2 0
          let num := if w.getLsbD 8 then w.toNat % 2 ^ 6 else 0
          (∀ o ∈ outcomes, o.number ≠ num) → ∃ r before, exec (.hello tag payload) t = .next r ∧ blank r ∧
            r.start.log = startElements.map (fun e => startRecord number e.1 e.2 0 0 0 0) ∧ r.start.number = number ∧
            r.start.prevLog = s.start.log ∧ r.start.hstacks = 0xFFF ∧ r.start.clusters = 0xFFFF ∧ r.start.ports = 0x3FFFF ∧
            r.start.capability = 0x3FFFF0000FFFFFFF ∧ r.faulted = false ∧ r.linkUp = true ∧ r.device = num ∧
            r.deviceSet = true ∧ r.fwVersion = s.startVersion true ∧
            r.hostOut = before ++ [⟨0x0A, 2046, 0, 0, [2, r.start.capability]⟩,
              ⟨0x09, tag, 0, 0, [nth payload 1 0 &&& 1, r.start.capability]⟩] ∧
            before.length = s.hostOut.length + s.kept.length + 12) ∧
    ((∀ x ∈ s.units, ∀ l ∈ x.2.l2, l.dirty = [] ∧ l.dropped = []) →
      (∀ x ∈ s.hstacks, ∀ set ∈ x.2.msc, ∀ l ∈ set.2, l.dirty = []) → s.dramMem = s.mem) ∧
    (s.startVersion newFirmware < s.minVersion → ∃ t, exec (.start outcomes newFirmware) s = .next t ∧ blank t ∧ t.faulted = true ∧
      t.start.clusters = 0 ∧ t.start.hstacks = 0 ∧ t.start.ports = 0 ∧ t.fwVersion = s.fwVersion ∧ t.fwDigest = s.fwDigest)
end

