-- ==== Sys2Proof/Laws/Encoding.lean ====
section
/-! SUPPORT. What the encoder's formats hold, field by field, and that every suffix code is read back: the lemmas by which a word
that the encoder built is decoded again (R46, R52, R61, R62, R201). -/

namespace Sys2Proof

/-! ## Suffix codes -/
/-- A PCond code is read back as the suffix it stands for. -/
@[simp] theorem PCond.ofCode_code (x : PCond) : PCond.ofCode x.code = some x := by cases x <;> rfl
/-- A FRel code is read back as the suffix it stands for. -/
@[simp] theorem FRel.ofCode_code (x : FRel) : FRel.ofCode x.code = some x := by cases x <;> rfl
/-- A FFmt code is read back as the suffix it stands for. -/
@[simp] theorem FFmt.ofCode_code (x : FFmt) : FFmt.ofCode x.code = some x := by cases x <;> rfl
/-- A Shape code is read back as the suffix it stands for. -/
@[simp] theorem Shape.ofCode_code (x : Shape) : Shape.ofCode x.code = some x := by cases x <;> rfl
/-- A CFmt code is read back as the suffix it stands for. -/
@[simp] theorem CFmt.ofCode_code (x : CFmt) : CFmt.ofCode x.code = some x := by cases x <;> rfl
/-- A LdSize code is read back as the suffix it stands for. -/
@[simp] theorem LdSize.ofCode_code (x : LdSize) : LdSize.ofCode x.code = some x := by cases x <;> rfl
/-- A StSize code is read back as the suffix it stands for. -/
@[simp] theorem StSize.ofCode_code (x : StSize) : StSize.ofCode x.code = some x := by cases x <;> rfl
/-- A Reach code is read back as the suffix it stands for. -/
@[simp] theorem Reach.ofCode_code (x : Reach) : Reach.ofCode x.code = some x := by cases x <;> rfl
/-! ## Guards -/

/-- The six bits of a guard hold its sense and its predicate. -/
theorem Guard.of_bits (g : Guard) : (⟨g.bits.extractLsb' 5 1 == 1#1, g.bits.extractLsb' 0 5⟩ : Guard) = g := by
  obtain ⟨gs, gp⟩ := g
  revert gs gp
  decide

/-- A Boolean's one bit is 1 exactly where it is true. -/
@[simp] theorem ofBool_eq_one (b : Bool) : (BitVec.ofBool b == 1#1) = b := by cases b <;> rfl

/-! ## encR -/

@[simp] theorem encR_major (m : BitVec 6) (g : Guard) (d a b : Reg) (f : BitVec 11) : wMajor (encR m g d a b f) = m := by
  unfold wMajor encR
  ext i hi
  rw [BitVec.getElem_extractLsb']
  simp only [BitVec.getLsbD_append, ← BitVec.getLsbD_eq_getElem]
  repeat (first | rw [if_neg (by omega)] | rw [if_pos (by omega)])
  congr 1 <;> omega

@[simp] theorem encR_fd (m : BitVec 6) (g : Guard) (d a b : Reg) (f : BitVec 11) : wFd (encR m g d a b f) = d := by
  unfold wFd encR
  ext i hi
  rw [BitVec.getElem_extractLsb']
  simp only [BitVec.getLsbD_append, ← BitVec.getLsbD_eq_getElem]
  repeat (first | rw [if_neg (by omega)] | rw [if_pos (by omega)])
  congr 1 <;> omega

@[simp] theorem encR_fa (m : BitVec 6) (g : Guard) (d a b : Reg) (f : BitVec 11) : wFa (encR m g d a b f) = a := by
  unfold wFa encR
  ext i hi
  rw [BitVec.getElem_extractLsb']
  simp only [BitVec.getLsbD_append, ← BitVec.getLsbD_eq_getElem]
  repeat (first | rw [if_neg (by omega)] | rw [if_pos (by omega)])
  congr 1 <;> omega

@[simp] theorem encR_fb (m : BitVec 6) (g : Guard) (d a b : Reg) (f : BitVec 11) : wFb (encR m g d a b f) = b := by
  unfold wFb encR
  ext i hi
  rw [BitVec.getElem_extractLsb']
  simp only [BitVec.getLsbD_append, ← BitVec.getLsbD_eq_getElem]
  repeat (first | rw [if_neg (by omega)] | rw [if_pos (by omega)])
  congr 1 <;> omega

@[simp] theorem encR_guard (m : BitVec 6) (g : Guard) (d a b : Reg) (f : BitVec 11) : wGuard (encR m g d a b f) = g := by
  have h1 : (encR m g d a b f).extractLsb' 25 1 = g.bits.extractLsb' 5 1 := by
    unfold encR
    ext i hi
    rw [BitVec.getElem_extractLsb', BitVec.getElem_extractLsb']
    simp only [BitVec.getLsbD_append]
    repeat (first | rw [if_neg (by omega)] | rw [if_pos (by omega)])
    congr 1
    omega
  have h2 : (encR m g d a b f).extractLsb' 20 5 = g.bits.extractLsb' 0 5 := by
    unfold encR
    ext i hi
    rw [BitVec.getElem_extractLsb', BitVec.getElem_extractLsb']
    simp only [BitVec.getLsbD_append]
    repeat (first | rw [if_neg (by omega)] | rw [if_pos (by omega)])
    congr 1
    omega
  unfold wGuard
  rw [h1, h2]
  exact g.of_bits

/-! ## encI -/

@[simp] theorem encI_major (m : BitVec 6) (g : Guard) (d a : Reg) (i : BitVec 14) : wMajor (encI m g d a i) = m := by
  unfold wMajor encI
  ext i hi
  rw [BitVec.getElem_extractLsb']
  simp only [BitVec.getLsbD_append, ← BitVec.getLsbD_eq_getElem]
  repeat (first | rw [if_neg (by omega)] | rw [if_pos (by omega)])
  congr 1 <;> omega

@[simp] theorem encI_fd (m : BitVec 6) (g : Guard) (d a : Reg) (i : BitVec 14) : wFd (encI m g d a i) = d := by
  unfold wFd encI
  ext i hi
  rw [BitVec.getElem_extractLsb']
  simp only [BitVec.getLsbD_append, ← BitVec.getLsbD_eq_getElem]
  repeat (first | rw [if_neg (by omega)] | rw [if_pos (by omega)])
  congr 1 <;> omega

@[simp] theorem encI_fa (m : BitVec 6) (g : Guard) (d a : Reg) (i : BitVec 14) : wFa (encI m g d a i) = a := by
  unfold wFa encI
  ext i hi
  rw [BitVec.getElem_extractLsb']
  simp only [BitVec.getLsbD_append, ← BitVec.getLsbD_eq_getElem]
  repeat (first | rw [if_neg (by omega)] | rw [if_pos (by omega)])
  congr 1 <;> omega

@[simp] theorem encI_at0_14 (m : BitVec 6) (g : Guard) (d a : Reg) (i : BitVec 14) : (encI m g d a i).extractLsb' 0 14 = i := by
  unfold encI
  ext i hi
  rw [BitVec.getElem_extractLsb']
  simp only [BitVec.getLsbD_append, ← BitVec.getLsbD_eq_getElem]
  repeat (first | rw [if_neg (by omega)] | rw [if_pos (by omega)])
  congr 1 <;> omega

@[simp] theorem encI_guard (m : BitVec 6) (g : Guard) (d a : Reg) (i : BitVec 14) : wGuard (encI m g d a i) = g := by
  have h1 : (encI m g d a i).extractLsb' 25 1 = g.bits.extractLsb' 5 1 := by
    unfold encI
    ext i hi
    rw [BitVec.getElem_extractLsb', BitVec.getElem_extractLsb']
    simp only [BitVec.getLsbD_append]
    repeat (first | rw [if_neg (by omega)] | rw [if_pos (by omega)])
    congr 1
    omega
  have h2 : (encI m g d a i).extractLsb' 20 5 = g.bits.extractLsb' 0 5 := by
    unfold encI
    ext i hi
    rw [BitVec.getElem_extractLsb', BitVec.getElem_extractLsb']
    simp only [BitVec.getLsbD_append]
    repeat (first | rw [if_neg (by omega)] | rw [if_pos (by omega)])
    congr 1
    omega
  unfold wGuard
  rw [h1, h2]
  exact g.of_bits

/-! ## encL -/

@[simp] theorem encL_major (m : BitVec 6) (g : Guard) (d : Reg) (i : BitVec 17) : wMajor (encL m g d i) = m := by
  unfold wMajor encL
  ext i hi
  rw [BitVec.getElem_extractLsb']
  simp only [BitVec.getLsbD_append, ← BitVec.getLsbD_eq_getElem]
  repeat (first | rw [if_neg (by omega)] | rw [if_pos (by omega)])
  congr 1 <;> omega

@[simp] theorem encL_fd (m : BitVec 6) (g : Guard) (d : Reg) (i : BitVec 17) : wFd (encL m g d i) = d := by
  unfold wFd encL
  ext i hi
  rw [BitVec.getElem_extractLsb']
  simp only [BitVec.getLsbD_append, ← BitVec.getLsbD_eq_getElem]
  repeat (first | rw [if_neg (by omega)] | rw [if_pos (by omega)])
  congr 1 <;> omega

@[simp] theorem encL_at0_17 (m : BitVec 6) (g : Guard) (d : Reg) (i : BitVec 17) : (encL m g d i).extractLsb' 0 17 = i := by
  unfold encL
  ext i hi
  rw [BitVec.getElem_extractLsb']
  simp only [BitVec.getLsbD_append, ← BitVec.getLsbD_eq_getElem]
  repeat (first | rw [if_neg (by omega)] | rw [if_pos (by omega)])
  congr 1 <;> omega

@[simp] theorem encL_guard (m : BitVec 6) (g : Guard) (d : Reg) (i : BitVec 17) : wGuard (encL m g d i) = g := by
  have h1 : (encL m g d i).extractLsb' 25 1 = g.bits.extractLsb' 5 1 := by
    unfold encL
    ext i hi
    rw [BitVec.getElem_extractLsb', BitVec.getElem_extractLsb']
    simp only [BitVec.getLsbD_append]
    repeat (first | rw [if_neg (by omega)] | rw [if_pos (by omega)])
    congr 1
    omega
  have h2 : (encL m g d i).extractLsb' 20 5 = g.bits.extractLsb' 0 5 := by
    unfold encL
    ext i hi
    rw [BitVec.getElem_extractLsb', BitVec.getElem_extractLsb']
    simp only [BitVec.getLsbD_append]
    repeat (first | rw [if_neg (by omega)] | rw [if_pos (by omega)])
    congr 1
    omega
  unfold wGuard
  rw [h1, h2]
  exact g.of_bits

/-! ## encJ -/

@[simp] theorem encJ_major (g : Guard) (o : BitVec 19) (l : BitVec 1) : wMajor (encJ g o l) = 0x01#6 := by
  unfold wMajor encJ
  ext i hi
  rw [BitVec.getElem_extractLsb']
  simp only [BitVec.getLsbD_append, ← BitVec.getLsbD_eq_getElem]
  repeat (first | rw [if_neg (by omega)] | rw [if_pos (by omega)])
  congr 1 <;> omega

@[simp] theorem encJ_at1_19 (g : Guard) (o : BitVec 19) (l : BitVec 1) : (encJ g o l).extractLsb' 1 19 = o := by
  unfold encJ
  ext i hi
  rw [BitVec.getElem_extractLsb']
  simp only [BitVec.getLsbD_append, ← BitVec.getLsbD_eq_getElem]
  repeat (first | rw [if_neg (by omega)] | rw [if_pos (by omega)])
  congr 1 <;> omega

@[simp] theorem encJ_at0_1 (g : Guard) (o : BitVec 19) (l : BitVec 1) : (encJ g o l).extractLsb' 0 1 = l := by
  unfold encJ
  ext i hi
  rw [BitVec.getElem_extractLsb']
  simp only [BitVec.getLsbD_append, ← BitVec.getLsbD_eq_getElem]
  repeat (first | rw [if_neg (by omega)] | rw [if_pos (by omega)])
  congr 1 <;> omega

@[simp] theorem encJ_guard (g : Guard) (o : BitVec 19) (l : BitVec 1) : wGuard (encJ g o l) = g := by
  have h1 : (encJ g o l).extractLsb' 25 1 = g.bits.extractLsb' 5 1 := by
    unfold encJ
    ext i hi
    rw [BitVec.getElem_extractLsb', BitVec.getElem_extractLsb']
    simp only [BitVec.getLsbD_append]
    repeat (first | rw [if_neg (by omega)] | rw [if_pos (by omega)])
    congr 1
    omega
  have h2 : (encJ g o l).extractLsb' 20 5 = g.bits.extractLsb' 0 5 := by
    unfold encJ
    ext i hi
    rw [BitVec.getElem_extractLsb', BitVec.getElem_extractLsb']
    simp only [BitVec.getLsbD_append]
    repeat (first | rw [if_neg (by omega)] | rw [if_pos (by omega)])
    congr 1
    omega
  unfold wGuard
  rw [h1, h2]
  exact g.of_bits

/-! ## encPC -/

@[simp] theorem encPC_major (g : Guard) (pd : Pred) (a b : Reg) (c : BitVec 5) (f : BitVec 4) : wMajor (encPC g pd a b c f) = 0x03#6 := by
  unfold wMajor encPC
  ext i hi
  rw [BitVec.getElem_extractLsb']
  simp only [BitVec.getLsbD_append, ← BitVec.getLsbD_eq_getElem]
  repeat (first | rw [if_neg (by omega)] | rw [if_pos (by omega)])
  congr 1 <;> omega

@[simp] theorem encPC_at15_5 (g : Guard) (pd : Pred) (a b : Reg) (c : BitVec 5) (f : BitVec 4) : (encPC g pd a b c f).extractLsb' 15 5 = pd := by
  unfold encPC
  ext i hi
  rw [BitVec.getElem_extractLsb']
  simp only [BitVec.getLsbD_append, ← BitVec.getLsbD_eq_getElem]
  repeat (first | rw [if_neg (by omega)] | rw [if_pos (by omega)])
  congr 1 <;> omega

@[simp] theorem encPC_at12_3 (g : Guard) (pd : Pred) (a b : Reg) (c : BitVec 5) (f : BitVec 4) : (encPC g pd a b c f).extractLsb' 12 3 = a := by
  unfold encPC
  ext i hi
  rw [BitVec.getElem_extractLsb']
  simp only [BitVec.getLsbD_append, ← BitVec.getLsbD_eq_getElem]
  repeat (first | rw [if_neg (by omega)] | rw [if_pos (by omega)])
  congr 1 <;> omega

@[simp] theorem encPC_at9_3 (g : Guard) (pd : Pred) (a b : Reg) (c : BitVec 5) (f : BitVec 4) : (encPC g pd a b c f).extractLsb' 9 3 = b := by
  unfold encPC
  ext i hi
  rw [BitVec.getElem_extractLsb']
  simp only [BitVec.getLsbD_append, ← BitVec.getLsbD_eq_getElem]
  repeat (first | rw [if_neg (by omega)] | rw [if_pos (by omega)])
  congr 1 <;> omega

@[simp] theorem encPC_at4_5 (g : Guard) (pd : Pred) (a b : Reg) (c : BitVec 5) (f : BitVec 4) : (encPC g pd a b c f).extractLsb' 4 5 = c := by
  unfold encPC
  ext i hi
  rw [BitVec.getElem_extractLsb']
  simp only [BitVec.getLsbD_append, ← BitVec.getLsbD_eq_getElem]
  repeat (first | rw [if_neg (by omega)] | rw [if_pos (by omega)])
  congr 1 <;> omega

@[simp] theorem encPC_at0_4 (g : Guard) (pd : Pred) (a b : Reg) (c : BitVec 5) (f : BitVec 4) : (encPC g pd a b c f).extractLsb' 0 4 = f := by
  unfold encPC
  ext i hi
  rw [BitVec.getElem_extractLsb']
  simp only [BitVec.getLsbD_append, ← BitVec.getLsbD_eq_getElem]
  repeat (first | rw [if_neg (by omega)] | rw [if_pos (by omega)])
  congr 1 <;> omega

@[simp] theorem encPC_guard (g : Guard) (pd : Pred) (a b : Reg) (c : BitVec 5) (f : BitVec 4) : wGuard (encPC g pd a b c f) = g := by
  have h1 : (encPC g pd a b c f).extractLsb' 25 1 = g.bits.extractLsb' 5 1 := by
    unfold encPC
    ext i hi
    rw [BitVec.getElem_extractLsb', BitVec.getElem_extractLsb']
    simp only [BitVec.getLsbD_append]
    repeat (first | rw [if_neg (by omega)] | rw [if_pos (by omega)])
    congr 1
    omega
  have h2 : (encPC g pd a b c f).extractLsb' 20 5 = g.bits.extractLsb' 0 5 := by
    unfold encPC
    ext i hi
    rw [BitVec.getElem_extractLsb', BitVec.getElem_extractLsb']
    simp only [BitVec.getLsbD_append]
    repeat (first | rw [if_neg (by omega)] | rw [if_pos (by omega)])
    congr 1
    omega
  unfold wGuard
  rw [h1, h2]
  exact g.of_bits

/-! ## encPL -/

@[simp] theorem encPL_major (g : Guard) (pd qa qb : Pred) (f : BitVec 4) : wMajor (encPL g pd qa qb f) = 0x03#6 := by
  unfold wMajor encPL
  ext i hi
  rw [BitVec.getElem_extractLsb']
  simp only [BitVec.getLsbD_append, ← BitVec.getLsbD_eq_getElem]
  repeat (first | rw [if_neg (by omega)] | rw [if_pos (by omega)])
  congr 1 <;> omega

@[simp] theorem encPL_at15_5 (g : Guard) (pd qa qb : Pred) (f : BitVec 4) : (encPL g pd qa qb f).extractLsb' 15 5 = pd := by
  unfold encPL
  ext i hi
  rw [BitVec.getElem_extractLsb']
  simp only [BitVec.getLsbD_append, ← BitVec.getLsbD_eq_getElem]
  repeat (first | rw [if_neg (by omega)] | rw [if_pos (by omega)])
  congr 1 <;> omega

@[simp] theorem encPL_at10_5 (g : Guard) (pd qa qb : Pred) (f : BitVec 4) : (encPL g pd qa qb f).extractLsb' 10 5 = qa := by
  unfold encPL
  ext i hi
  rw [BitVec.getElem_extractLsb']
  simp only [BitVec.getLsbD_append, ← BitVec.getLsbD_eq_getElem]
  repeat (first | rw [if_neg (by omega)] | rw [if_pos (by omega)])
  congr 1 <;> omega

@[simp] theorem encPL_at9_1 (g : Guard) (pd qa qb : Pred) (f : BitVec 4) : (encPL g pd qa qb f).extractLsb' 9 1 = 0#1 := by
  unfold encPL
  ext i hi
  rw [BitVec.getElem_extractLsb']
  simp only [BitVec.getLsbD_append, ← BitVec.getLsbD_eq_getElem]
  repeat (first | rw [if_neg (by omega)] | rw [if_pos (by omega)])
  congr 1 <;> omega

@[simp] theorem encPL_at4_5 (g : Guard) (pd qa qb : Pred) (f : BitVec 4) : (encPL g pd qa qb f).extractLsb' 4 5 = qb := by
  unfold encPL
  ext i hi
  rw [BitVec.getElem_extractLsb']
  simp only [BitVec.getLsbD_append, ← BitVec.getLsbD_eq_getElem]
  repeat (first | rw [if_neg (by omega)] | rw [if_pos (by omega)])
  congr 1 <;> omega

@[simp] theorem encPL_at0_4 (g : Guard) (pd qa qb : Pred) (f : BitVec 4) : (encPL g pd qa qb f).extractLsb' 0 4 = f := by
  unfold encPL
  ext i hi
  rw [BitVec.getElem_extractLsb']
  simp only [BitVec.getLsbD_append, ← BitVec.getLsbD_eq_getElem]
  repeat (first | rw [if_neg (by omega)] | rw [if_pos (by omega)])
  congr 1 <;> omega

@[simp] theorem encPL_guard (g : Guard) (pd qa qb : Pred) (f : BitVec 4) : wGuard (encPL g pd qa qb f) = g := by
  have h1 : (encPL g pd qa qb f).extractLsb' 25 1 = g.bits.extractLsb' 5 1 := by
    unfold encPL
    ext i hi
    rw [BitVec.getElem_extractLsb', BitVec.getElem_extractLsb']
    simp only [BitVec.getLsbD_append]
    repeat (first | rw [if_neg (by omega)] | rw [if_pos (by omega)])
    congr 1
    omega
  have h2 : (encPL g pd qa qb f).extractLsb' 20 5 = g.bits.extractLsb' 0 5 := by
    unfold encPL
    ext i hi
    rw [BitVec.getElem_extractLsb', BitVec.getElem_extractLsb']
    simp only [BitVec.getLsbD_append]
    repeat (first | rw [if_neg (by omega)] | rw [if_pos (by omega)])
    congr 1
    omega
  unfold wGuard
  rw [h1, h2]
  exact g.of_bits

/-- A field within the eleven low bits of the R format is a field of those bits. -/
theorem encR_low (m : BitVec 6) (g : Guard) (d a b : Reg) (f : BitVec 11) (k n : Nat) (h : k + n ≤ 11) :
    (encR m g d a b f).extractLsb' k n = f.extractLsb' k n := by
  unfold encR
  ext i hi
  rw [BitVec.getElem_extractLsb', BitVec.getElem_extractLsb']
  simp only [BitVec.getLsbD_append]
  rw [if_pos (by omega)]

/-- A field within the fourteen low bits of the I format is a field of the immediate. -/
theorem encI_low (m : BitVec 6) (g : Guard) (d a : Reg) (v : BitVec 14) (k n : Nat) (h : k + n ≤ 14) :
    (encI m g d a v).extractLsb' k n = v.extractLsb' k n := by
  unfold encI
  ext i hi
  rw [BitVec.getElem_extractLsb', BitVec.getElem_extractLsb']
  simp only [BitVec.getLsbD_append]
  rw [if_pos (by omega)]

/-! ## Fields of two fields laid side by side -/

/-- A field that lies within the lower part. -/
theorem extract_append_low {m n : Nat} (x : BitVec m) (y : BitVec n) (k l : Nat) (h : k + l ≤ n) :
    (x ++ y).extractLsb' k l = y.extractLsb' k l := by
  ext i hi
  simp only [BitVec.getElem_extractLsb', BitVec.getLsbD_append]
  rw [if_pos (by omega)]

/-- A field that lies within the upper part. -/
theorem extract_append_high {m n : Nat} (x : BitVec m) (y : BitVec n) (k l : Nat) (h : n ≤ k) :
    (x ++ y).extractLsb' k l = x.extractLsb' (k - n) l := by
  ext i hi
  simp only [BitVec.getElem_extractLsb', BitVec.getLsbD_append]
  rw [if_neg (by omega)]
  congr 1
  omega

/-! The same for each pair of widths that the formats use, so that simp finds them. -/

theorem low_2_9 (x : BitVec 2) (y : BitVec 9) (k l : Nat) (h : k + l ≤ 9) :
    BitVec.extractLsb' (n := 11) k l (x ++ y) = y.extractLsb' k l := extract_append_low x y k l h
theorem high_2_9 (x : BitVec 2) (y : BitVec 9) (k l : Nat) (h : 9 ≤ k) :
    BitVec.extractLsb' (n := 11) k l (x ++ y) = x.extractLsb' (k - 9) l := extract_append_high x y k l h
theorem low_9_2 (x : BitVec 9) (y : BitVec 2) (k l : Nat) (h : k + l ≤ 2) :
    BitVec.extractLsb' (n := 11) k l (x ++ y) = y.extractLsb' k l := extract_append_low x y k l h
theorem high_9_2 (x : BitVec 9) (y : BitVec 2) (k l : Nat) (h : 2 ≤ k) :
    BitVec.extractLsb' (n := 11) k l (x ++ y) = x.extractLsb' (k - 2) l := extract_append_high x y k l h
theorem low_6_5 (x : BitVec 6) (y : BitVec 5) (k l : Nat) (h : k + l ≤ 5) :
    BitVec.extractLsb' (n := 11) k l (x ++ y) = y.extractLsb' k l := extract_append_low x y k l h
theorem high_6_5 (x : BitVec 6) (y : BitVec 5) (k l : Nat) (h : 5 ≤ k) :
    BitVec.extractLsb' (n := 11) k l (x ++ y) = x.extractLsb' (k - 5) l := extract_append_high x y k l h
theorem low_2_12 (x : BitVec 2) (y : BitVec 12) (k l : Nat) (h : k + l ≤ 12) :
    BitVec.extractLsb' (n := 14) k l (x ++ y) = y.extractLsb' k l := extract_append_low x y k l h
theorem high_2_12 (x : BitVec 2) (y : BitVec 12) (k l : Nat) (h : 12 ≤ k) :
    BitVec.extractLsb' (n := 14) k l (x ++ y) = x.extractLsb' (k - 12) l := extract_append_high x y k l h
theorem low_8_6 (x : BitVec 8) (y : BitVec 6) (k l : Nat) (h : k + l ≤ 6) :
    BitVec.extractLsb' (n := 14) k l (x ++ y) = y.extractLsb' k l := extract_append_low x y k l h
theorem high_8_6 (x : BitVec 8) (y : BitVec 6) (k l : Nat) (h : 6 ≤ k) :
    BitVec.extractLsb' (n := 14) k l (x ++ y) = x.extractLsb' (k - 6) l := extract_append_high x y k l h
theorem low_8_1 (x : BitVec 8) (y : BitVec 1) (k l : Nat) (h : k + l ≤ 1) :
    BitVec.extractLsb' (n := 9) k l (x ++ y) = y.extractLsb' k l := extract_append_low x y k l h
theorem high_8_1 (x : BitVec 8) (y : BitVec 1) (k l : Nat) (h : 1 ≤ k) :
    BitVec.extractLsb' (n := 9) k l (x ++ y) = x.extractLsb' (k - 1) l := extract_append_high x y k l h
theorem low_8_3 (x : BitVec 8) (y : BitVec 3) (k l : Nat) (h : k + l ≤ 3) :
    BitVec.extractLsb' (n := 11) k l (x ++ y) = y.extractLsb' k l := extract_append_low x y k l h
theorem high_8_3 (x : BitVec 8) (y : BitVec 3) (k l : Nat) (h : 3 ≤ k) :
    BitVec.extractLsb' (n := 11) k l (x ++ y) = x.extractLsb' (k - 3) l := extract_append_high x y k l h
theorem low_7_1 (x : BitVec 7) (y : BitVec 1) (k l : Nat) (h : k + l ≤ 1) :
    BitVec.extractLsb' (n := 8) k l (x ++ y) = y.extractLsb' k l := extract_append_low x y k l h
theorem high_7_1 (x : BitVec 7) (y : BitVec 1) (k l : Nat) (h : 1 ≤ k) :
    BitVec.extractLsb' (n := 8) k l (x ++ y) = x.extractLsb' (k - 1) l := extract_append_high x y k l h
theorem low_4_3 (x : BitVec 4) (y : BitVec 3) (k l : Nat) (h : k + l ≤ 3) :
    BitVec.extractLsb' (n := 7) k l (x ++ y) = y.extractLsb' k l := extract_append_low x y k l h
theorem high_4_3 (x : BitVec 4) (y : BitVec 3) (k l : Nat) (h : 3 ≤ k) :
    BitVec.extractLsb' (n := 7) k l (x ++ y) = x.extractLsb' (k - 3) l := extract_append_high x y k l h
theorem low_3_8 (x : BitVec 3) (y : BitVec 8) (k l : Nat) (h : k + l ≤ 8) :
    BitVec.extractLsb' (n := 11) k l (x ++ y) = y.extractLsb' k l := extract_append_low x y k l h
theorem high_3_8 (x : BitVec 3) (y : BitVec 8) (k l : Nat) (h : 8 ≤ k) :
    BitVec.extractLsb' (n := 11) k l (x ++ y) = x.extractLsb' (k - 8) l := extract_append_high x y k l h
theorem low_2_1 (x : BitVec 2) (y : BitVec 1) (k l : Nat) (h : k + l ≤ 1) :
    BitVec.extractLsb' (n := 3) k l (x ++ y) = y.extractLsb' k l := extract_append_low x y k l h
theorem high_2_1 (x : BitVec 2) (y : BitVec 1) (k l : Nat) (h : 1 ≤ k) :
    BitVec.extractLsb' (n := 3) k l (x ++ y) = x.extractLsb' (k - 1) l := extract_append_high x y k l h
theorem low_10_1 (x : BitVec 10) (y : BitVec 1) (k l : Nat) (h : k + l ≤ 1) :
    BitVec.extractLsb' (n := 11) k l (x ++ y) = y.extractLsb' k l := extract_append_low x y k l h
theorem high_10_1 (x : BitVec 10) (y : BitVec 1) (k l : Nat) (h : 1 ≤ k) :
    BitVec.extractLsb' (n := 11) k l (x ++ y) = x.extractLsb' (k - 1) l := extract_append_high x y k l h
theorem low_8_2 (x : BitVec 8) (y : BitVec 2) (k l : Nat) (h : k + l ≤ 2) :
    BitVec.extractLsb' (n := 10) k l (x ++ y) = y.extractLsb' k l := extract_append_low x y k l h
theorem high_8_2 (x : BitVec 8) (y : BitVec 2) (k l : Nat) (h : 2 ≤ k) :
    BitVec.extractLsb' (n := 10) k l (x ++ y) = x.extractLsb' (k - 2) l := extract_append_high x y k l h
theorem low_5_3 (x : BitVec 5) (y : BitVec 3) (k l : Nat) (h : k + l ≤ 3) :
    BitVec.extractLsb' (n := 8) k l (x ++ y) = y.extractLsb' k l := extract_append_low x y k l h
theorem high_5_3 (x : BitVec 5) (y : BitVec 3) (k l : Nat) (h : 3 ≤ k) :
    BitVec.extractLsb' (n := 8) k l (x ++ y) = x.extractLsb' (k - 3) l := extract_append_high x y k l h
theorem low_4_7 (x : BitVec 4) (y : BitVec 7) (k l : Nat) (h : k + l ≤ 7) :
    BitVec.extractLsb' (n := 11) k l (x ++ y) = y.extractLsb' k l := extract_append_low x y k l h
theorem high_4_7 (x : BitVec 4) (y : BitVec 7) (k l : Nat) (h : 7 ≤ k) :
    BitVec.extractLsb' (n := 11) k l (x ++ y) = x.extractLsb' (k - 7) l := extract_append_high x y k l h
theorem low_3_1 (x : BitVec 3) (y : BitVec 1) (k l : Nat) (h : k + l ≤ 1) :
    BitVec.extractLsb' (n := 4) k l (x ++ y) = y.extractLsb' k l := extract_append_low x y k l h
theorem high_3_1 (x : BitVec 3) (y : BitVec 1) (k l : Nat) (h : 1 ≤ k) :
    BitVec.extractLsb' (n := 4) k l (x ++ y) = x.extractLsb' (k - 1) l := extract_append_high x y k l h
theorem low_2_2 (x : BitVec 2) (y : BitVec 2) (k l : Nat) (h : k + l ≤ 2) :
    BitVec.extractLsb' (n := 4) k l (x ++ y) = y.extractLsb' k l := extract_append_low x y k l h
theorem high_2_2 (x : BitVec 2) (y : BitVec 2) (k l : Nat) (h : 2 ≤ k) :
    BitVec.extractLsb' (n := 4) k l (x ++ y) = x.extractLsb' (k - 2) l := extract_append_high x y k l h
theorem low_1_1 (x : BitVec 1) (y : BitVec 1) (k l : Nat) (h : k + l ≤ 1) :
    BitVec.extractLsb' (n := 2) k l (x ++ y) = y.extractLsb' k l := extract_append_low x y k l h
theorem high_1_1 (x : BitVec 1) (y : BitVec 1) (k l : Nat) (h : 1 ≤ k) :
    BitVec.extractLsb' (n := 2) k l (x ++ y) = x.extractLsb' (k - 1) l := extract_append_high x y k l h
theorem low_7_4 (x : BitVec 7) (y : BitVec 4) (k l : Nat) (h : k + l ≤ 4) :
    BitVec.extractLsb' (n := 11) k l (x ++ y) = y.extractLsb' k l := extract_append_low x y k l h
theorem high_7_4 (x : BitVec 7) (y : BitVec 4) (k l : Nat) (h : 4 ≤ k) :
    BitVec.extractLsb' (n := 11) k l (x ++ y) = x.extractLsb' (k - 4) l := extract_append_high x y k l h
theorem low_6_1 (x : BitVec 6) (y : BitVec 1) (k l : Nat) (h : k + l ≤ 1) :
    BitVec.extractLsb' (n := 7) k l (x ++ y) = y.extractLsb' k l := extract_append_low x y k l h
theorem high_6_1 (x : BitVec 6) (y : BitVec 1) (k l : Nat) (h : 1 ≤ k) :
    BitVec.extractLsb' (n := 7) k l (x ++ y) = x.extractLsb' (k - 1) l := extract_append_high x y k l h
theorem low_3_3 (x : BitVec 3) (y : BitVec 3) (k l : Nat) (h : k + l ≤ 3) :
    BitVec.extractLsb' (n := 6) k l (x ++ y) = y.extractLsb' k l := extract_append_low x y k l h
theorem high_3_3 (x : BitVec 3) (y : BitVec 3) (k l : Nat) (h : 3 ≤ k) :
    BitVec.extractLsb' (n := 6) k l (x ++ y) = x.extractLsb' (k - 3) l := extract_append_high x y k l h
theorem low_2_3 (x : BitVec 2) (y : BitVec 3) (k l : Nat) (h : k + l ≤ 3) :
    BitVec.extractLsb' (n := 5) k l (x ++ y) = y.extractLsb' k l := extract_append_low x y k l h
theorem high_2_3 (x : BitVec 2) (y : BitVec 3) (k l : Nat) (h : 3 ≤ k) :
    BitVec.extractLsb' (n := 5) k l (x ++ y) = x.extractLsb' (k - 3) l := extract_append_high x y k l h
theorem low_1_2 (x : BitVec 1) (y : BitVec 2) (k l : Nat) (h : k + l ≤ 2) :
    BitVec.extractLsb' (n := 3) k l (x ++ y) = y.extractLsb' k l := extract_append_low x y k l h
theorem high_1_2 (x : BitVec 1) (y : BitVec 2) (k l : Nat) (h : 2 ≤ k) :
    BitVec.extractLsb' (n := 3) k l (x ++ y) = x.extractLsb' (k - 2) l := extract_append_high x y k l h
theorem low_6_2 (x : BitVec 6) (y : BitVec 2) (k l : Nat) (h : k + l ≤ 2) :
    BitVec.extractLsb' (n := 8) k l (x ++ y) = y.extractLsb' k l := extract_append_low x y k l h
theorem high_6_2 (x : BitVec 6) (y : BitVec 2) (k l : Nat) (h : 2 ≤ k) :
    BitVec.extractLsb' (n := 8) k l (x ++ y) = x.extractLsb' (k - 2) l := extract_append_high x y k l h

/-! ## The decoder of each major (R55) -/

/-- Words of major 0x01. -/
theorem decode_major_01 {w : W32} (h : wMajor w = 0x01#6) : decode w = decodeControl w (wGuard w) := by
  unfold decode
  rw [h]
  rfl

/-- Words of major 0x02. -/
theorem decode_major_02 {w : W32} (h : wMajor w = 0x02#6) : decode w = decodeControl w (wGuard w) := by
  unfold decode
  rw [h]
  rfl

/-- Words of major 0x03. -/
theorem decode_major_03 {w : W32} (h : wMajor w = 0x03#6) : decode w = decodePred w (wGuard w) := by
  unfold decode
  rw [h]
  rfl

/-- Words of major 0x04. -/
theorem decode_major_04 {w : W32} (h : wMajor w = 0x04#6) : decode w = decodeSystem w (wGuard w) := by
  unfold decode
  rw [h]
  rfl

/-- Words of major 0x08. -/
theorem decode_major_08 {w : W32} (h : wMajor w = 0x08#6) : decode w = decodeInt w (wGuard w) := by
  unfold decode
  rw [h]
  rfl

/-- Words of major 0x0A. -/
theorem decode_major_0A {w : W32} (h : wMajor w = 0x0A#6) : decode w = decodeImm w (wGuard w) := by
  unfold decode
  rw [h]
  rfl

/-- Words of major 0x0B. -/
theorem decode_major_0B {w : W32} (h : wMajor w = 0x0B#6) : decode w = decodeImm w (wGuard w) := by
  unfold decode
  rw [h]
  rfl

/-- Words of major 0x0E. -/
theorem decode_major_0E {w : W32} (h : wMajor w = 0x0E#6) : decode w = decodeMulBits w (wGuard w) := by
  unfold decode
  rw [h]
  rfl

/-- Words of major 0x0F. -/
theorem decode_major_0F {w : W32} (h : wMajor w = 0x0F#6) : decode w = decodeMulBits w (wGuard w) := by
  unfold decode
  rw [h]
  rfl

/-- Words of major 0x10. -/
theorem decode_major_10 {w : W32} (h : wMajor w = 0x10#6) : decode w = decodeVec w (wGuard w) := by
  unfold decode
  rw [h]
  rfl

/-- Words of major 0x11. -/
theorem decode_major_11 {w : W32} (h : wMajor w = 0x11#6) : decode w = decodeFloat w (wGuard w) := by
  unfold decode
  rw [h]
  rfl

/-- Words of major 0x12. -/
theorem decode_major_12 {w : W32} (h : wMajor w = 0x12#6) : decode w = decodeFloat w (wGuard w) := by
  unfold decode
  rw [h]
  rfl

/-- Words of major 0x13. -/
theorem decode_major_13 {w : W32} (h : wMajor w = 0x13#6) : decode w = decodeFloat w (wGuard w) := by
  unfold decode
  rw [h]
  rfl

/-- Words of major 0x14. -/
theorem decode_major_14 {w : W32} (h : wMajor w = 0x14#6) : decode w = decodeCvtPermute w (wGuard w) := by
  unfold decode
  rw [h]
  rfl

/-- Words of major 0x15. -/
theorem decode_major_15 {w : W32} (h : wMajor w = 0x15#6) : decode w = decodeCvtPermute w (wGuard w) := by
  unfold decode
  rw [h]
  rfl

/-- Words of major 0x18. -/
theorem decode_major_18 {w : W32} (h : wMajor w = 0x18#6) : decode w = decodeLoadStore w (wGuard w) := by
  unfold decode
  rw [h]
  rfl

/-- Words of major 0x19. -/
theorem decode_major_19 {w : W32} (h : wMajor w = 0x19#6) : decode w = decodeLoadStore w (wGuard w) := by
  unfold decode
  rw [h]
  rfl

/-- Words of major 0x1A. -/
theorem decode_major_1A {w : W32} (h : wMajor w = 0x1A#6) : decode w = decodeLoadStore w (wGuard w) := by
  unfold decode
  rw [h]
  rfl

/-- Words of major 0x1B. -/
theorem decode_major_1B {w : W32} (h : wMajor w = 0x1B#6) : decode w = decodeLoadStore w (wGuard w) := by
  unfold decode
  rw [h]
  rfl

/-- Words of major 0x1C. -/
theorem decode_major_1C {w : W32} (h : wMajor w = 0x1C#6) : decode w = decodeSync w (wGuard w) := by
  unfold decode
  rw [h]
  rfl

/-- Words of major 0x20. -/
theorem decode_major_20 {w : W32} (h : wMajor w = 0x20#6) : decode w = decodeSync w (wGuard w) := by
  unfold decode
  rw [h]
  rfl

/-- Words of major 0x21. -/
theorem decode_major_21 {w : W32} (h : wMajor w = 0x21#6) : decode w = decodeSync w (wGuard w) := by
  unfold decode
  rw [h]
  rfl

/-- Words of major 0x22. -/
theorem decode_major_22 {w : W32} (h : wMajor w = 0x22#6) : decode w = decodeSync w (wGuard w) := by
  unfold decode
  rw [h]
  rfl

/-- Words of major 0x28. -/
theorem decode_major_28 {w : W32} (h : wMajor w = 0x28#6) : decode w = decodeTile w (wGuard w) := by
  unfold decode
  rw [h]
  rfl

/-- Words of major 0x29. -/
theorem decode_major_29 {w : W32} (h : wMajor w = 0x29#6) : decode w = decodeTile w (wGuard w) := by
  unfold decode
  rw [h]
  rfl

/-- Words of major 0x2A. -/
theorem decode_major_2A {w : W32} (h : wMajor w = 0x2A#6) : decode w = decodeAccRing w (wGuard w) := by
  unfold decode
  rw [h]
  rfl

/-- Words of major 0x2B. -/
theorem decode_major_2B {w : W32} (h : wMajor w = 0x2B#6) : decode w = decodeAccRing w (wGuard w) := by
  unfold decode
  rw [h]
  rfl

/-- Words of major 0x2C. -/
theorem decode_major_2C {w : W32} (h : wMajor w = 0x2C#6) : decode w = decodeAttnQuant w (wGuard w) := by
  unfold decode
  rw [h]
  rfl

/-- Words of major 0x2D. -/
theorem decode_major_2D {w : W32} (h : wMajor w = 0x2D#6) : decode w = decodeAttnQuant w (wGuard w) := by
  unfold decode
  rw [h]
  rfl

/-- Words of major 0x30. -/
theorem decode_major_30 {w : W32} (h : wMajor w = 0x30#6) : decode w = decodeEngine w (wGuard w) := by
  unfold decode
  rw [h]
  rfl

/-- Words of major 0x31. -/
theorem decode_major_31 {w : W32} (h : wMajor w = 0x31#6) : decode w = decodeEngine w (wGuard w) := by
  unfold decode
  rw [h]
  rfl

/-- Words of major 0x32. -/
theorem decode_major_32 {w : W32} (h : wMajor w = 0x32#6) : decode w = decodeEngine w (wGuard w) := by
  unfold decode
  rw [h]
  rfl

/-- Words of major 0x33. -/
theorem decode_major_33 {w : W32} (h : wMajor w = 0x33#6) : decode w = decodeEngine w (wGuard w) := by
  unfold decode
  rw [h]
  rfl

/-- Words of major 0x34. -/
theorem decode_major_34 {w : W32} (h : wMajor w = 0x34#6) : decode w = decodeFence w (wGuard w) := by
  unfold decode
  rw [h]
  rfl

/-- Words of major 0x38. -/
theorem decode_major_38 {w : W32} (h : wMajor w = 0x38#6) : decode w = decodeTask w (wGuard w) := by
  unfold decode
  rw [h]
  rfl

/-- Words of major 0x39. -/
theorem decode_major_39 {w : W32} (h : wMajor w = 0x39#6) : decode w = decodeTask w (wGuard w) := by
  unfold decode
  rw [h]
  rfl

/-- Words of major 0x3A. -/
theorem decode_major_3A {w : W32} (h : wMajor w = 0x3A#6) : decode w = decodeTask w (wGuard w) := by
  unfold decode
  rw [h]
  rfl

/-- Words of major 0x3C. -/
theorem decode_major_3C {w : W32} (h : wMajor w = 0x3C#6) : decode w = decodePriv w (wGuard w) := by
  unfold decode
  rw [h]
  rfl

/-- Words of major 0x3D. -/
theorem decode_major_3D {w : W32} (h : wMajor w = 0x3D#6) : decode w = decodePriv w (wGuard w) := by
  unfold decode
  rw [h]
  rfl

end Sys2Proof
end

