-- ==== Sys2Proof/Laws/State.lean ====
section
/-! SUPPORT. What each plain update of the state leaves of each field: one lemma a field, true by definition, so that no proof
unfolds a record update. -/

namespace Sys2Proof.Machine

/-! ### setCtx -/

@[simp] theorem State.setCtx_lines (s : State) (va : Nat) (c : Ctx) :
    (s.setCtx va c).lines = Assoc.set s.lines va c := rfl
@[simp] theorem State.setCtx_records (s : State) (va : Nat) (c : Ctx) : (s.setCtx va c).records = s.records := rfl
@[simp] theorem State.setCtx_units (s : State) (va : Nat) (c : Ctx) : (s.setCtx va c).units = s.units := rfl
@[simp] theorem State.setCtx_clusters (s : State) (va : Nat) (c : Ctx) : (s.setCtx va c).clusters = s.clusters := rfl
@[simp] theorem State.setCtx_hstacks (s : State) (va : Nat) (c : Ctx) : (s.setCtx va c).hstacks = s.hstacks := rfl
@[simp] theorem State.setCtx_corr (s : State) (va : Nat) (c : Ctx) : (s.setCtx va c).corr = s.corr := rfl
@[simp] theorem State.setCtx_tenants (s : State) (va : Nat) (c : Ctx) : (s.setCtx va c).tenants = s.tenants := rfl
@[simp] theorem State.setCtx_qwt (s : State) (va : Nat) (c : Ctx) : (s.setCtx va c).qwt = s.qwt := rfl
@[simp] theorem State.setCtx_mem (s : State) (va : Nat) (c : Ctx) : (s.setCtx va c).mem = s.mem := rfl
@[simp] theorem State.setCtx_feEmpty (s : State) (va : Nat) (c : Ctx) : (s.setCtx va c).feEmpty = s.feEmpty := rfl
@[simp] theorem State.setCtx_blockTag (s : State) (va : Nat) (c : Ctx) : (s.setCtx va c).blockTag = s.blockTag := rfl
@[simp] theorem State.setCtx_damage (s : State) (va : Nat) (c : Ctx) : (s.setCtx va c).damage = s.damage := rfl
@[simp] theorem State.setCtx_quarantine (s : State) (va : Nat) (c : Ctx) : (s.setCtx va c).quarantine = s.quarantine := rfl
@[simp] theorem State.setCtx_pageRecs (s : State) (va : Nat) (c : Ctx) : (s.setCtx va c).pageRecs = s.pageRecs := rfl
@[simp] theorem State.setCtx_keys (s : State) (va : Nat) (c : Ctx) : (s.setCtx va c).keys = s.keys := rfl
@[simp] theorem State.setCtx_keyStore (s : State) (va : Nat) (c : Ctx) : (s.setCtx va c).keyStore = s.keyStore := rfl
@[simp] theorem State.setCtx_scratch (s : State) (va : Nat) (c : Ctx) : (s.setCtx va c).scratch = s.scratch := rfl
@[simp] theorem State.setCtx_scratchUsed (s : State) (va : Nat) (c : Ctx) : (s.setCtx va c).scratchUsed = s.scratchUsed := rfl
@[simp] theorem State.setCtx_ringLists (s : State) (va : Nat) (c : Ctx) : (s.setCtx va c).ringLists = s.ringLists := rfl
@[simp] theorem State.setCtx_deferred (s : State) (va : Nat) (c : Ctx) : (s.setCtx va c).deferred = s.deferred := rfl
@[simp] theorem State.setCtx_armed (s : State) (va : Nat) (c : Ctx) : (s.setCtx va c).armed = s.armed := rfl
@[simp] theorem State.setCtx_pagesUnder (s : State) (va : Nat) (c : Ctx) : (s.setCtx va c).pagesUnder = s.pagesUnder := rfl
@[simp] theorem State.setCtx_wire (s : State) (va : Nat) (c : Ctx) : (s.setCtx va c).wire = s.wire := rfl
@[simp] theorem State.setCtx_nextId (s : State) (va : Nat) (c : Ctx) : (s.setCtx va c).nextId = s.nextId := rfl
@[simp] theorem State.setCtx_cmds (s : State) (va : Nat) (c : Ctx) : (s.setCtx va c).cmds = s.cmds := rfl
@[simp] theorem State.setCtx_tileOps (s : State) (va : Nat) (c : Ctx) : (s.setCtx va c).tileOps = s.tileOps := rfl
@[simp] theorem State.setCtx_groups (s : State) (va : Nat) (c : Ctx) : (s.setCtx va c).groups = s.groups := rfl
@[simp] theorem State.setCtx_hostOut (s : State) (va : Nat) (c : Ctx) : (s.setCtx va c).hostOut = s.hostOut := rfl
@[simp] theorem State.setCtx_kept (s : State) (va : Nat) (c : Ctx) : (s.setCtx va c).kept = s.kept := rfl
@[simp] theorem State.setCtx_peerOut (s : State) (va : Nat) (c : Ctx) : (s.setCtx va c).peerOut = s.peerOut := rfl
@[simp] theorem State.setCtx_linkUp (s : State) (va : Nat) (c : Ctx) : (s.setCtx va c).linkUp = s.linkUp := rfl
@[simp] theorem State.setCtx_corrected (s : State) (va : Nat) (c : Ctx) : (s.setCtx va c).corrected = s.corrected := rfl
@[simp] theorem State.setCtx_faulted (s : State) (va : Nat) (c : Ctx) : (s.setCtx va c).faulted = s.faulted := rfl
@[simp] theorem State.setCtx_device (s : State) (va : Nat) (c : Ctx) : (s.setCtx va c).device = s.device := rfl
@[simp] theorem State.setCtx_deviceSet (s : State) (va : Nat) (c : Ctx) : (s.setCtx va c).deviceSet = s.deviceSet := rfl
@[simp] theorem State.setCtx_start (s : State) (va : Nat) (c : Ctx) : (s.setCtx va c).start = s.start := rfl
@[simp] theorem State.setCtx_minVersion (s : State) (va : Nat) (c : Ctx) : (s.setCtx va c).minVersion = s.minVersion := rfl
@[simp] theorem State.setCtx_fwDigest (s : State) (va : Nat) (c : Ctx) : (s.setCtx va c).fwDigest = s.fwDigest := rfl
@[simp] theorem State.setCtx_fwVersion (s : State) (va : Nat) (c : Ctx) : (s.setCtx va c).fwVersion = s.fwVersion := rfl
@[simp] theorem State.setCtx_moved (s : State) (va : Nat) (c : Ctx) : (s.setCtx va c).moved = s.moved := rfl
@[simp] theorem State.setCtx_skipped (s : State) (va : Nat) (c : Ctx) : (s.setCtx va c).skipped = s.skipped := rfl
@[simp] theorem State.setCtx_passedOver (s : State) (va : Nat) (c : Ctx) : (s.setCtx va c).passedOver = s.passedOver := rfl
@[simp] theorem State.setCtx_abroad (s : State) (va : Nat) (c : Ctx) : (s.setCtx va c).abroad = s.abroad := rfl
@[simp] theorem State.setCtx_homing (s : State) (va : Nat) (c : Ctx) : (s.setCtx va c).homing = s.homing := rfl
@[simp] theorem State.setCtx_mapped (s : State) (va : Nat) (c : Ctx) : (s.setCtx va c).mapped = s.mapped := rfl
@[simp] theorem State.setCtx_asked (s : State) (va : Nat) (c : Ctx) : (s.setCtx va c).asked = s.asked := rfl
@[simp] theorem State.setCtx_starting (s : State) (va : Nat) (c : Ctx) : (s.setCtx va c).starting = s.starting := rfl
@[simp] theorem State.setCtx_imageDigest (s : State) (va : Nat) (c : Ctx) : (s.setCtx va c).imageDigest = s.imageDigest := rfl
@[simp] theorem State.setCtx_imageVersion (s : State) (va : Nat) (c : Ctx) : (s.setCtx va c).imageVersion = s.imageVersion := rfl
@[simp] theorem State.setCtx_spaceDue (s : State) (va : Nat) (c : Ctx) : (s.setCtx va c).spaceDue = s.spaceDue := rfl
@[simp] theorem State.setCtx_stamp (s : State) (va : Nat) (c : Ctx) : (s.setCtx va c).stamp = s.stamp := rfl
@[simp] theorem State.setCtx_agenda (s : State) (va : Nat) (c : Ctx) : (s.setCtx va c).agenda = s.agenda := rfl
@[simp] theorem State.setCtx_focus (s : State) (va : Nat) (c : Ctx) : (s.setCtx va c).focus = s.focus := rfl
@[simp] theorem State.setCtx_wireTurn (s : State) (va : Nat) (c : Ctx) : (s.setCtx va c).wireTurn = s.wireTurn := rfl
@[simp] theorem State.setCtx_turnUnit (s : State) (va : Nat) (c : Ctx) : (s.setCtx va c).turnUnit = s.turnUnit := rfl
@[simp] theorem State.setCtx_turnSlot (s : State) (va : Nat) (c : Ctx) : (s.setCtx va c).turnSlot = s.turnSlot := rfl
@[simp] theorem State.setCtx_fetched (s : State) (va : Nat) (c : Ctx) : (s.setCtx va c).fetched = s.fetched := rfl

/-! ### setUnit -/

@[simp] theorem State.setUnit_lines (s : State) (u : Nat) (x : Unit) : (s.setUnit u x).lines = s.lines := rfl
@[simp] theorem State.setUnit_records (s : State) (u : Nat) (x : Unit) : (s.setUnit u x).records = s.records := rfl
@[simp] theorem State.setUnit_units (s : State) (u : Nat) (x : Unit) :
    (s.setUnit u x).units = Assoc.set s.units u x := rfl
@[simp] theorem State.setUnit_clusters (s : State) (u : Nat) (x : Unit) : (s.setUnit u x).clusters = s.clusters := rfl
@[simp] theorem State.setUnit_hstacks (s : State) (u : Nat) (x : Unit) : (s.setUnit u x).hstacks = s.hstacks := rfl
@[simp] theorem State.setUnit_corr (s : State) (u : Nat) (x : Unit) : (s.setUnit u x).corr = s.corr := rfl
@[simp] theorem State.setUnit_tenants (s : State) (u : Nat) (x : Unit) : (s.setUnit u x).tenants = s.tenants := rfl
@[simp] theorem State.setUnit_qwt (s : State) (u : Nat) (x : Unit) : (s.setUnit u x).qwt = s.qwt := rfl
@[simp] theorem State.setUnit_mem (s : State) (u : Nat) (x : Unit) : (s.setUnit u x).mem = s.mem := rfl
@[simp] theorem State.setUnit_feEmpty (s : State) (u : Nat) (x : Unit) : (s.setUnit u x).feEmpty = s.feEmpty := rfl
@[simp] theorem State.setUnit_blockTag (s : State) (u : Nat) (x : Unit) : (s.setUnit u x).blockTag = s.blockTag := rfl
@[simp] theorem State.setUnit_damage (s : State) (u : Nat) (x : Unit) : (s.setUnit u x).damage = s.damage := rfl
@[simp] theorem State.setUnit_quarantine (s : State) (u : Nat) (x : Unit) : (s.setUnit u x).quarantine = s.quarantine := rfl
@[simp] theorem State.setUnit_pageRecs (s : State) (u : Nat) (x : Unit) : (s.setUnit u x).pageRecs = s.pageRecs := rfl
@[simp] theorem State.setUnit_keys (s : State) (u : Nat) (x : Unit) : (s.setUnit u x).keys = s.keys := rfl
@[simp] theorem State.setUnit_keyStore (s : State) (u : Nat) (x : Unit) : (s.setUnit u x).keyStore = s.keyStore := rfl
@[simp] theorem State.setUnit_scratch (s : State) (u : Nat) (x : Unit) : (s.setUnit u x).scratch = s.scratch := rfl
@[simp] theorem State.setUnit_scratchUsed (s : State) (u : Nat) (x : Unit) : (s.setUnit u x).scratchUsed = s.scratchUsed := rfl
@[simp] theorem State.setUnit_ringLists (s : State) (u : Nat) (x : Unit) : (s.setUnit u x).ringLists = s.ringLists := rfl
@[simp] theorem State.setUnit_deferred (s : State) (u : Nat) (x : Unit) : (s.setUnit u x).deferred = s.deferred := rfl
@[simp] theorem State.setUnit_armed (s : State) (u : Nat) (x : Unit) : (s.setUnit u x).armed = s.armed := rfl
@[simp] theorem State.setUnit_pagesUnder (s : State) (u : Nat) (x : Unit) : (s.setUnit u x).pagesUnder = s.pagesUnder := rfl
@[simp] theorem State.setUnit_wire (s : State) (u : Nat) (x : Unit) : (s.setUnit u x).wire = s.wire := rfl
@[simp] theorem State.setUnit_nextId (s : State) (u : Nat) (x : Unit) : (s.setUnit u x).nextId = s.nextId := rfl
@[simp] theorem State.setUnit_cmds (s : State) (u : Nat) (x : Unit) : (s.setUnit u x).cmds = s.cmds := rfl
@[simp] theorem State.setUnit_tileOps (s : State) (u : Nat) (x : Unit) : (s.setUnit u x).tileOps = s.tileOps := rfl
@[simp] theorem State.setUnit_groups (s : State) (u : Nat) (x : Unit) : (s.setUnit u x).groups = s.groups := rfl
@[simp] theorem State.setUnit_hostOut (s : State) (u : Nat) (x : Unit) : (s.setUnit u x).hostOut = s.hostOut := rfl
@[simp] theorem State.setUnit_kept (s : State) (u : Nat) (x : Unit) : (s.setUnit u x).kept = s.kept := rfl
@[simp] theorem State.setUnit_peerOut (s : State) (u : Nat) (x : Unit) : (s.setUnit u x).peerOut = s.peerOut := rfl
@[simp] theorem State.setUnit_linkUp (s : State) (u : Nat) (x : Unit) : (s.setUnit u x).linkUp = s.linkUp := rfl
@[simp] theorem State.setUnit_corrected (s : State) (u : Nat) (x : Unit) : (s.setUnit u x).corrected = s.corrected := rfl
@[simp] theorem State.setUnit_faulted (s : State) (u : Nat) (x : Unit) : (s.setUnit u x).faulted = s.faulted := rfl
@[simp] theorem State.setUnit_device (s : State) (u : Nat) (x : Unit) : (s.setUnit u x).device = s.device := rfl
@[simp] theorem State.setUnit_deviceSet (s : State) (u : Nat) (x : Unit) : (s.setUnit u x).deviceSet = s.deviceSet := rfl
@[simp] theorem State.setUnit_start (s : State) (u : Nat) (x : Unit) : (s.setUnit u x).start = s.start := rfl
@[simp] theorem State.setUnit_minVersion (s : State) (u : Nat) (x : Unit) : (s.setUnit u x).minVersion = s.minVersion := rfl
@[simp] theorem State.setUnit_fwDigest (s : State) (u : Nat) (x : Unit) : (s.setUnit u x).fwDigest = s.fwDigest := rfl
@[simp] theorem State.setUnit_fwVersion (s : State) (u : Nat) (x : Unit) : (s.setUnit u x).fwVersion = s.fwVersion := rfl
@[simp] theorem State.setUnit_moved (s : State) (u : Nat) (x : Unit) : (s.setUnit u x).moved = s.moved := rfl
@[simp] theorem State.setUnit_skipped (s : State) (u : Nat) (x : Unit) : (s.setUnit u x).skipped = s.skipped := rfl
@[simp] theorem State.setUnit_passedOver (s : State) (u : Nat) (x : Unit) : (s.setUnit u x).passedOver = s.passedOver := rfl
@[simp] theorem State.setUnit_abroad (s : State) (u : Nat) (x : Unit) : (s.setUnit u x).abroad = s.abroad := rfl
@[simp] theorem State.setUnit_homing (s : State) (u : Nat) (x : Unit) : (s.setUnit u x).homing = s.homing := rfl
@[simp] theorem State.setUnit_mapped (s : State) (u : Nat) (x : Unit) : (s.setUnit u x).mapped = s.mapped := rfl
@[simp] theorem State.setUnit_asked (s : State) (u : Nat) (x : Unit) : (s.setUnit u x).asked = s.asked := rfl
@[simp] theorem State.setUnit_starting (s : State) (u : Nat) (x : Unit) : (s.setUnit u x).starting = s.starting := rfl
@[simp] theorem State.setUnit_imageDigest (s : State) (u : Nat) (x : Unit) : (s.setUnit u x).imageDigest = s.imageDigest := rfl
@[simp] theorem State.setUnit_imageVersion (s : State) (u : Nat) (x : Unit) : (s.setUnit u x).imageVersion = s.imageVersion := rfl
@[simp] theorem State.setUnit_spaceDue (s : State) (u : Nat) (x : Unit) : (s.setUnit u x).spaceDue = s.spaceDue := rfl
@[simp] theorem State.setUnit_stamp (s : State) (u : Nat) (x : Unit) : (s.setUnit u x).stamp = s.stamp := rfl
@[simp] theorem State.setUnit_agenda (s : State) (u : Nat) (x : Unit) : (s.setUnit u x).agenda = s.agenda := rfl
@[simp] theorem State.setUnit_focus (s : State) (u : Nat) (x : Unit) : (s.setUnit u x).focus = s.focus := rfl
@[simp] theorem State.setUnit_wireTurn (s : State) (u : Nat) (x : Unit) : (s.setUnit u x).wireTurn = s.wireTurn := rfl
@[simp] theorem State.setUnit_turnUnit (s : State) (u : Nat) (x : Unit) : (s.setUnit u x).turnUnit = s.turnUnit := rfl
@[simp] theorem State.setUnit_turnSlot (s : State) (u : Nat) (x : Unit) : (s.setUnit u x).turnSlot = s.turnSlot := rfl
@[simp] theorem State.setUnit_fetched (s : State) (u : Nat) (x : Unit) : (s.setUnit u x).fetched = s.fetched := rfl

/-! ### modUnit -/

@[simp] theorem State.modUnit_lines (s : State) (u : Nat) (f : Unit → Unit) : (s.modUnit u f).lines = s.lines := rfl
@[simp] theorem State.modUnit_records (s : State) (u : Nat) (f : Unit → Unit) : (s.modUnit u f).records = s.records := rfl
@[simp] theorem State.modUnit_units (s : State) (u : Nat) (f : Unit → Unit) :
    (s.modUnit u f).units = Assoc.set s.units u (f (s.unit u)) := rfl
@[simp] theorem State.modUnit_clusters (s : State) (u : Nat) (f : Unit → Unit) : (s.modUnit u f).clusters = s.clusters := rfl
@[simp] theorem State.modUnit_hstacks (s : State) (u : Nat) (f : Unit → Unit) : (s.modUnit u f).hstacks = s.hstacks := rfl
@[simp] theorem State.modUnit_corr (s : State) (u : Nat) (f : Unit → Unit) : (s.modUnit u f).corr = s.corr := rfl
@[simp] theorem State.modUnit_tenants (s : State) (u : Nat) (f : Unit → Unit) : (s.modUnit u f).tenants = s.tenants := rfl
@[simp] theorem State.modUnit_qwt (s : State) (u : Nat) (f : Unit → Unit) : (s.modUnit u f).qwt = s.qwt := rfl
@[simp] theorem State.modUnit_mem (s : State) (u : Nat) (f : Unit → Unit) : (s.modUnit u f).mem = s.mem := rfl
@[simp] theorem State.modUnit_feEmpty (s : State) (u : Nat) (f : Unit → Unit) : (s.modUnit u f).feEmpty = s.feEmpty := rfl
@[simp] theorem State.modUnit_blockTag (s : State) (u : Nat) (f : Unit → Unit) : (s.modUnit u f).blockTag = s.blockTag := rfl
@[simp] theorem State.modUnit_damage (s : State) (u : Nat) (f : Unit → Unit) : (s.modUnit u f).damage = s.damage := rfl
@[simp] theorem State.modUnit_quarantine (s : State) (u : Nat) (f : Unit → Unit) : (s.modUnit u f).quarantine = s.quarantine := rfl
@[simp] theorem State.modUnit_pageRecs (s : State) (u : Nat) (f : Unit → Unit) : (s.modUnit u f).pageRecs = s.pageRecs := rfl
@[simp] theorem State.modUnit_keys (s : State) (u : Nat) (f : Unit → Unit) : (s.modUnit u f).keys = s.keys := rfl
@[simp] theorem State.modUnit_keyStore (s : State) (u : Nat) (f : Unit → Unit) : (s.modUnit u f).keyStore = s.keyStore := rfl
@[simp] theorem State.modUnit_scratch (s : State) (u : Nat) (f : Unit → Unit) : (s.modUnit u f).scratch = s.scratch := rfl
@[simp] theorem State.modUnit_scratchUsed (s : State) (u : Nat) (f : Unit → Unit) : (s.modUnit u f).scratchUsed = s.scratchUsed := rfl
@[simp] theorem State.modUnit_ringLists (s : State) (u : Nat) (f : Unit → Unit) : (s.modUnit u f).ringLists = s.ringLists := rfl
@[simp] theorem State.modUnit_deferred (s : State) (u : Nat) (f : Unit → Unit) : (s.modUnit u f).deferred = s.deferred := rfl
@[simp] theorem State.modUnit_armed (s : State) (u : Nat) (f : Unit → Unit) : (s.modUnit u f).armed = s.armed := rfl
@[simp] theorem State.modUnit_pagesUnder (s : State) (u : Nat) (f : Unit → Unit) : (s.modUnit u f).pagesUnder = s.pagesUnder := rfl
@[simp] theorem State.modUnit_wire (s : State) (u : Nat) (f : Unit → Unit) : (s.modUnit u f).wire = s.wire := rfl
@[simp] theorem State.modUnit_nextId (s : State) (u : Nat) (f : Unit → Unit) : (s.modUnit u f).nextId = s.nextId := rfl
@[simp] theorem State.modUnit_cmds (s : State) (u : Nat) (f : Unit → Unit) : (s.modUnit u f).cmds = s.cmds := rfl
@[simp] theorem State.modUnit_tileOps (s : State) (u : Nat) (f : Unit → Unit) : (s.modUnit u f).tileOps = s.tileOps := rfl
@[simp] theorem State.modUnit_groups (s : State) (u : Nat) (f : Unit → Unit) : (s.modUnit u f).groups = s.groups := rfl
@[simp] theorem State.modUnit_hostOut (s : State) (u : Nat) (f : Unit → Unit) : (s.modUnit u f).hostOut = s.hostOut := rfl
@[simp] theorem State.modUnit_kept (s : State) (u : Nat) (f : Unit → Unit) : (s.modUnit u f).kept = s.kept := rfl
@[simp] theorem State.modUnit_peerOut (s : State) (u : Nat) (f : Unit → Unit) : (s.modUnit u f).peerOut = s.peerOut := rfl
@[simp] theorem State.modUnit_linkUp (s : State) (u : Nat) (f : Unit → Unit) : (s.modUnit u f).linkUp = s.linkUp := rfl
@[simp] theorem State.modUnit_corrected (s : State) (u : Nat) (f : Unit → Unit) : (s.modUnit u f).corrected = s.corrected := rfl
@[simp] theorem State.modUnit_faulted (s : State) (u : Nat) (f : Unit → Unit) : (s.modUnit u f).faulted = s.faulted := rfl
@[simp] theorem State.modUnit_device (s : State) (u : Nat) (f : Unit → Unit) : (s.modUnit u f).device = s.device := rfl
@[simp] theorem State.modUnit_deviceSet (s : State) (u : Nat) (f : Unit → Unit) : (s.modUnit u f).deviceSet = s.deviceSet := rfl
@[simp] theorem State.modUnit_start (s : State) (u : Nat) (f : Unit → Unit) : (s.modUnit u f).start = s.start := rfl
@[simp] theorem State.modUnit_minVersion (s : State) (u : Nat) (f : Unit → Unit) : (s.modUnit u f).minVersion = s.minVersion := rfl
@[simp] theorem State.modUnit_fwDigest (s : State) (u : Nat) (f : Unit → Unit) : (s.modUnit u f).fwDigest = s.fwDigest := rfl
@[simp] theorem State.modUnit_fwVersion (s : State) (u : Nat) (f : Unit → Unit) : (s.modUnit u f).fwVersion = s.fwVersion := rfl
@[simp] theorem State.modUnit_moved (s : State) (u : Nat) (f : Unit → Unit) : (s.modUnit u f).moved = s.moved := rfl
@[simp] theorem State.modUnit_skipped (s : State) (u : Nat) (f : Unit → Unit) : (s.modUnit u f).skipped = s.skipped := rfl
@[simp] theorem State.modUnit_passedOver (s : State) (u : Nat) (f : Unit → Unit) : (s.modUnit u f).passedOver = s.passedOver := rfl
@[simp] theorem State.modUnit_abroad (s : State) (u : Nat) (f : Unit → Unit) : (s.modUnit u f).abroad = s.abroad := rfl
@[simp] theorem State.modUnit_homing (s : State) (u : Nat) (f : Unit → Unit) : (s.modUnit u f).homing = s.homing := rfl
@[simp] theorem State.modUnit_mapped (s : State) (u : Nat) (f : Unit → Unit) : (s.modUnit u f).mapped = s.mapped := rfl
@[simp] theorem State.modUnit_asked (s : State) (u : Nat) (f : Unit → Unit) : (s.modUnit u f).asked = s.asked := rfl
@[simp] theorem State.modUnit_starting (s : State) (u : Nat) (f : Unit → Unit) : (s.modUnit u f).starting = s.starting := rfl
@[simp] theorem State.modUnit_imageDigest (s : State) (u : Nat) (f : Unit → Unit) : (s.modUnit u f).imageDigest = s.imageDigest := rfl
@[simp] theorem State.modUnit_imageVersion (s : State) (u : Nat) (f : Unit → Unit) : (s.modUnit u f).imageVersion = s.imageVersion := rfl
@[simp] theorem State.modUnit_spaceDue (s : State) (u : Nat) (f : Unit → Unit) : (s.modUnit u f).spaceDue = s.spaceDue := rfl
@[simp] theorem State.modUnit_stamp (s : State) (u : Nat) (f : Unit → Unit) : (s.modUnit u f).stamp = s.stamp := rfl
@[simp] theorem State.modUnit_agenda (s : State) (u : Nat) (f : Unit → Unit) : (s.modUnit u f).agenda = s.agenda := rfl
@[simp] theorem State.modUnit_focus (s : State) (u : Nat) (f : Unit → Unit) : (s.modUnit u f).focus = s.focus := rfl
@[simp] theorem State.modUnit_wireTurn (s : State) (u : Nat) (f : Unit → Unit) : (s.modUnit u f).wireTurn = s.wireTurn := rfl
@[simp] theorem State.modUnit_turnUnit (s : State) (u : Nat) (f : Unit → Unit) : (s.modUnit u f).turnUnit = s.turnUnit := rfl
@[simp] theorem State.modUnit_turnSlot (s : State) (u : Nat) (f : Unit → Unit) : (s.modUnit u f).turnSlot = s.turnSlot := rfl
@[simp] theorem State.modUnit_fetched (s : State) (u : Nat) (f : Unit → Unit) : (s.modUnit u f).fetched = s.fetched := rfl

/-! ### modCluster -/

@[simp] theorem State.modCluster_lines (s : State) (c : Nat) (f : Cluster → Cluster) : (s.modCluster c f).lines = s.lines := rfl
@[simp] theorem State.modCluster_records (s : State) (c : Nat) (f : Cluster → Cluster) : (s.modCluster c f).records = s.records := rfl
@[simp] theorem State.modCluster_units (s : State) (c : Nat) (f : Cluster → Cluster) : (s.modCluster c f).units = s.units := rfl
@[simp] theorem State.modCluster_clusters (s : State) (c : Nat) (f : Cluster → Cluster) :
    (s.modCluster c f).clusters = Assoc.set s.clusters c (f (s.cluster c)) := rfl
@[simp] theorem State.modCluster_hstacks (s : State) (c : Nat) (f : Cluster → Cluster) : (s.modCluster c f).hstacks = s.hstacks := rfl
@[simp] theorem State.modCluster_corr (s : State) (c : Nat) (f : Cluster → Cluster) : (s.modCluster c f).corr = s.corr := rfl
@[simp] theorem State.modCluster_tenants (s : State) (c : Nat) (f : Cluster → Cluster) : (s.modCluster c f).tenants = s.tenants := rfl
@[simp] theorem State.modCluster_qwt (s : State) (c : Nat) (f : Cluster → Cluster) : (s.modCluster c f).qwt = s.qwt := rfl
@[simp] theorem State.modCluster_mem (s : State) (c : Nat) (f : Cluster → Cluster) : (s.modCluster c f).mem = s.mem := rfl
@[simp] theorem State.modCluster_feEmpty (s : State) (c : Nat) (f : Cluster → Cluster) : (s.modCluster c f).feEmpty = s.feEmpty := rfl
@[simp] theorem State.modCluster_blockTag (s : State) (c : Nat) (f : Cluster → Cluster) : (s.modCluster c f).blockTag = s.blockTag := rfl
@[simp] theorem State.modCluster_damage (s : State) (c : Nat) (f : Cluster → Cluster) : (s.modCluster c f).damage = s.damage := rfl
@[simp] theorem State.modCluster_quarantine (s : State) (c : Nat) (f : Cluster → Cluster) : (s.modCluster c f).quarantine = s.quarantine := rfl
@[simp] theorem State.modCluster_pageRecs (s : State) (c : Nat) (f : Cluster → Cluster) : (s.modCluster c f).pageRecs = s.pageRecs := rfl
@[simp] theorem State.modCluster_keys (s : State) (c : Nat) (f : Cluster → Cluster) : (s.modCluster c f).keys = s.keys := rfl
@[simp] theorem State.modCluster_keyStore (s : State) (c : Nat) (f : Cluster → Cluster) : (s.modCluster c f).keyStore = s.keyStore := rfl
@[simp] theorem State.modCluster_scratch (s : State) (c : Nat) (f : Cluster → Cluster) : (s.modCluster c f).scratch = s.scratch := rfl
@[simp] theorem State.modCluster_scratchUsed (s : State) (c : Nat) (f : Cluster → Cluster) : (s.modCluster c f).scratchUsed = s.scratchUsed := rfl
@[simp] theorem State.modCluster_ringLists (s : State) (c : Nat) (f : Cluster → Cluster) : (s.modCluster c f).ringLists = s.ringLists := rfl
@[simp] theorem State.modCluster_deferred (s : State) (c : Nat) (f : Cluster → Cluster) : (s.modCluster c f).deferred = s.deferred := rfl
@[simp] theorem State.modCluster_armed (s : State) (c : Nat) (f : Cluster → Cluster) : (s.modCluster c f).armed = s.armed := rfl
@[simp] theorem State.modCluster_pagesUnder (s : State) (c : Nat) (f : Cluster → Cluster) : (s.modCluster c f).pagesUnder = s.pagesUnder := rfl
@[simp] theorem State.modCluster_wire (s : State) (c : Nat) (f : Cluster → Cluster) : (s.modCluster c f).wire = s.wire := rfl
@[simp] theorem State.modCluster_nextId (s : State) (c : Nat) (f : Cluster → Cluster) : (s.modCluster c f).nextId = s.nextId := rfl
@[simp] theorem State.modCluster_cmds (s : State) (c : Nat) (f : Cluster → Cluster) : (s.modCluster c f).cmds = s.cmds := rfl
@[simp] theorem State.modCluster_tileOps (s : State) (c : Nat) (f : Cluster → Cluster) : (s.modCluster c f).tileOps = s.tileOps := rfl
@[simp] theorem State.modCluster_groups (s : State) (c : Nat) (f : Cluster → Cluster) : (s.modCluster c f).groups = s.groups := rfl
@[simp] theorem State.modCluster_hostOut (s : State) (c : Nat) (f : Cluster → Cluster) : (s.modCluster c f).hostOut = s.hostOut := rfl
@[simp] theorem State.modCluster_kept (s : State) (c : Nat) (f : Cluster → Cluster) : (s.modCluster c f).kept = s.kept := rfl
@[simp] theorem State.modCluster_peerOut (s : State) (c : Nat) (f : Cluster → Cluster) : (s.modCluster c f).peerOut = s.peerOut := rfl
@[simp] theorem State.modCluster_linkUp (s : State) (c : Nat) (f : Cluster → Cluster) : (s.modCluster c f).linkUp = s.linkUp := rfl
@[simp] theorem State.modCluster_corrected (s : State) (c : Nat) (f : Cluster → Cluster) : (s.modCluster c f).corrected = s.corrected := rfl
@[simp] theorem State.modCluster_faulted (s : State) (c : Nat) (f : Cluster → Cluster) : (s.modCluster c f).faulted = s.faulted := rfl
@[simp] theorem State.modCluster_device (s : State) (c : Nat) (f : Cluster → Cluster) : (s.modCluster c f).device = s.device := rfl
@[simp] theorem State.modCluster_deviceSet (s : State) (c : Nat) (f : Cluster → Cluster) : (s.modCluster c f).deviceSet = s.deviceSet := rfl
@[simp] theorem State.modCluster_start (s : State) (c : Nat) (f : Cluster → Cluster) : (s.modCluster c f).start = s.start := rfl
@[simp] theorem State.modCluster_minVersion (s : State) (c : Nat) (f : Cluster → Cluster) : (s.modCluster c f).minVersion = s.minVersion := rfl
@[simp] theorem State.modCluster_fwDigest (s : State) (c : Nat) (f : Cluster → Cluster) : (s.modCluster c f).fwDigest = s.fwDigest := rfl
@[simp] theorem State.modCluster_fwVersion (s : State) (c : Nat) (f : Cluster → Cluster) : (s.modCluster c f).fwVersion = s.fwVersion := rfl
@[simp] theorem State.modCluster_moved (s : State) (c : Nat) (f : Cluster → Cluster) : (s.modCluster c f).moved = s.moved := rfl
@[simp] theorem State.modCluster_skipped (s : State) (c : Nat) (f : Cluster → Cluster) : (s.modCluster c f).skipped = s.skipped := rfl
@[simp] theorem State.modCluster_passedOver (s : State) (c : Nat) (f : Cluster → Cluster) : (s.modCluster c f).passedOver = s.passedOver := rfl
@[simp] theorem State.modCluster_abroad (s : State) (c : Nat) (f : Cluster → Cluster) : (s.modCluster c f).abroad = s.abroad := rfl
@[simp] theorem State.modCluster_homing (s : State) (c : Nat) (f : Cluster → Cluster) : (s.modCluster c f).homing = s.homing := rfl
@[simp] theorem State.modCluster_mapped (s : State) (c : Nat) (f : Cluster → Cluster) : (s.modCluster c f).mapped = s.mapped := rfl
@[simp] theorem State.modCluster_asked (s : State) (c : Nat) (f : Cluster → Cluster) : (s.modCluster c f).asked = s.asked := rfl
@[simp] theorem State.modCluster_starting (s : State) (c : Nat) (f : Cluster → Cluster) : (s.modCluster c f).starting = s.starting := rfl
@[simp] theorem State.modCluster_imageDigest (s : State) (c : Nat) (f : Cluster → Cluster) : (s.modCluster c f).imageDigest = s.imageDigest := rfl
@[simp] theorem State.modCluster_imageVersion (s : State) (c : Nat) (f : Cluster → Cluster) : (s.modCluster c f).imageVersion = s.imageVersion := rfl
@[simp] theorem State.modCluster_spaceDue (s : State) (c : Nat) (f : Cluster → Cluster) : (s.modCluster c f).spaceDue = s.spaceDue := rfl
@[simp] theorem State.modCluster_stamp (s : State) (c : Nat) (f : Cluster → Cluster) : (s.modCluster c f).stamp = s.stamp := rfl
@[simp] theorem State.modCluster_agenda (s : State) (c : Nat) (f : Cluster → Cluster) : (s.modCluster c f).agenda = s.agenda := rfl
@[simp] theorem State.modCluster_focus (s : State) (c : Nat) (f : Cluster → Cluster) : (s.modCluster c f).focus = s.focus := rfl
@[simp] theorem State.modCluster_wireTurn (s : State) (c : Nat) (f : Cluster → Cluster) : (s.modCluster c f).wireTurn = s.wireTurn := rfl
@[simp] theorem State.modCluster_turnUnit (s : State) (c : Nat) (f : Cluster → Cluster) : (s.modCluster c f).turnUnit = s.turnUnit := rfl
@[simp] theorem State.modCluster_turnSlot (s : State) (c : Nat) (f : Cluster → Cluster) : (s.modCluster c f).turnSlot = s.turnSlot := rfl
@[simp] theorem State.modCluster_fetched (s : State) (c : Nat) (f : Cluster → Cluster) : (s.modCluster c f).fetched = s.fetched := rfl

/-! ### modStack -/

@[simp] theorem State.modStack_lines (s : State) (k : Nat) (f : Stack → Stack) : (s.modStack k f).lines = s.lines := rfl
@[simp] theorem State.modStack_records (s : State) (k : Nat) (f : Stack → Stack) : (s.modStack k f).records = s.records := rfl
@[simp] theorem State.modStack_units (s : State) (k : Nat) (f : Stack → Stack) : (s.modStack k f).units = s.units := rfl
@[simp] theorem State.modStack_clusters (s : State) (k : Nat) (f : Stack → Stack) : (s.modStack k f).clusters = s.clusters := rfl
@[simp] theorem State.modStack_hstacks (s : State) (k : Nat) (f : Stack → Stack) :
    (s.modStack k f).hstacks = Assoc.set s.hstacks k (f (s.stack k)) := rfl
@[simp] theorem State.modStack_corr (s : State) (k : Nat) (f : Stack → Stack) : (s.modStack k f).corr = s.corr := rfl
@[simp] theorem State.modStack_tenants (s : State) (k : Nat) (f : Stack → Stack) : (s.modStack k f).tenants = s.tenants := rfl
@[simp] theorem State.modStack_qwt (s : State) (k : Nat) (f : Stack → Stack) : (s.modStack k f).qwt = s.qwt := rfl
@[simp] theorem State.modStack_mem (s : State) (k : Nat) (f : Stack → Stack) : (s.modStack k f).mem = s.mem := rfl
@[simp] theorem State.modStack_feEmpty (s : State) (k : Nat) (f : Stack → Stack) : (s.modStack k f).feEmpty = s.feEmpty := rfl
@[simp] theorem State.modStack_blockTag (s : State) (k : Nat) (f : Stack → Stack) : (s.modStack k f).blockTag = s.blockTag := rfl
@[simp] theorem State.modStack_damage (s : State) (k : Nat) (f : Stack → Stack) : (s.modStack k f).damage = s.damage := rfl
@[simp] theorem State.modStack_quarantine (s : State) (k : Nat) (f : Stack → Stack) : (s.modStack k f).quarantine = s.quarantine := rfl
@[simp] theorem State.modStack_pageRecs (s : State) (k : Nat) (f : Stack → Stack) : (s.modStack k f).pageRecs = s.pageRecs := rfl
@[simp] theorem State.modStack_keys (s : State) (k : Nat) (f : Stack → Stack) : (s.modStack k f).keys = s.keys := rfl
@[simp] theorem State.modStack_keyStore (s : State) (k : Nat) (f : Stack → Stack) : (s.modStack k f).keyStore = s.keyStore := rfl
@[simp] theorem State.modStack_scratch (s : State) (k : Nat) (f : Stack → Stack) : (s.modStack k f).scratch = s.scratch := rfl
@[simp] theorem State.modStack_scratchUsed (s : State) (k : Nat) (f : Stack → Stack) : (s.modStack k f).scratchUsed = s.scratchUsed := rfl
@[simp] theorem State.modStack_ringLists (s : State) (k : Nat) (f : Stack → Stack) : (s.modStack k f).ringLists = s.ringLists := rfl
@[simp] theorem State.modStack_deferred (s : State) (k : Nat) (f : Stack → Stack) : (s.modStack k f).deferred = s.deferred := rfl
@[simp] theorem State.modStack_armed (s : State) (k : Nat) (f : Stack → Stack) : (s.modStack k f).armed = s.armed := rfl
@[simp] theorem State.modStack_pagesUnder (s : State) (k : Nat) (f : Stack → Stack) : (s.modStack k f).pagesUnder = s.pagesUnder := rfl
@[simp] theorem State.modStack_wire (s : State) (k : Nat) (f : Stack → Stack) : (s.modStack k f).wire = s.wire := rfl
@[simp] theorem State.modStack_nextId (s : State) (k : Nat) (f : Stack → Stack) : (s.modStack k f).nextId = s.nextId := rfl
@[simp] theorem State.modStack_cmds (s : State) (k : Nat) (f : Stack → Stack) : (s.modStack k f).cmds = s.cmds := rfl
@[simp] theorem State.modStack_tileOps (s : State) (k : Nat) (f : Stack → Stack) : (s.modStack k f).tileOps = s.tileOps := rfl
@[simp] theorem State.modStack_groups (s : State) (k : Nat) (f : Stack → Stack) : (s.modStack k f).groups = s.groups := rfl
@[simp] theorem State.modStack_hostOut (s : State) (k : Nat) (f : Stack → Stack) : (s.modStack k f).hostOut = s.hostOut := rfl
@[simp] theorem State.modStack_kept (s : State) (k : Nat) (f : Stack → Stack) : (s.modStack k f).kept = s.kept := rfl
@[simp] theorem State.modStack_peerOut (s : State) (k : Nat) (f : Stack → Stack) : (s.modStack k f).peerOut = s.peerOut := rfl
@[simp] theorem State.modStack_linkUp (s : State) (k : Nat) (f : Stack → Stack) : (s.modStack k f).linkUp = s.linkUp := rfl
@[simp] theorem State.modStack_corrected (s : State) (k : Nat) (f : Stack → Stack) : (s.modStack k f).corrected = s.corrected := rfl
@[simp] theorem State.modStack_faulted (s : State) (k : Nat) (f : Stack → Stack) : (s.modStack k f).faulted = s.faulted := rfl
@[simp] theorem State.modStack_device (s : State) (k : Nat) (f : Stack → Stack) : (s.modStack k f).device = s.device := rfl
@[simp] theorem State.modStack_deviceSet (s : State) (k : Nat) (f : Stack → Stack) : (s.modStack k f).deviceSet = s.deviceSet := rfl
@[simp] theorem State.modStack_start (s : State) (k : Nat) (f : Stack → Stack) : (s.modStack k f).start = s.start := rfl
@[simp] theorem State.modStack_minVersion (s : State) (k : Nat) (f : Stack → Stack) : (s.modStack k f).minVersion = s.minVersion := rfl
@[simp] theorem State.modStack_fwDigest (s : State) (k : Nat) (f : Stack → Stack) : (s.modStack k f).fwDigest = s.fwDigest := rfl
@[simp] theorem State.modStack_fwVersion (s : State) (k : Nat) (f : Stack → Stack) : (s.modStack k f).fwVersion = s.fwVersion := rfl
@[simp] theorem State.modStack_moved (s : State) (k : Nat) (f : Stack → Stack) : (s.modStack k f).moved = s.moved := rfl
@[simp] theorem State.modStack_skipped (s : State) (k : Nat) (f : Stack → Stack) : (s.modStack k f).skipped = s.skipped := rfl
@[simp] theorem State.modStack_passedOver (s : State) (k : Nat) (f : Stack → Stack) : (s.modStack k f).passedOver = s.passedOver := rfl
@[simp] theorem State.modStack_abroad (s : State) (k : Nat) (f : Stack → Stack) : (s.modStack k f).abroad = s.abroad := rfl
@[simp] theorem State.modStack_homing (s : State) (k : Nat) (f : Stack → Stack) : (s.modStack k f).homing = s.homing := rfl
@[simp] theorem State.modStack_mapped (s : State) (k : Nat) (f : Stack → Stack) : (s.modStack k f).mapped = s.mapped := rfl
@[simp] theorem State.modStack_asked (s : State) (k : Nat) (f : Stack → Stack) : (s.modStack k f).asked = s.asked := rfl
@[simp] theorem State.modStack_starting (s : State) (k : Nat) (f : Stack → Stack) : (s.modStack k f).starting = s.starting := rfl
@[simp] theorem State.modStack_imageDigest (s : State) (k : Nat) (f : Stack → Stack) : (s.modStack k f).imageDigest = s.imageDigest := rfl
@[simp] theorem State.modStack_imageVersion (s : State) (k : Nat) (f : Stack → Stack) : (s.modStack k f).imageVersion = s.imageVersion := rfl
@[simp] theorem State.modStack_spaceDue (s : State) (k : Nat) (f : Stack → Stack) : (s.modStack k f).spaceDue = s.spaceDue := rfl
@[simp] theorem State.modStack_stamp (s : State) (k : Nat) (f : Stack → Stack) : (s.modStack k f).stamp = s.stamp := rfl
@[simp] theorem State.modStack_agenda (s : State) (k : Nat) (f : Stack → Stack) : (s.modStack k f).agenda = s.agenda := rfl
@[simp] theorem State.modStack_focus (s : State) (k : Nat) (f : Stack → Stack) : (s.modStack k f).focus = s.focus := rfl
@[simp] theorem State.modStack_wireTurn (s : State) (k : Nat) (f : Stack → Stack) : (s.modStack k f).wireTurn = s.wireTurn := rfl
@[simp] theorem State.modStack_turnUnit (s : State) (k : Nat) (f : Stack → Stack) : (s.modStack k f).turnUnit = s.turnUnit := rfl
@[simp] theorem State.modStack_turnSlot (s : State) (k : Nat) (f : Stack → Stack) : (s.modStack k f).turnSlot = s.turnSlot := rfl
@[simp] theorem State.modStack_fetched (s : State) (k : Nat) (f : Stack → Stack) : (s.modStack k f).fetched = s.fetched := rfl

/-! ### modTenant -/

@[simp] theorem State.modTenant_lines (s : State) (t : Nat) (f : Tenant → Tenant) : (s.modTenant t f).lines = s.lines := rfl
@[simp] theorem State.modTenant_records (s : State) (t : Nat) (f : Tenant → Tenant) : (s.modTenant t f).records = s.records := rfl
@[simp] theorem State.modTenant_units (s : State) (t : Nat) (f : Tenant → Tenant) : (s.modTenant t f).units = s.units := rfl
@[simp] theorem State.modTenant_clusters (s : State) (t : Nat) (f : Tenant → Tenant) : (s.modTenant t f).clusters = s.clusters := rfl
@[simp] theorem State.modTenant_hstacks (s : State) (t : Nat) (f : Tenant → Tenant) : (s.modTenant t f).hstacks = s.hstacks := rfl
@[simp] theorem State.modTenant_corr (s : State) (t : Nat) (f : Tenant → Tenant) : (s.modTenant t f).corr = s.corr := rfl
@[simp] theorem State.modTenant_tenants (s : State) (t : Nat) (f : Tenant → Tenant) :
    (s.modTenant t f).tenants = Assoc.set s.tenants t (f (s.tenant t)) := rfl
@[simp] theorem State.modTenant_qwt (s : State) (t : Nat) (f : Tenant → Tenant) : (s.modTenant t f).qwt = s.qwt := rfl
@[simp] theorem State.modTenant_mem (s : State) (t : Nat) (f : Tenant → Tenant) : (s.modTenant t f).mem = s.mem := rfl
@[simp] theorem State.modTenant_feEmpty (s : State) (t : Nat) (f : Tenant → Tenant) : (s.modTenant t f).feEmpty = s.feEmpty := rfl
@[simp] theorem State.modTenant_blockTag (s : State) (t : Nat) (f : Tenant → Tenant) : (s.modTenant t f).blockTag = s.blockTag := rfl
@[simp] theorem State.modTenant_damage (s : State) (t : Nat) (f : Tenant → Tenant) : (s.modTenant t f).damage = s.damage := rfl
@[simp] theorem State.modTenant_quarantine (s : State) (t : Nat) (f : Tenant → Tenant) : (s.modTenant t f).quarantine = s.quarantine := rfl
@[simp] theorem State.modTenant_pageRecs (s : State) (t : Nat) (f : Tenant → Tenant) : (s.modTenant t f).pageRecs = s.pageRecs := rfl
@[simp] theorem State.modTenant_keys (s : State) (t : Nat) (f : Tenant → Tenant) : (s.modTenant t f).keys = s.keys := rfl
@[simp] theorem State.modTenant_keyStore (s : State) (t : Nat) (f : Tenant → Tenant) : (s.modTenant t f).keyStore = s.keyStore := rfl
@[simp] theorem State.modTenant_scratch (s : State) (t : Nat) (f : Tenant → Tenant) : (s.modTenant t f).scratch = s.scratch := rfl
@[simp] theorem State.modTenant_scratchUsed (s : State) (t : Nat) (f : Tenant → Tenant) : (s.modTenant t f).scratchUsed = s.scratchUsed := rfl
@[simp] theorem State.modTenant_ringLists (s : State) (t : Nat) (f : Tenant → Tenant) : (s.modTenant t f).ringLists = s.ringLists := rfl
@[simp] theorem State.modTenant_deferred (s : State) (t : Nat) (f : Tenant → Tenant) : (s.modTenant t f).deferred = s.deferred := rfl
@[simp] theorem State.modTenant_armed (s : State) (t : Nat) (f : Tenant → Tenant) : (s.modTenant t f).armed = s.armed := rfl
@[simp] theorem State.modTenant_pagesUnder (s : State) (t : Nat) (f : Tenant → Tenant) : (s.modTenant t f).pagesUnder = s.pagesUnder := rfl
@[simp] theorem State.modTenant_wire (s : State) (t : Nat) (f : Tenant → Tenant) : (s.modTenant t f).wire = s.wire := rfl
@[simp] theorem State.modTenant_nextId (s : State) (t : Nat) (f : Tenant → Tenant) : (s.modTenant t f).nextId = s.nextId := rfl
@[simp] theorem State.modTenant_cmds (s : State) (t : Nat) (f : Tenant → Tenant) : (s.modTenant t f).cmds = s.cmds := rfl
@[simp] theorem State.modTenant_tileOps (s : State) (t : Nat) (f : Tenant → Tenant) : (s.modTenant t f).tileOps = s.tileOps := rfl
@[simp] theorem State.modTenant_groups (s : State) (t : Nat) (f : Tenant → Tenant) : (s.modTenant t f).groups = s.groups := rfl
@[simp] theorem State.modTenant_hostOut (s : State) (t : Nat) (f : Tenant → Tenant) : (s.modTenant t f).hostOut = s.hostOut := rfl
@[simp] theorem State.modTenant_kept (s : State) (t : Nat) (f : Tenant → Tenant) : (s.modTenant t f).kept = s.kept := rfl
@[simp] theorem State.modTenant_peerOut (s : State) (t : Nat) (f : Tenant → Tenant) : (s.modTenant t f).peerOut = s.peerOut := rfl
@[simp] theorem State.modTenant_linkUp (s : State) (t : Nat) (f : Tenant → Tenant) : (s.modTenant t f).linkUp = s.linkUp := rfl
@[simp] theorem State.modTenant_corrected (s : State) (t : Nat) (f : Tenant → Tenant) : (s.modTenant t f).corrected = s.corrected := rfl
@[simp] theorem State.modTenant_faulted (s : State) (t : Nat) (f : Tenant → Tenant) : (s.modTenant t f).faulted = s.faulted := rfl
@[simp] theorem State.modTenant_device (s : State) (t : Nat) (f : Tenant → Tenant) : (s.modTenant t f).device = s.device := rfl
@[simp] theorem State.modTenant_deviceSet (s : State) (t : Nat) (f : Tenant → Tenant) : (s.modTenant t f).deviceSet = s.deviceSet := rfl
@[simp] theorem State.modTenant_start (s : State) (t : Nat) (f : Tenant → Tenant) : (s.modTenant t f).start = s.start := rfl
@[simp] theorem State.modTenant_minVersion (s : State) (t : Nat) (f : Tenant → Tenant) : (s.modTenant t f).minVersion = s.minVersion := rfl
@[simp] theorem State.modTenant_fwDigest (s : State) (t : Nat) (f : Tenant → Tenant) : (s.modTenant t f).fwDigest = s.fwDigest := rfl
@[simp] theorem State.modTenant_fwVersion (s : State) (t : Nat) (f : Tenant → Tenant) : (s.modTenant t f).fwVersion = s.fwVersion := rfl
@[simp] theorem State.modTenant_moved (s : State) (t : Nat) (f : Tenant → Tenant) : (s.modTenant t f).moved = s.moved := rfl
@[simp] theorem State.modTenant_skipped (s : State) (t : Nat) (f : Tenant → Tenant) : (s.modTenant t f).skipped = s.skipped := rfl
@[simp] theorem State.modTenant_passedOver (s : State) (t : Nat) (f : Tenant → Tenant) : (s.modTenant t f).passedOver = s.passedOver := rfl
@[simp] theorem State.modTenant_abroad (s : State) (t : Nat) (f : Tenant → Tenant) : (s.modTenant t f).abroad = s.abroad := rfl
@[simp] theorem State.modTenant_homing (s : State) (t : Nat) (f : Tenant → Tenant) : (s.modTenant t f).homing = s.homing := rfl
@[simp] theorem State.modTenant_mapped (s : State) (t : Nat) (f : Tenant → Tenant) : (s.modTenant t f).mapped = s.mapped := rfl
@[simp] theorem State.modTenant_asked (s : State) (t : Nat) (f : Tenant → Tenant) : (s.modTenant t f).asked = s.asked := rfl
@[simp] theorem State.modTenant_starting (s : State) (t : Nat) (f : Tenant → Tenant) : (s.modTenant t f).starting = s.starting := rfl
@[simp] theorem State.modTenant_imageDigest (s : State) (t : Nat) (f : Tenant → Tenant) : (s.modTenant t f).imageDigest = s.imageDigest := rfl
@[simp] theorem State.modTenant_imageVersion (s : State) (t : Nat) (f : Tenant → Tenant) : (s.modTenant t f).imageVersion = s.imageVersion := rfl
@[simp] theorem State.modTenant_spaceDue (s : State) (t : Nat) (f : Tenant → Tenant) : (s.modTenant t f).spaceDue = s.spaceDue := rfl
@[simp] theorem State.modTenant_stamp (s : State) (t : Nat) (f : Tenant → Tenant) : (s.modTenant t f).stamp = s.stamp := rfl
@[simp] theorem State.modTenant_agenda (s : State) (t : Nat) (f : Tenant → Tenant) : (s.modTenant t f).agenda = s.agenda := rfl
@[simp] theorem State.modTenant_focus (s : State) (t : Nat) (f : Tenant → Tenant) : (s.modTenant t f).focus = s.focus := rfl
@[simp] theorem State.modTenant_wireTurn (s : State) (t : Nat) (f : Tenant → Tenant) : (s.modTenant t f).wireTurn = s.wireTurn := rfl
@[simp] theorem State.modTenant_turnUnit (s : State) (t : Nat) (f : Tenant → Tenant) : (s.modTenant t f).turnUnit = s.turnUnit := rfl
@[simp] theorem State.modTenant_turnSlot (s : State) (t : Nat) (f : Tenant → Tenant) : (s.modTenant t f).turnSlot = s.turnSlot := rfl
@[simp] theorem State.modTenant_fetched (s : State) (t : Nat) (f : Tenant → Tenant) : (s.modTenant t f).fetched = s.fetched := rfl

/-! ### post -/

@[simp] theorem State.post_lines (s : State) (m : Msg) : (s.post m).lines = s.lines := rfl
@[simp] theorem State.post_records (s : State) (m : Msg) : (s.post m).records = s.records := rfl
@[simp] theorem State.post_units (s : State) (m : Msg) : (s.post m).units = s.units := rfl
@[simp] theorem State.post_clusters (s : State) (m : Msg) : (s.post m).clusters = s.clusters := rfl
@[simp] theorem State.post_hstacks (s : State) (m : Msg) : (s.post m).hstacks = s.hstacks := rfl
@[simp] theorem State.post_corr (s : State) (m : Msg) : (s.post m).corr = s.corr := rfl
@[simp] theorem State.post_tenants (s : State) (m : Msg) : (s.post m).tenants = s.tenants := rfl
@[simp] theorem State.post_qwt (s : State) (m : Msg) : (s.post m).qwt = s.qwt := rfl
@[simp] theorem State.post_mem (s : State) (m : Msg) : (s.post m).mem = s.mem := rfl
@[simp] theorem State.post_feEmpty (s : State) (m : Msg) : (s.post m).feEmpty = s.feEmpty := rfl
@[simp] theorem State.post_blockTag (s : State) (m : Msg) : (s.post m).blockTag = s.blockTag := rfl
@[simp] theorem State.post_damage (s : State) (m : Msg) : (s.post m).damage = s.damage := rfl
@[simp] theorem State.post_quarantine (s : State) (m : Msg) : (s.post m).quarantine = s.quarantine := rfl
@[simp] theorem State.post_pageRecs (s : State) (m : Msg) : (s.post m).pageRecs = s.pageRecs := rfl
@[simp] theorem State.post_keys (s : State) (m : Msg) : (s.post m).keys = s.keys := rfl
@[simp] theorem State.post_keyStore (s : State) (m : Msg) : (s.post m).keyStore = s.keyStore := rfl
@[simp] theorem State.post_scratch (s : State) (m : Msg) : (s.post m).scratch = s.scratch := rfl
@[simp] theorem State.post_scratchUsed (s : State) (m : Msg) : (s.post m).scratchUsed = s.scratchUsed := rfl
@[simp] theorem State.post_ringLists (s : State) (m : Msg) : (s.post m).ringLists = s.ringLists := rfl
@[simp] theorem State.post_deferred (s : State) (m : Msg) : (s.post m).deferred = s.deferred := rfl
@[simp] theorem State.post_armed (s : State) (m : Msg) : (s.post m).armed = s.armed := rfl
@[simp] theorem State.post_pagesUnder (s : State) (m : Msg) : (s.post m).pagesUnder = s.pagesUnder := rfl
@[simp] theorem State.post_wire (s : State) (m : Msg) :
    (s.post m).wire = s.wire ++ [(s.nextId, m)] := rfl
@[simp] theorem State.post_nextId (s : State) (m : Msg) :
    (s.post m).nextId = s.nextId + 1 := rfl
@[simp] theorem State.post_cmds (s : State) (m : Msg) : (s.post m).cmds = s.cmds := rfl
@[simp] theorem State.post_tileOps (s : State) (m : Msg) : (s.post m).tileOps = s.tileOps := rfl
@[simp] theorem State.post_groups (s : State) (m : Msg) : (s.post m).groups = s.groups := rfl
@[simp] theorem State.post_hostOut (s : State) (m : Msg) : (s.post m).hostOut = s.hostOut := rfl
@[simp] theorem State.post_kept (s : State) (m : Msg) : (s.post m).kept = s.kept := rfl
@[simp] theorem State.post_peerOut (s : State) (m : Msg) : (s.post m).peerOut = s.peerOut := rfl
@[simp] theorem State.post_linkUp (s : State) (m : Msg) : (s.post m).linkUp = s.linkUp := rfl
@[simp] theorem State.post_corrected (s : State) (m : Msg) : (s.post m).corrected = s.corrected := rfl
@[simp] theorem State.post_faulted (s : State) (m : Msg) : (s.post m).faulted = s.faulted := rfl
@[simp] theorem State.post_device (s : State) (m : Msg) : (s.post m).device = s.device := rfl
@[simp] theorem State.post_deviceSet (s : State) (m : Msg) : (s.post m).deviceSet = s.deviceSet := rfl
@[simp] theorem State.post_start (s : State) (m : Msg) : (s.post m).start = s.start := rfl
@[simp] theorem State.post_minVersion (s : State) (m : Msg) : (s.post m).minVersion = s.minVersion := rfl
@[simp] theorem State.post_fwDigest (s : State) (m : Msg) : (s.post m).fwDigest = s.fwDigest := rfl
@[simp] theorem State.post_fwVersion (s : State) (m : Msg) : (s.post m).fwVersion = s.fwVersion := rfl
@[simp] theorem State.post_moved (s : State) (m : Msg) : (s.post m).moved = s.moved := rfl
@[simp] theorem State.post_skipped (s : State) (m : Msg) : (s.post m).skipped = s.skipped := rfl
@[simp] theorem State.post_passedOver (s : State) (m : Msg) : (s.post m).passedOver = s.passedOver := rfl
@[simp] theorem State.post_abroad (s : State) (m : Msg) : (s.post m).abroad = s.abroad := rfl
@[simp] theorem State.post_homing (s : State) (m : Msg) : (s.post m).homing = s.homing := rfl
@[simp] theorem State.post_mapped (s : State) (m : Msg) : (s.post m).mapped = s.mapped := rfl
@[simp] theorem State.post_asked (s : State) (m : Msg) : (s.post m).asked = s.asked := rfl
@[simp] theorem State.post_starting (s : State) (m : Msg) : (s.post m).starting = s.starting := rfl
@[simp] theorem State.post_imageDigest (s : State) (m : Msg) : (s.post m).imageDigest = s.imageDigest := rfl
@[simp] theorem State.post_imageVersion (s : State) (m : Msg) : (s.post m).imageVersion = s.imageVersion := rfl
@[simp] theorem State.post_spaceDue (s : State) (m : Msg) : (s.post m).spaceDue = s.spaceDue := rfl
@[simp] theorem State.post_stamp (s : State) (m : Msg) : (s.post m).stamp = s.stamp := rfl
@[simp] theorem State.post_agenda (s : State) (m : Msg) : (s.post m).agenda = s.agenda := rfl
@[simp] theorem State.post_focus (s : State) (m : Msg) : (s.post m).focus = s.focus := rfl
@[simp] theorem State.post_wireTurn (s : State) (m : Msg) : (s.post m).wireTurn = s.wireTurn := rfl
@[simp] theorem State.post_turnUnit (s : State) (m : Msg) : (s.post m).turnUnit = s.turnUnit := rfl
@[simp] theorem State.post_turnSlot (s : State) (m : Msg) : (s.post m).turnSlot = s.turnSlot := rfl
@[simp] theorem State.post_fetched (s : State) (m : Msg) : (s.post m).fetched = s.fetched := rfl

/-! ### dropMsg -/

@[simp] theorem State.dropMsg_lines (s : State) (id : Nat) : (s.dropMsg id).lines = s.lines := rfl
@[simp] theorem State.dropMsg_records (s : State) (id : Nat) : (s.dropMsg id).records = s.records := rfl
@[simp] theorem State.dropMsg_units (s : State) (id : Nat) : (s.dropMsg id).units = s.units := rfl
@[simp] theorem State.dropMsg_clusters (s : State) (id : Nat) : (s.dropMsg id).clusters = s.clusters := rfl
@[simp] theorem State.dropMsg_hstacks (s : State) (id : Nat) : (s.dropMsg id).hstacks = s.hstacks := rfl
@[simp] theorem State.dropMsg_corr (s : State) (id : Nat) : (s.dropMsg id).corr = s.corr := rfl
@[simp] theorem State.dropMsg_tenants (s : State) (id : Nat) : (s.dropMsg id).tenants = s.tenants := rfl
@[simp] theorem State.dropMsg_qwt (s : State) (id : Nat) : (s.dropMsg id).qwt = s.qwt := rfl
@[simp] theorem State.dropMsg_mem (s : State) (id : Nat) : (s.dropMsg id).mem = s.mem := rfl
@[simp] theorem State.dropMsg_feEmpty (s : State) (id : Nat) : (s.dropMsg id).feEmpty = s.feEmpty := rfl
@[simp] theorem State.dropMsg_blockTag (s : State) (id : Nat) : (s.dropMsg id).blockTag = s.blockTag := rfl
@[simp] theorem State.dropMsg_damage (s : State) (id : Nat) : (s.dropMsg id).damage = s.damage := rfl
@[simp] theorem State.dropMsg_quarantine (s : State) (id : Nat) : (s.dropMsg id).quarantine = s.quarantine := rfl
@[simp] theorem State.dropMsg_pageRecs (s : State) (id : Nat) : (s.dropMsg id).pageRecs = s.pageRecs := rfl
@[simp] theorem State.dropMsg_keys (s : State) (id : Nat) : (s.dropMsg id).keys = s.keys := rfl
@[simp] theorem State.dropMsg_keyStore (s : State) (id : Nat) : (s.dropMsg id).keyStore = s.keyStore := rfl
@[simp] theorem State.dropMsg_scratch (s : State) (id : Nat) : (s.dropMsg id).scratch = s.scratch := rfl
@[simp] theorem State.dropMsg_scratchUsed (s : State) (id : Nat) : (s.dropMsg id).scratchUsed = s.scratchUsed := rfl
@[simp] theorem State.dropMsg_ringLists (s : State) (id : Nat) : (s.dropMsg id).ringLists = s.ringLists := rfl
@[simp] theorem State.dropMsg_deferred (s : State) (id : Nat) : (s.dropMsg id).deferred = s.deferred := rfl
@[simp] theorem State.dropMsg_armed (s : State) (id : Nat) : (s.dropMsg id).armed = s.armed := rfl
@[simp] theorem State.dropMsg_pagesUnder (s : State) (id : Nat) : (s.dropMsg id).pagesUnder = s.pagesUnder := rfl
@[simp] theorem State.dropMsg_wire (s : State) (id : Nat) :
    (s.dropMsg id).wire = Assoc.erase s.wire id := rfl
@[simp] theorem State.dropMsg_nextId (s : State) (id : Nat) : (s.dropMsg id).nextId = s.nextId := rfl
@[simp] theorem State.dropMsg_cmds (s : State) (id : Nat) : (s.dropMsg id).cmds = s.cmds := rfl
@[simp] theorem State.dropMsg_tileOps (s : State) (id : Nat) : (s.dropMsg id).tileOps = s.tileOps := rfl
@[simp] theorem State.dropMsg_groups (s : State) (id : Nat) : (s.dropMsg id).groups = s.groups := rfl
@[simp] theorem State.dropMsg_hostOut (s : State) (id : Nat) : (s.dropMsg id).hostOut = s.hostOut := rfl
@[simp] theorem State.dropMsg_kept (s : State) (id : Nat) : (s.dropMsg id).kept = s.kept := rfl
@[simp] theorem State.dropMsg_peerOut (s : State) (id : Nat) : (s.dropMsg id).peerOut = s.peerOut := rfl
@[simp] theorem State.dropMsg_linkUp (s : State) (id : Nat) : (s.dropMsg id).linkUp = s.linkUp := rfl
@[simp] theorem State.dropMsg_corrected (s : State) (id : Nat) : (s.dropMsg id).corrected = s.corrected := rfl
@[simp] theorem State.dropMsg_faulted (s : State) (id : Nat) : (s.dropMsg id).faulted = s.faulted := rfl
@[simp] theorem State.dropMsg_device (s : State) (id : Nat) : (s.dropMsg id).device = s.device := rfl
@[simp] theorem State.dropMsg_deviceSet (s : State) (id : Nat) : (s.dropMsg id).deviceSet = s.deviceSet := rfl
@[simp] theorem State.dropMsg_start (s : State) (id : Nat) : (s.dropMsg id).start = s.start := rfl
@[simp] theorem State.dropMsg_minVersion (s : State) (id : Nat) : (s.dropMsg id).minVersion = s.minVersion := rfl
@[simp] theorem State.dropMsg_fwDigest (s : State) (id : Nat) : (s.dropMsg id).fwDigest = s.fwDigest := rfl
@[simp] theorem State.dropMsg_fwVersion (s : State) (id : Nat) : (s.dropMsg id).fwVersion = s.fwVersion := rfl
@[simp] theorem State.dropMsg_moved (s : State) (id : Nat) : (s.dropMsg id).moved = s.moved := rfl
@[simp] theorem State.dropMsg_skipped (s : State) (id : Nat) : (s.dropMsg id).skipped = s.skipped := rfl
@[simp] theorem State.dropMsg_passedOver (s : State) (id : Nat) : (s.dropMsg id).passedOver = s.passedOver := rfl
@[simp] theorem State.dropMsg_abroad (s : State) (id : Nat) : (s.dropMsg id).abroad = s.abroad := rfl
@[simp] theorem State.dropMsg_homing (s : State) (id : Nat) : (s.dropMsg id).homing = s.homing := rfl
@[simp] theorem State.dropMsg_mapped (s : State) (id : Nat) : (s.dropMsg id).mapped = s.mapped := rfl
@[simp] theorem State.dropMsg_asked (s : State) (id : Nat) : (s.dropMsg id).asked = s.asked := rfl
@[simp] theorem State.dropMsg_starting (s : State) (id : Nat) : (s.dropMsg id).starting = s.starting := rfl
@[simp] theorem State.dropMsg_imageDigest (s : State) (id : Nat) : (s.dropMsg id).imageDigest = s.imageDigest := rfl
@[simp] theorem State.dropMsg_imageVersion (s : State) (id : Nat) : (s.dropMsg id).imageVersion = s.imageVersion := rfl
@[simp] theorem State.dropMsg_spaceDue (s : State) (id : Nat) : (s.dropMsg id).spaceDue = s.spaceDue := rfl
@[simp] theorem State.dropMsg_stamp (s : State) (id : Nat) : (s.dropMsg id).stamp = s.stamp := rfl
@[simp] theorem State.dropMsg_agenda (s : State) (id : Nat) : (s.dropMsg id).agenda = s.agenda := rfl
@[simp] theorem State.dropMsg_focus (s : State) (id : Nat) : (s.dropMsg id).focus = s.focus := rfl
@[simp] theorem State.dropMsg_wireTurn (s : State) (id : Nat) : (s.dropMsg id).wireTurn = s.wireTurn := rfl
@[simp] theorem State.dropMsg_turnUnit (s : State) (id : Nat) : (s.dropMsg id).turnUnit = s.turnUnit := rfl
@[simp] theorem State.dropMsg_turnSlot (s : State) (id : Nat) : (s.dropMsg id).turnSlot = s.turnSlot := rfl
@[simp] theorem State.dropMsg_fetched (s : State) (id : Nat) : (s.dropMsg id).fetched = s.fetched := rfl
/-! ### changeMsg -/

@[simp] theorem State.changeMsg_lines (s : State) (id : Nat) (m : Msg) : (s.changeMsg id m).lines = s.lines := rfl
@[simp] theorem State.changeMsg_records (s : State) (id : Nat) (m : Msg) : (s.changeMsg id m).records = s.records := rfl
@[simp] theorem State.changeMsg_units (s : State) (id : Nat) (m : Msg) : (s.changeMsg id m).units = s.units := rfl
@[simp] theorem State.changeMsg_clusters (s : State) (id : Nat) (m : Msg) : (s.changeMsg id m).clusters = s.clusters := rfl
@[simp] theorem State.changeMsg_hstacks (s : State) (id : Nat) (m : Msg) : (s.changeMsg id m).hstacks = s.hstacks := rfl
@[simp] theorem State.changeMsg_corr (s : State) (id : Nat) (m : Msg) : (s.changeMsg id m).corr = s.corr := rfl
@[simp] theorem State.changeMsg_tenants (s : State) (id : Nat) (m : Msg) : (s.changeMsg id m).tenants = s.tenants := rfl
@[simp] theorem State.changeMsg_qwt (s : State) (id : Nat) (m : Msg) : (s.changeMsg id m).qwt = s.qwt := rfl
@[simp] theorem State.changeMsg_mem (s : State) (id : Nat) (m : Msg) : (s.changeMsg id m).mem = s.mem := rfl
@[simp] theorem State.changeMsg_feEmpty (s : State) (id : Nat) (m : Msg) : (s.changeMsg id m).feEmpty = s.feEmpty := rfl
@[simp] theorem State.changeMsg_blockTag (s : State) (id : Nat) (m : Msg) : (s.changeMsg id m).blockTag = s.blockTag := rfl
@[simp] theorem State.changeMsg_damage (s : State) (id : Nat) (m : Msg) : (s.changeMsg id m).damage = s.damage := rfl
@[simp] theorem State.changeMsg_quarantine (s : State) (id : Nat) (m : Msg) : (s.changeMsg id m).quarantine = s.quarantine := rfl
@[simp] theorem State.changeMsg_pageRecs (s : State) (id : Nat) (m : Msg) : (s.changeMsg id m).pageRecs = s.pageRecs := rfl
@[simp] theorem State.changeMsg_keys (s : State) (id : Nat) (m : Msg) : (s.changeMsg id m).keys = s.keys := rfl
@[simp] theorem State.changeMsg_keyStore (s : State) (id : Nat) (m : Msg) : (s.changeMsg id m).keyStore = s.keyStore := rfl
@[simp] theorem State.changeMsg_scratch (s : State) (id : Nat) (m : Msg) : (s.changeMsg id m).scratch = s.scratch := rfl
@[simp] theorem State.changeMsg_scratchUsed (s : State) (id : Nat) (m : Msg) : (s.changeMsg id m).scratchUsed = s.scratchUsed := rfl
@[simp] theorem State.changeMsg_ringLists (s : State) (id : Nat) (m : Msg) : (s.changeMsg id m).ringLists = s.ringLists := rfl
@[simp] theorem State.changeMsg_deferred (s : State) (id : Nat) (m : Msg) : (s.changeMsg id m).deferred = s.deferred := rfl
@[simp] theorem State.changeMsg_armed (s : State) (id : Nat) (m : Msg) : (s.changeMsg id m).armed = s.armed := rfl
@[simp] theorem State.changeMsg_pagesUnder (s : State) (id : Nat) (m : Msg) : (s.changeMsg id m).pagesUnder = s.pagesUnder := rfl
@[simp] theorem State.changeMsg_wire (s : State) (id : Nat) (m : Msg) :
    (s.changeMsg id m).wire = Assoc.set s.wire id m := rfl
@[simp] theorem State.changeMsg_nextId (s : State) (id : Nat) (m : Msg) : (s.changeMsg id m).nextId = s.nextId := rfl
@[simp] theorem State.changeMsg_cmds (s : State) (id : Nat) (m : Msg) : (s.changeMsg id m).cmds = s.cmds := rfl
@[simp] theorem State.changeMsg_tileOps (s : State) (id : Nat) (m : Msg) : (s.changeMsg id m).tileOps = s.tileOps := rfl
@[simp] theorem State.changeMsg_groups (s : State) (id : Nat) (m : Msg) : (s.changeMsg id m).groups = s.groups := rfl
@[simp] theorem State.changeMsg_hostOut (s : State) (id : Nat) (m : Msg) : (s.changeMsg id m).hostOut = s.hostOut := rfl
@[simp] theorem State.changeMsg_kept (s : State) (id : Nat) (m : Msg) : (s.changeMsg id m).kept = s.kept := rfl
@[simp] theorem State.changeMsg_peerOut (s : State) (id : Nat) (m : Msg) : (s.changeMsg id m).peerOut = s.peerOut := rfl
@[simp] theorem State.changeMsg_linkUp (s : State) (id : Nat) (m : Msg) : (s.changeMsg id m).linkUp = s.linkUp := rfl
@[simp] theorem State.changeMsg_corrected (s : State) (id : Nat) (m : Msg) : (s.changeMsg id m).corrected = s.corrected := rfl
@[simp] theorem State.changeMsg_faulted (s : State) (id : Nat) (m : Msg) : (s.changeMsg id m).faulted = s.faulted := rfl
@[simp] theorem State.changeMsg_device (s : State) (id : Nat) (m : Msg) : (s.changeMsg id m).device = s.device := rfl
@[simp] theorem State.changeMsg_deviceSet (s : State) (id : Nat) (m : Msg) : (s.changeMsg id m).deviceSet = s.deviceSet := rfl
@[simp] theorem State.changeMsg_start (s : State) (id : Nat) (m : Msg) : (s.changeMsg id m).start = s.start := rfl
@[simp] theorem State.changeMsg_minVersion (s : State) (id : Nat) (m : Msg) : (s.changeMsg id m).minVersion = s.minVersion := rfl
@[simp] theorem State.changeMsg_fwDigest (s : State) (id : Nat) (m : Msg) : (s.changeMsg id m).fwDigest = s.fwDigest := rfl
@[simp] theorem State.changeMsg_fwVersion (s : State) (id : Nat) (m : Msg) : (s.changeMsg id m).fwVersion = s.fwVersion := rfl
@[simp] theorem State.changeMsg_moved (s : State) (id : Nat) (m : Msg) : (s.changeMsg id m).moved = s.moved := rfl
@[simp] theorem State.changeMsg_skipped (s : State) (id : Nat) (m : Msg) : (s.changeMsg id m).skipped = s.skipped := rfl
@[simp] theorem State.changeMsg_passedOver (s : State) (id : Nat) (m : Msg) : (s.changeMsg id m).passedOver = s.passedOver := rfl
@[simp] theorem State.changeMsg_abroad (s : State) (id : Nat) (m : Msg) : (s.changeMsg id m).abroad = s.abroad := rfl
@[simp] theorem State.changeMsg_homing (s : State) (id : Nat) (m : Msg) : (s.changeMsg id m).homing = s.homing := rfl
@[simp] theorem State.changeMsg_mapped (s : State) (id : Nat) (m : Msg) : (s.changeMsg id m).mapped = s.mapped := rfl
@[simp] theorem State.changeMsg_asked (s : State) (id : Nat) (m : Msg) : (s.changeMsg id m).asked = s.asked := rfl
@[simp] theorem State.changeMsg_starting (s : State) (id : Nat) (m : Msg) : (s.changeMsg id m).starting = s.starting := rfl
@[simp] theorem State.changeMsg_imageDigest (s : State) (id : Nat) (m : Msg) : (s.changeMsg id m).imageDigest = s.imageDigest := rfl
@[simp] theorem State.changeMsg_imageVersion (s : State) (id : Nat) (m : Msg) : (s.changeMsg id m).imageVersion = s.imageVersion := rfl
@[simp] theorem State.changeMsg_spaceDue (s : State) (id : Nat) (m : Msg) : (s.changeMsg id m).spaceDue = s.spaceDue := rfl
@[simp] theorem State.changeMsg_stamp (s : State) (id : Nat) (m : Msg) : (s.changeMsg id m).stamp = s.stamp := rfl
@[simp] theorem State.changeMsg_agenda (s : State) (id : Nat) (m : Msg) : (s.changeMsg id m).agenda = s.agenda := rfl
@[simp] theorem State.changeMsg_focus (s : State) (id : Nat) (m : Msg) : (s.changeMsg id m).focus = s.focus := rfl
@[simp] theorem State.changeMsg_wireTurn (s : State) (id : Nat) (m : Msg) : (s.changeMsg id m).wireTurn = s.wireTurn := rfl
@[simp] theorem State.changeMsg_turnUnit (s : State) (id : Nat) (m : Msg) : (s.changeMsg id m).turnUnit = s.turnUnit := rfl
@[simp] theorem State.changeMsg_turnSlot (s : State) (id : Nat) (m : Msg) : (s.changeMsg id m).turnSlot = s.turnSlot := rfl
@[simp] theorem State.changeMsg_fetched (s : State) (id : Nat) (m : Msg) : (s.changeMsg id m).fetched = s.fetched := rfl

/-! ### setFull -/

@[simp] theorem State.setFull_lines (s : State) (pa : Nat) (full : Bool) : (s.setFull pa full).lines = s.lines := rfl
@[simp] theorem State.setFull_records (s : State) (pa : Nat) (full : Bool) : (s.setFull pa full).records = s.records := rfl
@[simp] theorem State.setFull_units (s : State) (pa : Nat) (full : Bool) : (s.setFull pa full).units = s.units := rfl
@[simp] theorem State.setFull_clusters (s : State) (pa : Nat) (full : Bool) : (s.setFull pa full).clusters = s.clusters := rfl
@[simp] theorem State.setFull_hstacks (s : State) (pa : Nat) (full : Bool) : (s.setFull pa full).hstacks = s.hstacks := rfl
@[simp] theorem State.setFull_corr (s : State) (pa : Nat) (full : Bool) : (s.setFull pa full).corr = s.corr := rfl
@[simp] theorem State.setFull_tenants (s : State) (pa : Nat) (full : Bool) : (s.setFull pa full).tenants = s.tenants := rfl
@[simp] theorem State.setFull_qwt (s : State) (pa : Nat) (full : Bool) : (s.setFull pa full).qwt = s.qwt := rfl
@[simp] theorem State.setFull_mem (s : State) (pa : Nat) (full : Bool) : (s.setFull pa full).mem = s.mem := rfl
@[simp] theorem State.setFull_blockTag (s : State) (pa : Nat) (full : Bool) : (s.setFull pa full).blockTag = s.blockTag := rfl
@[simp] theorem State.setFull_damage (s : State) (pa : Nat) (full : Bool) : (s.setFull pa full).damage = s.damage := rfl
@[simp] theorem State.setFull_quarantine (s : State) (pa : Nat) (full : Bool) : (s.setFull pa full).quarantine = s.quarantine := rfl
@[simp] theorem State.setFull_pageRecs (s : State) (pa : Nat) (full : Bool) : (s.setFull pa full).pageRecs = s.pageRecs := rfl
@[simp] theorem State.setFull_keys (s : State) (pa : Nat) (full : Bool) : (s.setFull pa full).keys = s.keys := rfl
@[simp] theorem State.setFull_keyStore (s : State) (pa : Nat) (full : Bool) : (s.setFull pa full).keyStore = s.keyStore := rfl
@[simp] theorem State.setFull_scratch (s : State) (pa : Nat) (full : Bool) : (s.setFull pa full).scratch = s.scratch := rfl
@[simp] theorem State.setFull_scratchUsed (s : State) (pa : Nat) (full : Bool) : (s.setFull pa full).scratchUsed = s.scratchUsed := rfl
@[simp] theorem State.setFull_ringLists (s : State) (pa : Nat) (full : Bool) : (s.setFull pa full).ringLists = s.ringLists := rfl
@[simp] theorem State.setFull_deferred (s : State) (pa : Nat) (full : Bool) : (s.setFull pa full).deferred = s.deferred := rfl
@[simp] theorem State.setFull_armed (s : State) (pa : Nat) (full : Bool) : (s.setFull pa full).armed = s.armed := rfl
@[simp] theorem State.setFull_pagesUnder (s : State) (pa : Nat) (full : Bool) : (s.setFull pa full).pagesUnder = s.pagesUnder := rfl
@[simp] theorem State.setFull_wire (s : State) (pa : Nat) (full : Bool) : (s.setFull pa full).wire = s.wire := rfl
@[simp] theorem State.setFull_nextId (s : State) (pa : Nat) (full : Bool) : (s.setFull pa full).nextId = s.nextId := rfl
@[simp] theorem State.setFull_cmds (s : State) (pa : Nat) (full : Bool) : (s.setFull pa full).cmds = s.cmds := rfl
@[simp] theorem State.setFull_tileOps (s : State) (pa : Nat) (full : Bool) : (s.setFull pa full).tileOps = s.tileOps := rfl
@[simp] theorem State.setFull_groups (s : State) (pa : Nat) (full : Bool) : (s.setFull pa full).groups = s.groups := rfl
@[simp] theorem State.setFull_hostOut (s : State) (pa : Nat) (full : Bool) : (s.setFull pa full).hostOut = s.hostOut := rfl
@[simp] theorem State.setFull_kept (s : State) (pa : Nat) (full : Bool) : (s.setFull pa full).kept = s.kept := rfl
@[simp] theorem State.setFull_peerOut (s : State) (pa : Nat) (full : Bool) : (s.setFull pa full).peerOut = s.peerOut := rfl
@[simp] theorem State.setFull_linkUp (s : State) (pa : Nat) (full : Bool) : (s.setFull pa full).linkUp = s.linkUp := rfl
@[simp] theorem State.setFull_corrected (s : State) (pa : Nat) (full : Bool) : (s.setFull pa full).corrected = s.corrected := rfl
@[simp] theorem State.setFull_faulted (s : State) (pa : Nat) (full : Bool) : (s.setFull pa full).faulted = s.faulted := rfl
@[simp] theorem State.setFull_device (s : State) (pa : Nat) (full : Bool) : (s.setFull pa full).device = s.device := rfl
@[simp] theorem State.setFull_deviceSet (s : State) (pa : Nat) (full : Bool) : (s.setFull pa full).deviceSet = s.deviceSet := rfl
@[simp] theorem State.setFull_start (s : State) (pa : Nat) (full : Bool) : (s.setFull pa full).start = s.start := rfl
@[simp] theorem State.setFull_minVersion (s : State) (pa : Nat) (full : Bool) : (s.setFull pa full).minVersion = s.minVersion := rfl
@[simp] theorem State.setFull_fwDigest (s : State) (pa : Nat) (full : Bool) : (s.setFull pa full).fwDigest = s.fwDigest := rfl
@[simp] theorem State.setFull_fwVersion (s : State) (pa : Nat) (full : Bool) : (s.setFull pa full).fwVersion = s.fwVersion := rfl
@[simp] theorem State.setFull_moved (s : State) (pa : Nat) (full : Bool) : (s.setFull pa full).moved = s.moved := rfl
@[simp] theorem State.setFull_skipped (s : State) (pa : Nat) (full : Bool) : (s.setFull pa full).skipped = s.skipped := rfl
@[simp] theorem State.setFull_passedOver (s : State) (pa : Nat) (full : Bool) : (s.setFull pa full).passedOver = s.passedOver := rfl
@[simp] theorem State.setFull_abroad (s : State) (pa : Nat) (full : Bool) : (s.setFull pa full).abroad = s.abroad := rfl
@[simp] theorem State.setFull_homing (s : State) (pa : Nat) (full : Bool) : (s.setFull pa full).homing = s.homing := rfl
@[simp] theorem State.setFull_mapped (s : State) (pa : Nat) (full : Bool) : (s.setFull pa full).mapped = s.mapped := rfl
@[simp] theorem State.setFull_asked (s : State) (pa : Nat) (full : Bool) : (s.setFull pa full).asked = s.asked := rfl
@[simp] theorem State.setFull_starting (s : State) (pa : Nat) (full : Bool) : (s.setFull pa full).starting = s.starting := rfl
@[simp] theorem State.setFull_imageDigest (s : State) (pa : Nat) (full : Bool) : (s.setFull pa full).imageDigest = s.imageDigest := rfl
@[simp] theorem State.setFull_imageVersion (s : State) (pa : Nat) (full : Bool) : (s.setFull pa full).imageVersion = s.imageVersion := rfl
@[simp] theorem State.setFull_spaceDue (s : State) (pa : Nat) (full : Bool) : (s.setFull pa full).spaceDue = s.spaceDue := rfl
@[simp] theorem State.setFull_stamp (s : State) (pa : Nat) (full : Bool) : (s.setFull pa full).stamp = s.stamp := rfl
@[simp] theorem State.setFull_agenda (s : State) (pa : Nat) (full : Bool) : (s.setFull pa full).agenda = s.agenda := rfl
@[simp] theorem State.setFull_focus (s : State) (pa : Nat) (full : Bool) : (s.setFull pa full).focus = s.focus := rfl
@[simp] theorem State.setFull_wireTurn (s : State) (pa : Nat) (full : Bool) : (s.setFull pa full).wireTurn = s.wireTurn := rfl
@[simp] theorem State.setFull_turnUnit (s : State) (pa : Nat) (full : Bool) : (s.setFull pa full).turnUnit = s.turnUnit := rfl
@[simp] theorem State.setFull_turnSlot (s : State) (pa : Nat) (full : Bool) : (s.setFull pa full).turnSlot = s.turnSlot := rfl
@[simp] theorem State.setFull_fetched (s : State) (pa : Nat) (full : Bool) : (s.setFull pa full).fetched = s.fetched := rfl

/-! ### modCtx -/

@[simp] theorem State.modCtx_records (s : State) (va : Nat) (f : Ctx → Ctx) : (s.modCtx va f).records = s.records := by
  unfold State.modCtx
  split <;> rfl
@[simp] theorem State.modCtx_units (s : State) (va : Nat) (f : Ctx → Ctx) : (s.modCtx va f).units = s.units := by
  unfold State.modCtx
  split <;> rfl
@[simp] theorem State.modCtx_clusters (s : State) (va : Nat) (f : Ctx → Ctx) : (s.modCtx va f).clusters = s.clusters := by
  unfold State.modCtx
  split <;> rfl
@[simp] theorem State.modCtx_hstacks (s : State) (va : Nat) (f : Ctx → Ctx) : (s.modCtx va f).hstacks = s.hstacks := by
  unfold State.modCtx
  split <;> rfl
@[simp] theorem State.modCtx_corr (s : State) (va : Nat) (f : Ctx → Ctx) : (s.modCtx va f).corr = s.corr := by
  unfold State.modCtx
  split <;> rfl
@[simp] theorem State.modCtx_tenants (s : State) (va : Nat) (f : Ctx → Ctx) : (s.modCtx va f).tenants = s.tenants := by
  unfold State.modCtx
  split <;> rfl
@[simp] theorem State.modCtx_qwt (s : State) (va : Nat) (f : Ctx → Ctx) : (s.modCtx va f).qwt = s.qwt := by
  unfold State.modCtx
  split <;> rfl
@[simp] theorem State.modCtx_mem (s : State) (va : Nat) (f : Ctx → Ctx) : (s.modCtx va f).mem = s.mem := by
  unfold State.modCtx
  split <;> rfl
@[simp] theorem State.modCtx_feEmpty (s : State) (va : Nat) (f : Ctx → Ctx) : (s.modCtx va f).feEmpty = s.feEmpty := by
  unfold State.modCtx
  split <;> rfl
@[simp] theorem State.modCtx_blockTag (s : State) (va : Nat) (f : Ctx → Ctx) : (s.modCtx va f).blockTag = s.blockTag := by
  unfold State.modCtx
  split <;> rfl
@[simp] theorem State.modCtx_damage (s : State) (va : Nat) (f : Ctx → Ctx) : (s.modCtx va f).damage = s.damage := by
  unfold State.modCtx
  split <;> rfl
@[simp] theorem State.modCtx_quarantine (s : State) (va : Nat) (f : Ctx → Ctx) : (s.modCtx va f).quarantine = s.quarantine := by
  unfold State.modCtx
  split <;> rfl
@[simp] theorem State.modCtx_pageRecs (s : State) (va : Nat) (f : Ctx → Ctx) : (s.modCtx va f).pageRecs = s.pageRecs := by
  unfold State.modCtx
  split <;> rfl
@[simp] theorem State.modCtx_keys (s : State) (va : Nat) (f : Ctx → Ctx) : (s.modCtx va f).keys = s.keys := by
  unfold State.modCtx
  split <;> rfl
@[simp] theorem State.modCtx_keyStore (s : State) (va : Nat) (f : Ctx → Ctx) : (s.modCtx va f).keyStore = s.keyStore := by
  unfold State.modCtx
  split <;> rfl
@[simp] theorem State.modCtx_scratch (s : State) (va : Nat) (f : Ctx → Ctx) : (s.modCtx va f).scratch = s.scratch := by
  unfold State.modCtx
  split <;> rfl
@[simp] theorem State.modCtx_scratchUsed (s : State) (va : Nat) (f : Ctx → Ctx) : (s.modCtx va f).scratchUsed = s.scratchUsed := by
  unfold State.modCtx
  split <;> rfl
@[simp] theorem State.modCtx_ringLists (s : State) (va : Nat) (f : Ctx → Ctx) : (s.modCtx va f).ringLists = s.ringLists := by
  unfold State.modCtx
  split <;> rfl
@[simp] theorem State.modCtx_deferred (s : State) (va : Nat) (f : Ctx → Ctx) : (s.modCtx va f).deferred = s.deferred := by
  unfold State.modCtx
  split <;> rfl
@[simp] theorem State.modCtx_armed (s : State) (va : Nat) (f : Ctx → Ctx) : (s.modCtx va f).armed = s.armed := by
  unfold State.modCtx
  split <;> rfl
@[simp] theorem State.modCtx_pagesUnder (s : State) (va : Nat) (f : Ctx → Ctx) : (s.modCtx va f).pagesUnder = s.pagesUnder := by
  unfold State.modCtx
  split <;> rfl
@[simp] theorem State.modCtx_wire (s : State) (va : Nat) (f : Ctx → Ctx) : (s.modCtx va f).wire = s.wire := by
  unfold State.modCtx
  split <;> rfl
@[simp] theorem State.modCtx_nextId (s : State) (va : Nat) (f : Ctx → Ctx) : (s.modCtx va f).nextId = s.nextId := by
  unfold State.modCtx
  split <;> rfl
@[simp] theorem State.modCtx_cmds (s : State) (va : Nat) (f : Ctx → Ctx) : (s.modCtx va f).cmds = s.cmds := by
  unfold State.modCtx
  split <;> rfl
@[simp] theorem State.modCtx_tileOps (s : State) (va : Nat) (f : Ctx → Ctx) : (s.modCtx va f).tileOps = s.tileOps := by
  unfold State.modCtx
  split <;> rfl
@[simp] theorem State.modCtx_groups (s : State) (va : Nat) (f : Ctx → Ctx) : (s.modCtx va f).groups = s.groups := by
  unfold State.modCtx
  split <;> rfl
@[simp] theorem State.modCtx_hostOut (s : State) (va : Nat) (f : Ctx → Ctx) : (s.modCtx va f).hostOut = s.hostOut := by
  unfold State.modCtx
  split <;> rfl
@[simp] theorem State.modCtx_kept (s : State) (va : Nat) (f : Ctx → Ctx) : (s.modCtx va f).kept = s.kept := by
  unfold State.modCtx
  split <;> rfl
@[simp] theorem State.modCtx_peerOut (s : State) (va : Nat) (f : Ctx → Ctx) : (s.modCtx va f).peerOut = s.peerOut := by
  unfold State.modCtx
  split <;> rfl
@[simp] theorem State.modCtx_linkUp (s : State) (va : Nat) (f : Ctx → Ctx) : (s.modCtx va f).linkUp = s.linkUp := by
  unfold State.modCtx
  split <;> rfl
@[simp] theorem State.modCtx_corrected (s : State) (va : Nat) (f : Ctx → Ctx) : (s.modCtx va f).corrected = s.corrected := by
  unfold State.modCtx
  split <;> rfl
@[simp] theorem State.modCtx_faulted (s : State) (va : Nat) (f : Ctx → Ctx) : (s.modCtx va f).faulted = s.faulted := by
  unfold State.modCtx
  split <;> rfl
@[simp] theorem State.modCtx_device (s : State) (va : Nat) (f : Ctx → Ctx) : (s.modCtx va f).device = s.device := by
  unfold State.modCtx
  split <;> rfl
@[simp] theorem State.modCtx_deviceSet (s : State) (va : Nat) (f : Ctx → Ctx) : (s.modCtx va f).deviceSet = s.deviceSet := by
  unfold State.modCtx
  split <;> rfl
@[simp] theorem State.modCtx_start (s : State) (va : Nat) (f : Ctx → Ctx) : (s.modCtx va f).start = s.start := by
  unfold State.modCtx
  split <;> rfl
@[simp] theorem State.modCtx_minVersion (s : State) (va : Nat) (f : Ctx → Ctx) : (s.modCtx va f).minVersion = s.minVersion := by
  unfold State.modCtx
  split <;> rfl
@[simp] theorem State.modCtx_fwDigest (s : State) (va : Nat) (f : Ctx → Ctx) : (s.modCtx va f).fwDigest = s.fwDigest := by
  unfold State.modCtx
  split <;> rfl
@[simp] theorem State.modCtx_fwVersion (s : State) (va : Nat) (f : Ctx → Ctx) : (s.modCtx va f).fwVersion = s.fwVersion := by
  unfold State.modCtx
  split <;> rfl
@[simp] theorem State.modCtx_moved (s : State) (va : Nat) (f : Ctx → Ctx) : (s.modCtx va f).moved = s.moved := by
  unfold State.modCtx
  split <;> rfl
@[simp] theorem State.modCtx_skipped (s : State) (va : Nat) (f : Ctx → Ctx) : (s.modCtx va f).skipped = s.skipped := by
  unfold State.modCtx
  split <;> rfl
@[simp] theorem State.modCtx_passedOver (s : State) (va : Nat) (f : Ctx → Ctx) : (s.modCtx va f).passedOver = s.passedOver := by
  unfold State.modCtx
  split <;> rfl
@[simp] theorem State.modCtx_abroad (s : State) (va : Nat) (f : Ctx → Ctx) : (s.modCtx va f).abroad = s.abroad := by
  unfold State.modCtx
  split <;> rfl
@[simp] theorem State.modCtx_homing (s : State) (va : Nat) (f : Ctx → Ctx) : (s.modCtx va f).homing = s.homing := by
  unfold State.modCtx
  split <;> rfl
@[simp] theorem State.modCtx_mapped (s : State) (va : Nat) (f : Ctx → Ctx) : (s.modCtx va f).mapped = s.mapped := by
  unfold State.modCtx
  split <;> rfl
@[simp] theorem State.modCtx_asked (s : State) (va : Nat) (f : Ctx → Ctx) : (s.modCtx va f).asked = s.asked := by
  unfold State.modCtx
  split <;> rfl
@[simp] theorem State.modCtx_starting (s : State) (va : Nat) (f : Ctx → Ctx) : (s.modCtx va f).starting = s.starting := by
  unfold State.modCtx
  split <;> rfl
@[simp] theorem State.modCtx_imageDigest (s : State) (va : Nat) (f : Ctx → Ctx) : (s.modCtx va f).imageDigest = s.imageDigest := by
  unfold State.modCtx
  split <;> rfl
@[simp] theorem State.modCtx_imageVersion (s : State) (va : Nat) (f : Ctx → Ctx) : (s.modCtx va f).imageVersion = s.imageVersion := by
  unfold State.modCtx
  split <;> rfl
@[simp] theorem State.modCtx_spaceDue (s : State) (va : Nat) (f : Ctx → Ctx) : (s.modCtx va f).spaceDue = s.spaceDue := by
  unfold State.modCtx
  split <;> rfl
@[simp] theorem State.modCtx_stamp (s : State) (va : Nat) (f : Ctx → Ctx) : (s.modCtx va f).stamp = s.stamp := by
  unfold State.modCtx
  split <;> rfl
@[simp] theorem State.modCtx_agenda (s : State) (va : Nat) (f : Ctx → Ctx) : (s.modCtx va f).agenda = s.agenda := by
  unfold State.modCtx
  split <;> rfl
@[simp] theorem State.modCtx_focus (s : State) (va : Nat) (f : Ctx → Ctx) : (s.modCtx va f).focus = s.focus := by
  unfold State.modCtx
  split <;> rfl
@[simp] theorem State.modCtx_wireTurn (s : State) (va : Nat) (f : Ctx → Ctx) : (s.modCtx va f).wireTurn = s.wireTurn := by
  unfold State.modCtx
  split <;> rfl
@[simp] theorem State.modCtx_turnUnit (s : State) (va : Nat) (f : Ctx → Ctx) : (s.modCtx va f).turnUnit = s.turnUnit := by
  unfold State.modCtx
  split <;> rfl
@[simp] theorem State.modCtx_turnSlot (s : State) (va : Nat) (f : Ctx → Ctx) : (s.modCtx va f).turnSlot = s.turnSlot := by
  unfold State.modCtx
  split <;> rfl
@[simp] theorem State.modCtx_fetched (s : State) (va : Nat) (f : Ctx → Ctx) : (s.modCtx va f).fetched = s.fetched := by
  unfold State.modCtx
  split <;> rfl

/-! ### modLine -/

@[simp] theorem State.modLine_records (s : State) (va : Nat) (f : Line → Line) : (s.modLine va f).records = s.records := by
  unfold State.modLine State.modCtx
  split <;> rfl
@[simp] theorem State.modLine_units (s : State) (va : Nat) (f : Line → Line) : (s.modLine va f).units = s.units := by
  unfold State.modLine State.modCtx
  split <;> rfl
@[simp] theorem State.modLine_clusters (s : State) (va : Nat) (f : Line → Line) : (s.modLine va f).clusters = s.clusters := by
  unfold State.modLine State.modCtx
  split <;> rfl
@[simp] theorem State.modLine_hstacks (s : State) (va : Nat) (f : Line → Line) : (s.modLine va f).hstacks = s.hstacks := by
  unfold State.modLine State.modCtx
  split <;> rfl
@[simp] theorem State.modLine_corr (s : State) (va : Nat) (f : Line → Line) : (s.modLine va f).corr = s.corr := by
  unfold State.modLine State.modCtx
  split <;> rfl
@[simp] theorem State.modLine_tenants (s : State) (va : Nat) (f : Line → Line) : (s.modLine va f).tenants = s.tenants := by
  unfold State.modLine State.modCtx
  split <;> rfl
@[simp] theorem State.modLine_qwt (s : State) (va : Nat) (f : Line → Line) : (s.modLine va f).qwt = s.qwt := by
  unfold State.modLine State.modCtx
  split <;> rfl
@[simp] theorem State.modLine_mem (s : State) (va : Nat) (f : Line → Line) : (s.modLine va f).mem = s.mem := by
  unfold State.modLine State.modCtx
  split <;> rfl
@[simp] theorem State.modLine_feEmpty (s : State) (va : Nat) (f : Line → Line) : (s.modLine va f).feEmpty = s.feEmpty := by
  unfold State.modLine State.modCtx
  split <;> rfl
@[simp] theorem State.modLine_blockTag (s : State) (va : Nat) (f : Line → Line) : (s.modLine va f).blockTag = s.blockTag := by
  unfold State.modLine State.modCtx
  split <;> rfl
@[simp] theorem State.modLine_damage (s : State) (va : Nat) (f : Line → Line) : (s.modLine va f).damage = s.damage := by
  unfold State.modLine State.modCtx
  split <;> rfl
@[simp] theorem State.modLine_quarantine (s : State) (va : Nat) (f : Line → Line) : (s.modLine va f).quarantine = s.quarantine := by
  unfold State.modLine State.modCtx
  split <;> rfl
@[simp] theorem State.modLine_pageRecs (s : State) (va : Nat) (f : Line → Line) : (s.modLine va f).pageRecs = s.pageRecs := by
  unfold State.modLine State.modCtx
  split <;> rfl
@[simp] theorem State.modLine_keys (s : State) (va : Nat) (f : Line → Line) : (s.modLine va f).keys = s.keys := by
  unfold State.modLine State.modCtx
  split <;> rfl
@[simp] theorem State.modLine_keyStore (s : State) (va : Nat) (f : Line → Line) : (s.modLine va f).keyStore = s.keyStore := by
  unfold State.modLine State.modCtx
  split <;> rfl
@[simp] theorem State.modLine_scratch (s : State) (va : Nat) (f : Line → Line) : (s.modLine va f).scratch = s.scratch := by
  unfold State.modLine State.modCtx
  split <;> rfl
@[simp] theorem State.modLine_scratchUsed (s : State) (va : Nat) (f : Line → Line) : (s.modLine va f).scratchUsed = s.scratchUsed := by
  unfold State.modLine State.modCtx
  split <;> rfl
@[simp] theorem State.modLine_ringLists (s : State) (va : Nat) (f : Line → Line) : (s.modLine va f).ringLists = s.ringLists := by
  unfold State.modLine State.modCtx
  split <;> rfl
@[simp] theorem State.modLine_deferred (s : State) (va : Nat) (f : Line → Line) : (s.modLine va f).deferred = s.deferred := by
  unfold State.modLine State.modCtx
  split <;> rfl
@[simp] theorem State.modLine_armed (s : State) (va : Nat) (f : Line → Line) : (s.modLine va f).armed = s.armed := by
  unfold State.modLine State.modCtx
  split <;> rfl
@[simp] theorem State.modLine_pagesUnder (s : State) (va : Nat) (f : Line → Line) : (s.modLine va f).pagesUnder = s.pagesUnder := by
  unfold State.modLine State.modCtx
  split <;> rfl
@[simp] theorem State.modLine_wire (s : State) (va : Nat) (f : Line → Line) : (s.modLine va f).wire = s.wire := by
  unfold State.modLine State.modCtx
  split <;> rfl
@[simp] theorem State.modLine_nextId (s : State) (va : Nat) (f : Line → Line) : (s.modLine va f).nextId = s.nextId := by
  unfold State.modLine State.modCtx
  split <;> rfl
@[simp] theorem State.modLine_cmds (s : State) (va : Nat) (f : Line → Line) : (s.modLine va f).cmds = s.cmds := by
  unfold State.modLine State.modCtx
  split <;> rfl
@[simp] theorem State.modLine_tileOps (s : State) (va : Nat) (f : Line → Line) : (s.modLine va f).tileOps = s.tileOps := by
  unfold State.modLine State.modCtx
  split <;> rfl
@[simp] theorem State.modLine_groups (s : State) (va : Nat) (f : Line → Line) : (s.modLine va f).groups = s.groups := by
  unfold State.modLine State.modCtx
  split <;> rfl
@[simp] theorem State.modLine_hostOut (s : State) (va : Nat) (f : Line → Line) : (s.modLine va f).hostOut = s.hostOut := by
  unfold State.modLine State.modCtx
  split <;> rfl
@[simp] theorem State.modLine_kept (s : State) (va : Nat) (f : Line → Line) : (s.modLine va f).kept = s.kept := by
  unfold State.modLine State.modCtx
  split <;> rfl
@[simp] theorem State.modLine_peerOut (s : State) (va : Nat) (f : Line → Line) : (s.modLine va f).peerOut = s.peerOut := by
  unfold State.modLine State.modCtx
  split <;> rfl
@[simp] theorem State.modLine_linkUp (s : State) (va : Nat) (f : Line → Line) : (s.modLine va f).linkUp = s.linkUp := by
  unfold State.modLine State.modCtx
  split <;> rfl
@[simp] theorem State.modLine_corrected (s : State) (va : Nat) (f : Line → Line) : (s.modLine va f).corrected = s.corrected := by
  unfold State.modLine State.modCtx
  split <;> rfl
@[simp] theorem State.modLine_faulted (s : State) (va : Nat) (f : Line → Line) : (s.modLine va f).faulted = s.faulted := by
  unfold State.modLine State.modCtx
  split <;> rfl
@[simp] theorem State.modLine_device (s : State) (va : Nat) (f : Line → Line) : (s.modLine va f).device = s.device := by
  unfold State.modLine State.modCtx
  split <;> rfl
@[simp] theorem State.modLine_deviceSet (s : State) (va : Nat) (f : Line → Line) : (s.modLine va f).deviceSet = s.deviceSet := by
  unfold State.modLine State.modCtx
  split <;> rfl
@[simp] theorem State.modLine_start (s : State) (va : Nat) (f : Line → Line) : (s.modLine va f).start = s.start := by
  unfold State.modLine State.modCtx
  split <;> rfl
@[simp] theorem State.modLine_minVersion (s : State) (va : Nat) (f : Line → Line) : (s.modLine va f).minVersion = s.minVersion := by
  unfold State.modLine State.modCtx
  split <;> rfl
@[simp] theorem State.modLine_fwDigest (s : State) (va : Nat) (f : Line → Line) : (s.modLine va f).fwDigest = s.fwDigest := by
  unfold State.modLine State.modCtx
  split <;> rfl
@[simp] theorem State.modLine_fwVersion (s : State) (va : Nat) (f : Line → Line) : (s.modLine va f).fwVersion = s.fwVersion := by
  unfold State.modLine State.modCtx
  split <;> rfl
@[simp] theorem State.modLine_moved (s : State) (va : Nat) (f : Line → Line) : (s.modLine va f).moved = s.moved := by
  unfold State.modLine State.modCtx
  split <;> rfl
@[simp] theorem State.modLine_skipped (s : State) (va : Nat) (f : Line → Line) : (s.modLine va f).skipped = s.skipped := by
  unfold State.modLine State.modCtx
  split <;> rfl
@[simp] theorem State.modLine_passedOver (s : State) (va : Nat) (f : Line → Line) : (s.modLine va f).passedOver = s.passedOver := by
  unfold State.modLine State.modCtx
  split <;> rfl
@[simp] theorem State.modLine_abroad (s : State) (va : Nat) (f : Line → Line) : (s.modLine va f).abroad = s.abroad := by
  unfold State.modLine State.modCtx
  split <;> rfl
@[simp] theorem State.modLine_homing (s : State) (va : Nat) (f : Line → Line) : (s.modLine va f).homing = s.homing := by
  unfold State.modLine State.modCtx
  split <;> rfl
@[simp] theorem State.modLine_mapped (s : State) (va : Nat) (f : Line → Line) : (s.modLine va f).mapped = s.mapped := by
  unfold State.modLine State.modCtx
  split <;> rfl
@[simp] theorem State.modLine_asked (s : State) (va : Nat) (f : Line → Line) : (s.modLine va f).asked = s.asked := by
  unfold State.modLine State.modCtx
  split <;> rfl
@[simp] theorem State.modLine_starting (s : State) (va : Nat) (f : Line → Line) : (s.modLine va f).starting = s.starting := by
  unfold State.modLine State.modCtx
  split <;> rfl
@[simp] theorem State.modLine_imageDigest (s : State) (va : Nat) (f : Line → Line) : (s.modLine va f).imageDigest = s.imageDigest := by
  unfold State.modLine State.modCtx
  split <;> rfl
@[simp] theorem State.modLine_imageVersion (s : State) (va : Nat) (f : Line → Line) : (s.modLine va f).imageVersion = s.imageVersion := by
  unfold State.modLine State.modCtx
  split <;> rfl
@[simp] theorem State.modLine_spaceDue (s : State) (va : Nat) (f : Line → Line) : (s.modLine va f).spaceDue = s.spaceDue := by
  unfold State.modLine State.modCtx
  split <;> rfl
@[simp] theorem State.modLine_stamp (s : State) (va : Nat) (f : Line → Line) : (s.modLine va f).stamp = s.stamp := by
  unfold State.modLine State.modCtx
  split <;> rfl
@[simp] theorem State.modLine_agenda (s : State) (va : Nat) (f : Line → Line) : (s.modLine va f).agenda = s.agenda := by
  unfold State.modLine State.modCtx
  split <;> rfl
@[simp] theorem State.modLine_focus (s : State) (va : Nat) (f : Line → Line) : (s.modLine va f).focus = s.focus := by
  unfold State.modLine State.modCtx
  split <;> rfl
@[simp] theorem State.modLine_wireTurn (s : State) (va : Nat) (f : Line → Line) : (s.modLine va f).wireTurn = s.wireTurn := by
  unfold State.modLine State.modCtx
  split <;> rfl
@[simp] theorem State.modLine_turnUnit (s : State) (va : Nat) (f : Line → Line) : (s.modLine va f).turnUnit = s.turnUnit := by
  unfold State.modLine State.modCtx
  split <;> rfl
@[simp] theorem State.modLine_turnSlot (s : State) (va : Nat) (f : Line → Line) : (s.modLine va f).turnSlot = s.turnSlot := by
  unfold State.modLine State.modCtx
  split <;> rfl
@[simp] theorem State.modLine_fetched (s : State) (va : Nat) (f : Line → Line) : (s.modLine va f).fetched = s.fetched := by
  unfold State.modLine State.modCtx
  split <;> rfl

/-! ### modBook -/

@[simp] theorem State.modBook_records (s : State) (va : Nat) (f : Book → Book) : (s.modBook va f).records = s.records := by
  unfold State.modBook State.modCtx
  split <;> rfl
@[simp] theorem State.modBook_units (s : State) (va : Nat) (f : Book → Book) : (s.modBook va f).units = s.units := by
  unfold State.modBook State.modCtx
  split <;> rfl
@[simp] theorem State.modBook_clusters (s : State) (va : Nat) (f : Book → Book) : (s.modBook va f).clusters = s.clusters := by
  unfold State.modBook State.modCtx
  split <;> rfl
@[simp] theorem State.modBook_hstacks (s : State) (va : Nat) (f : Book → Book) : (s.modBook va f).hstacks = s.hstacks := by
  unfold State.modBook State.modCtx
  split <;> rfl
@[simp] theorem State.modBook_corr (s : State) (va : Nat) (f : Book → Book) : (s.modBook va f).corr = s.corr := by
  unfold State.modBook State.modCtx
  split <;> rfl
@[simp] theorem State.modBook_tenants (s : State) (va : Nat) (f : Book → Book) : (s.modBook va f).tenants = s.tenants := by
  unfold State.modBook State.modCtx
  split <;> rfl
@[simp] theorem State.modBook_qwt (s : State) (va : Nat) (f : Book → Book) : (s.modBook va f).qwt = s.qwt := by
  unfold State.modBook State.modCtx
  split <;> rfl
@[simp] theorem State.modBook_mem (s : State) (va : Nat) (f : Book → Book) : (s.modBook va f).mem = s.mem := by
  unfold State.modBook State.modCtx
  split <;> rfl
@[simp] theorem State.modBook_feEmpty (s : State) (va : Nat) (f : Book → Book) : (s.modBook va f).feEmpty = s.feEmpty := by
  unfold State.modBook State.modCtx
  split <;> rfl
@[simp] theorem State.modBook_blockTag (s : State) (va : Nat) (f : Book → Book) : (s.modBook va f).blockTag = s.blockTag := by
  unfold State.modBook State.modCtx
  split <;> rfl
@[simp] theorem State.modBook_damage (s : State) (va : Nat) (f : Book → Book) : (s.modBook va f).damage = s.damage := by
  unfold State.modBook State.modCtx
  split <;> rfl
@[simp] theorem State.modBook_quarantine (s : State) (va : Nat) (f : Book → Book) : (s.modBook va f).quarantine = s.quarantine := by
  unfold State.modBook State.modCtx
  split <;> rfl
@[simp] theorem State.modBook_pageRecs (s : State) (va : Nat) (f : Book → Book) : (s.modBook va f).pageRecs = s.pageRecs := by
  unfold State.modBook State.modCtx
  split <;> rfl
@[simp] theorem State.modBook_keys (s : State) (va : Nat) (f : Book → Book) : (s.modBook va f).keys = s.keys := by
  unfold State.modBook State.modCtx
  split <;> rfl
@[simp] theorem State.modBook_keyStore (s : State) (va : Nat) (f : Book → Book) : (s.modBook va f).keyStore = s.keyStore := by
  unfold State.modBook State.modCtx
  split <;> rfl
@[simp] theorem State.modBook_scratch (s : State) (va : Nat) (f : Book → Book) : (s.modBook va f).scratch = s.scratch := by
  unfold State.modBook State.modCtx
  split <;> rfl
@[simp] theorem State.modBook_scratchUsed (s : State) (va : Nat) (f : Book → Book) : (s.modBook va f).scratchUsed = s.scratchUsed := by
  unfold State.modBook State.modCtx
  split <;> rfl
@[simp] theorem State.modBook_ringLists (s : State) (va : Nat) (f : Book → Book) : (s.modBook va f).ringLists = s.ringLists := by
  unfold State.modBook State.modCtx
  split <;> rfl
@[simp] theorem State.modBook_deferred (s : State) (va : Nat) (f : Book → Book) : (s.modBook va f).deferred = s.deferred := by
  unfold State.modBook State.modCtx
  split <;> rfl
@[simp] theorem State.modBook_armed (s : State) (va : Nat) (f : Book → Book) : (s.modBook va f).armed = s.armed := by
  unfold State.modBook State.modCtx
  split <;> rfl
@[simp] theorem State.modBook_pagesUnder (s : State) (va : Nat) (f : Book → Book) : (s.modBook va f).pagesUnder = s.pagesUnder := by
  unfold State.modBook State.modCtx
  split <;> rfl
@[simp] theorem State.modBook_wire (s : State) (va : Nat) (f : Book → Book) : (s.modBook va f).wire = s.wire := by
  unfold State.modBook State.modCtx
  split <;> rfl
@[simp] theorem State.modBook_nextId (s : State) (va : Nat) (f : Book → Book) : (s.modBook va f).nextId = s.nextId := by
  unfold State.modBook State.modCtx
  split <;> rfl
@[simp] theorem State.modBook_cmds (s : State) (va : Nat) (f : Book → Book) : (s.modBook va f).cmds = s.cmds := by
  unfold State.modBook State.modCtx
  split <;> rfl
@[simp] theorem State.modBook_tileOps (s : State) (va : Nat) (f : Book → Book) : (s.modBook va f).tileOps = s.tileOps := by
  unfold State.modBook State.modCtx
  split <;> rfl
@[simp] theorem State.modBook_groups (s : State) (va : Nat) (f : Book → Book) : (s.modBook va f).groups = s.groups := by
  unfold State.modBook State.modCtx
  split <;> rfl
@[simp] theorem State.modBook_hostOut (s : State) (va : Nat) (f : Book → Book) : (s.modBook va f).hostOut = s.hostOut := by
  unfold State.modBook State.modCtx
  split <;> rfl
@[simp] theorem State.modBook_kept (s : State) (va : Nat) (f : Book → Book) : (s.modBook va f).kept = s.kept := by
  unfold State.modBook State.modCtx
  split <;> rfl
@[simp] theorem State.modBook_peerOut (s : State) (va : Nat) (f : Book → Book) : (s.modBook va f).peerOut = s.peerOut := by
  unfold State.modBook State.modCtx
  split <;> rfl
@[simp] theorem State.modBook_linkUp (s : State) (va : Nat) (f : Book → Book) : (s.modBook va f).linkUp = s.linkUp := by
  unfold State.modBook State.modCtx
  split <;> rfl
@[simp] theorem State.modBook_corrected (s : State) (va : Nat) (f : Book → Book) : (s.modBook va f).corrected = s.corrected := by
  unfold State.modBook State.modCtx
  split <;> rfl
@[simp] theorem State.modBook_faulted (s : State) (va : Nat) (f : Book → Book) : (s.modBook va f).faulted = s.faulted := by
  unfold State.modBook State.modCtx
  split <;> rfl
@[simp] theorem State.modBook_device (s : State) (va : Nat) (f : Book → Book) : (s.modBook va f).device = s.device := by
  unfold State.modBook State.modCtx
  split <;> rfl
@[simp] theorem State.modBook_deviceSet (s : State) (va : Nat) (f : Book → Book) : (s.modBook va f).deviceSet = s.deviceSet := by
  unfold State.modBook State.modCtx
  split <;> rfl
@[simp] theorem State.modBook_start (s : State) (va : Nat) (f : Book → Book) : (s.modBook va f).start = s.start := by
  unfold State.modBook State.modCtx
  split <;> rfl
@[simp] theorem State.modBook_minVersion (s : State) (va : Nat) (f : Book → Book) : (s.modBook va f).minVersion = s.minVersion := by
  unfold State.modBook State.modCtx
  split <;> rfl
@[simp] theorem State.modBook_fwDigest (s : State) (va : Nat) (f : Book → Book) : (s.modBook va f).fwDigest = s.fwDigest := by
  unfold State.modBook State.modCtx
  split <;> rfl
@[simp] theorem State.modBook_fwVersion (s : State) (va : Nat) (f : Book → Book) : (s.modBook va f).fwVersion = s.fwVersion := by
  unfold State.modBook State.modCtx
  split <;> rfl
@[simp] theorem State.modBook_moved (s : State) (va : Nat) (f : Book → Book) : (s.modBook va f).moved = s.moved := by
  unfold State.modBook State.modCtx
  split <;> rfl
@[simp] theorem State.modBook_skipped (s : State) (va : Nat) (f : Book → Book) : (s.modBook va f).skipped = s.skipped := by
  unfold State.modBook State.modCtx
  split <;> rfl
@[simp] theorem State.modBook_passedOver (s : State) (va : Nat) (f : Book → Book) : (s.modBook va f).passedOver = s.passedOver := by
  unfold State.modBook State.modCtx
  split <;> rfl
@[simp] theorem State.modBook_abroad (s : State) (va : Nat) (f : Book → Book) : (s.modBook va f).abroad = s.abroad := by
  unfold State.modBook State.modCtx
  split <;> rfl
@[simp] theorem State.modBook_homing (s : State) (va : Nat) (f : Book → Book) : (s.modBook va f).homing = s.homing := by
  unfold State.modBook State.modCtx
  split <;> rfl
@[simp] theorem State.modBook_mapped (s : State) (va : Nat) (f : Book → Book) : (s.modBook va f).mapped = s.mapped := by
  unfold State.modBook State.modCtx
  split <;> rfl
@[simp] theorem State.modBook_asked (s : State) (va : Nat) (f : Book → Book) : (s.modBook va f).asked = s.asked := by
  unfold State.modBook State.modCtx
  split <;> rfl
@[simp] theorem State.modBook_starting (s : State) (va : Nat) (f : Book → Book) : (s.modBook va f).starting = s.starting := by
  unfold State.modBook State.modCtx
  split <;> rfl
@[simp] theorem State.modBook_imageDigest (s : State) (va : Nat) (f : Book → Book) : (s.modBook va f).imageDigest = s.imageDigest := by
  unfold State.modBook State.modCtx
  split <;> rfl
@[simp] theorem State.modBook_imageVersion (s : State) (va : Nat) (f : Book → Book) : (s.modBook va f).imageVersion = s.imageVersion := by
  unfold State.modBook State.modCtx
  split <;> rfl
@[simp] theorem State.modBook_spaceDue (s : State) (va : Nat) (f : Book → Book) : (s.modBook va f).spaceDue = s.spaceDue := by
  unfold State.modBook State.modCtx
  split <;> rfl
@[simp] theorem State.modBook_stamp (s : State) (va : Nat) (f : Book → Book) : (s.modBook va f).stamp = s.stamp := by
  unfold State.modBook State.modCtx
  split <;> rfl
@[simp] theorem State.modBook_agenda (s : State) (va : Nat) (f : Book → Book) : (s.modBook va f).agenda = s.agenda := by
  unfold State.modBook State.modCtx
  split <;> rfl
@[simp] theorem State.modBook_focus (s : State) (va : Nat) (f : Book → Book) : (s.modBook va f).focus = s.focus := by
  unfold State.modBook State.modCtx
  split <;> rfl
@[simp] theorem State.modBook_wireTurn (s : State) (va : Nat) (f : Book → Book) : (s.modBook va f).wireTurn = s.wireTurn := by
  unfold State.modBook State.modCtx
  split <;> rfl
@[simp] theorem State.modBook_turnUnit (s : State) (va : Nat) (f : Book → Book) : (s.modBook va f).turnUnit = s.turnUnit := by
  unfold State.modBook State.modCtx
  split <;> rfl
@[simp] theorem State.modBook_turnSlot (s : State) (va : Nat) (f : Book → Book) : (s.modBook va f).turnSlot = s.turnSlot := by
  unfold State.modBook State.modCtx
  split <;> rfl
@[simp] theorem State.modBook_fetched (s : State) (va : Nat) (f : Book → Book) : (s.modBook va f).fetched = s.fetched := by
  unfold State.modBook State.modCtx
  split <;> rfl

/-! ### issued -/

@[simp] theorem State.issued_records (s : State) (e : Env) : (s.issued e).records = s.records := s.modBook_records e.va _
@[simp] theorem State.issued_units (s : State) (e : Env) : (s.issued e).units = s.units := s.modBook_units e.va _
@[simp] theorem State.issued_clusters (s : State) (e : Env) : (s.issued e).clusters = s.clusters := s.modBook_clusters e.va _
@[simp] theorem State.issued_hstacks (s : State) (e : Env) : (s.issued e).hstacks = s.hstacks := s.modBook_hstacks e.va _
@[simp] theorem State.issued_corr (s : State) (e : Env) : (s.issued e).corr = s.corr := s.modBook_corr e.va _
@[simp] theorem State.issued_tenants (s : State) (e : Env) : (s.issued e).tenants = s.tenants := s.modBook_tenants e.va _
@[simp] theorem State.issued_qwt (s : State) (e : Env) : (s.issued e).qwt = s.qwt := s.modBook_qwt e.va _
@[simp] theorem State.issued_mem (s : State) (e : Env) : (s.issued e).mem = s.mem := s.modBook_mem e.va _
@[simp] theorem State.issued_feEmpty (s : State) (e : Env) : (s.issued e).feEmpty = s.feEmpty := s.modBook_feEmpty e.va _
@[simp] theorem State.issued_blockTag (s : State) (e : Env) : (s.issued e).blockTag = s.blockTag := s.modBook_blockTag e.va _
@[simp] theorem State.issued_damage (s : State) (e : Env) : (s.issued e).damage = s.damage := s.modBook_damage e.va _
@[simp] theorem State.issued_quarantine (s : State) (e : Env) : (s.issued e).quarantine = s.quarantine := s.modBook_quarantine e.va _
@[simp] theorem State.issued_pageRecs (s : State) (e : Env) : (s.issued e).pageRecs = s.pageRecs := s.modBook_pageRecs e.va _
@[simp] theorem State.issued_keys (s : State) (e : Env) : (s.issued e).keys = s.keys := s.modBook_keys e.va _
@[simp] theorem State.issued_keyStore (s : State) (e : Env) : (s.issued e).keyStore = s.keyStore := s.modBook_keyStore e.va _
@[simp] theorem State.issued_scratch (s : State) (e : Env) : (s.issued e).scratch = s.scratch := s.modBook_scratch e.va _
@[simp] theorem State.issued_scratchUsed (s : State) (e : Env) : (s.issued e).scratchUsed = s.scratchUsed := s.modBook_scratchUsed e.va _
@[simp] theorem State.issued_ringLists (s : State) (e : Env) : (s.issued e).ringLists = s.ringLists := s.modBook_ringLists e.va _
@[simp] theorem State.issued_deferred (s : State) (e : Env) : (s.issued e).deferred = s.deferred := s.modBook_deferred e.va _
@[simp] theorem State.issued_armed (s : State) (e : Env) : (s.issued e).armed = s.armed := s.modBook_armed e.va _
@[simp] theorem State.issued_pagesUnder (s : State) (e : Env) : (s.issued e).pagesUnder = s.pagesUnder := s.modBook_pagesUnder e.va _
@[simp] theorem State.issued_wire (s : State) (e : Env) : (s.issued e).wire = s.wire := s.modBook_wire e.va _
@[simp] theorem State.issued_nextId (s : State) (e : Env) : (s.issued e).nextId = s.nextId := s.modBook_nextId e.va _
@[simp] theorem State.issued_cmds (s : State) (e : Env) : (s.issued e).cmds = s.cmds := s.modBook_cmds e.va _
@[simp] theorem State.issued_tileOps (s : State) (e : Env) : (s.issued e).tileOps = s.tileOps := s.modBook_tileOps e.va _
@[simp] theorem State.issued_groups (s : State) (e : Env) : (s.issued e).groups = s.groups := s.modBook_groups e.va _
@[simp] theorem State.issued_hostOut (s : State) (e : Env) : (s.issued e).hostOut = s.hostOut := s.modBook_hostOut e.va _
@[simp] theorem State.issued_kept (s : State) (e : Env) : (s.issued e).kept = s.kept := s.modBook_kept e.va _
@[simp] theorem State.issued_peerOut (s : State) (e : Env) : (s.issued e).peerOut = s.peerOut := s.modBook_peerOut e.va _
@[simp] theorem State.issued_linkUp (s : State) (e : Env) : (s.issued e).linkUp = s.linkUp := s.modBook_linkUp e.va _
@[simp] theorem State.issued_corrected (s : State) (e : Env) : (s.issued e).corrected = s.corrected := s.modBook_corrected e.va _
@[simp] theorem State.issued_faulted (s : State) (e : Env) : (s.issued e).faulted = s.faulted := s.modBook_faulted e.va _
@[simp] theorem State.issued_device (s : State) (e : Env) : (s.issued e).device = s.device := s.modBook_device e.va _
@[simp] theorem State.issued_deviceSet (s : State) (e : Env) : (s.issued e).deviceSet = s.deviceSet := s.modBook_deviceSet e.va _
@[simp] theorem State.issued_start (s : State) (e : Env) : (s.issued e).start = s.start := s.modBook_start e.va _
@[simp] theorem State.issued_minVersion (s : State) (e : Env) : (s.issued e).minVersion = s.minVersion := s.modBook_minVersion e.va _
@[simp] theorem State.issued_fwDigest (s : State) (e : Env) : (s.issued e).fwDigest = s.fwDigest := s.modBook_fwDigest e.va _
@[simp] theorem State.issued_fwVersion (s : State) (e : Env) : (s.issued e).fwVersion = s.fwVersion := s.modBook_fwVersion e.va _
@[simp] theorem State.issued_moved (s : State) (e : Env) : (s.issued e).moved = s.moved := s.modBook_moved e.va _
@[simp] theorem State.issued_skipped (s : State) (e : Env) : (s.issued e).skipped = s.skipped := s.modBook_skipped e.va _
@[simp] theorem State.issued_passedOver (s : State) (e : Env) : (s.issued e).passedOver = s.passedOver := s.modBook_passedOver e.va _
@[simp] theorem State.issued_abroad (s : State) (e : Env) : (s.issued e).abroad = s.abroad := s.modBook_abroad e.va _
@[simp] theorem State.issued_homing (s : State) (e : Env) : (s.issued e).homing = s.homing := s.modBook_homing e.va _
@[simp] theorem State.issued_mapped (s : State) (e : Env) : (s.issued e).mapped = s.mapped := s.modBook_mapped e.va _
@[simp] theorem State.issued_asked (s : State) (e : Env) : (s.issued e).asked = s.asked := s.modBook_asked e.va _
@[simp] theorem State.issued_starting (s : State) (e : Env) : (s.issued e).starting = s.starting := s.modBook_starting e.va _
@[simp] theorem State.issued_imageDigest (s : State) (e : Env) : (s.issued e).imageDigest = s.imageDigest := s.modBook_imageDigest e.va _
@[simp] theorem State.issued_imageVersion (s : State) (e : Env) : (s.issued e).imageVersion = s.imageVersion := s.modBook_imageVersion e.va _
@[simp] theorem State.issued_spaceDue (s : State) (e : Env) : (s.issued e).spaceDue = s.spaceDue := s.modBook_spaceDue e.va _
@[simp] theorem State.issued_stamp (s : State) (e : Env) : (s.issued e).stamp = s.stamp := s.modBook_stamp e.va _
@[simp] theorem State.issued_agenda (s : State) (e : Env) : (s.issued e).agenda = s.agenda := s.modBook_agenda e.va _
@[simp] theorem State.issued_focus (s : State) (e : Env) : (s.issued e).focus = s.focus := s.modBook_focus e.va _
@[simp] theorem State.issued_wireTurn (s : State) (e : Env) : (s.issued e).wireTurn = s.wireTurn := s.modBook_wireTurn e.va _
@[simp] theorem State.issued_turnUnit (s : State) (e : Env) : (s.issued e).turnUnit = s.turnUnit := s.modBook_turnUnit e.va _
@[simp] theorem State.issued_turnSlot (s : State) (e : Env) : (s.issued e).turnSlot = s.turnSlot := s.modBook_turnSlot e.va _
@[simp] theorem State.issued_fetched (s : State) (e : Env) : (s.issued e).fetched = s.fetched := s.modBook_fetched e.va _

/-! ## Lines -/

/-- Lines' fields under the updates of registers, predicates and the program counter. -/
@[simp] theorem Line.advance_pc (l : Line) : l.advance.pc = l.pc + 4 := rfl
@[simp] theorem Line.advance_g (l : Line) : l.advance.g = l.g := rfl
@[simp] theorem Line.advance_pred (l : Line) : l.advance.pred = l.pred := rfl
@[simp] theorem Line.advance_flags (l : Line) : l.advance.flags = l.flags := rfl
@[simp] theorem Line.setReg_pc (l : Line) (r : Reg) (v : W64) : (l.setReg r v).pc = l.pc := rfl
@[simp] theorem Line.setReg_pred (l : Line) (r : Reg) (v : W64) : (l.setReg r v).pred = l.pred := rfl
@[simp] theorem Line.setReg_flags (l : Line) (r : Reg) (v : W64) : (l.setReg r v).flags = l.flags := rfl
@[simp] theorem Line.setReg_pend (l : Line) (r : Reg) (v : W64) : (l.setReg r v).pend = l.pend := rfl
@[simp] theorem Line.reg_advance (l : Line) (r : Reg) : l.advance.reg r = l.reg r := rfl

/-- The register written reads back the value. -/
@[simp] theorem Line.reg_setReg_same (l : Line) (r : Reg) (v : W64) : (l.setReg r v).reg r = v := by
  simp [Line.setReg, Line.reg]

/-- Another register is unchanged. -/
theorem Line.reg_setReg_other (l : Line) (r q : Reg) (v : W64) (h : q ≠ r) : (l.setReg r v).reg q = l.reg q := by
  simp only [Line.setReg, Line.reg]
  rw [Vector.getElem_set_ne]
  exact fun e => h (BitVec.eq_of_toNat_eq e.symm)

/-! A message to another device. -/

@[simp] theorem State.tell_lines (s : State) (dev : Nat) (ws : List W64) : (s.tell dev ws).lines = s.lines := rfl
@[simp] theorem State.tell_records (s : State) (dev : Nat) (ws : List W64) : (s.tell dev ws).records = s.records := rfl
@[simp] theorem State.tell_units (s : State) (dev : Nat) (ws : List W64) : (s.tell dev ws).units = s.units := rfl
@[simp] theorem State.tell_clusters (s : State) (dev : Nat) (ws : List W64) : (s.tell dev ws).clusters = s.clusters := rfl
@[simp] theorem State.tell_hstacks (s : State) (dev : Nat) (ws : List W64) : (s.tell dev ws).hstacks = s.hstacks := rfl
@[simp] theorem State.tell_corr (s : State) (dev : Nat) (ws : List W64) : (s.tell dev ws).corr = s.corr := rfl
@[simp] theorem State.tell_tenants (s : State) (dev : Nat) (ws : List W64) : (s.tell dev ws).tenants = s.tenants := rfl
@[simp] theorem State.tell_qwt (s : State) (dev : Nat) (ws : List W64) : (s.tell dev ws).qwt = s.qwt := rfl
@[simp] theorem State.tell_mem (s : State) (dev : Nat) (ws : List W64) : (s.tell dev ws).mem = s.mem := rfl
@[simp] theorem State.tell_feEmpty (s : State) (dev : Nat) (ws : List W64) : (s.tell dev ws).feEmpty = s.feEmpty := rfl
@[simp] theorem State.tell_blockTag (s : State) (dev : Nat) (ws : List W64) : (s.tell dev ws).blockTag = s.blockTag := rfl
@[simp] theorem State.tell_damage (s : State) (dev : Nat) (ws : List W64) : (s.tell dev ws).damage = s.damage := rfl
@[simp] theorem State.tell_quarantine (s : State) (dev : Nat) (ws : List W64) : (s.tell dev ws).quarantine = s.quarantine := rfl
@[simp] theorem State.tell_pageRecs (s : State) (dev : Nat) (ws : List W64) : (s.tell dev ws).pageRecs = s.pageRecs := rfl
@[simp] theorem State.tell_homing (s : State) (dev : Nat) (ws : List W64) : (s.tell dev ws).homing = s.homing := rfl
@[simp] theorem State.tell_mapped (s : State) (dev : Nat) (ws : List W64) : (s.tell dev ws).mapped = s.mapped := rfl
@[simp] theorem State.tell_keys (s : State) (dev : Nat) (ws : List W64) : (s.tell dev ws).keys = s.keys := rfl
@[simp] theorem State.tell_keyStore (s : State) (dev : Nat) (ws : List W64) : (s.tell dev ws).keyStore = s.keyStore := rfl
@[simp] theorem State.tell_scratch (s : State) (dev : Nat) (ws : List W64) : (s.tell dev ws).scratch = s.scratch := rfl
@[simp] theorem State.tell_scratchUsed (s : State) (dev : Nat) (ws : List W64) : (s.tell dev ws).scratchUsed = s.scratchUsed := rfl
@[simp] theorem State.tell_spaceDue (s : State) (dev : Nat) (ws : List W64) : (s.tell dev ws).spaceDue = s.spaceDue := rfl
@[simp] theorem State.tell_ringLists (s : State) (dev : Nat) (ws : List W64) : (s.tell dev ws).ringLists = s.ringLists := rfl
@[simp] theorem State.tell_deferred (s : State) (dev : Nat) (ws : List W64) : (s.tell dev ws).deferred = s.deferred := rfl
@[simp] theorem State.tell_armed (s : State) (dev : Nat) (ws : List W64) : (s.tell dev ws).armed = s.armed := rfl
@[simp] theorem State.tell_pagesUnder (s : State) (dev : Nat) (ws : List W64) : (s.tell dev ws).pagesUnder = s.pagesUnder := rfl
@[simp] theorem State.tell_wire (s : State) (dev : Nat) (ws : List W64) : (s.tell dev ws).wire = s.wire := rfl
@[simp] theorem State.tell_nextId (s : State) (dev : Nat) (ws : List W64) : (s.tell dev ws).nextId = s.nextId := rfl
@[simp] theorem State.tell_cmds (s : State) (dev : Nat) (ws : List W64) : (s.tell dev ws).cmds = s.cmds := rfl
@[simp] theorem State.tell_tileOps (s : State) (dev : Nat) (ws : List W64) : (s.tell dev ws).tileOps = s.tileOps := rfl
@[simp] theorem State.tell_groups (s : State) (dev : Nat) (ws : List W64) : (s.tell dev ws).groups = s.groups := rfl
@[simp] theorem State.tell_hostOut (s : State) (dev : Nat) (ws : List W64) : (s.tell dev ws).hostOut = s.hostOut := rfl
@[simp] theorem State.tell_kept (s : State) (dev : Nat) (ws : List W64) : (s.tell dev ws).kept = s.kept := rfl
@[simp] theorem State.tell_linkUp (s : State) (dev : Nat) (ws : List W64) : (s.tell dev ws).linkUp = s.linkUp := rfl
@[simp] theorem State.tell_corrected (s : State) (dev : Nat) (ws : List W64) : (s.tell dev ws).corrected = s.corrected := rfl
@[simp] theorem State.tell_faulted (s : State) (dev : Nat) (ws : List W64) : (s.tell dev ws).faulted = s.faulted := rfl
@[simp] theorem State.tell_device (s : State) (dev : Nat) (ws : List W64) : (s.tell dev ws).device = s.device := rfl
@[simp] theorem State.tell_deviceSet (s : State) (dev : Nat) (ws : List W64) : (s.tell dev ws).deviceSet = s.deviceSet := rfl
@[simp] theorem State.tell_start (s : State) (dev : Nat) (ws : List W64) : (s.tell dev ws).start = s.start := rfl
@[simp] theorem State.tell_starting (s : State) (dev : Nat) (ws : List W64) : (s.tell dev ws).starting = s.starting := rfl
@[simp] theorem State.tell_minVersion (s : State) (dev : Nat) (ws : List W64) : (s.tell dev ws).minVersion = s.minVersion := rfl
@[simp] theorem State.tell_fwDigest (s : State) (dev : Nat) (ws : List W64) : (s.tell dev ws).fwDigest = s.fwDigest := rfl
@[simp] theorem State.tell_fwVersion (s : State) (dev : Nat) (ws : List W64) : (s.tell dev ws).fwVersion = s.fwVersion := rfl
@[simp] theorem State.tell_imageDigest (s : State) (dev : Nat) (ws : List W64) : (s.tell dev ws).imageDigest = s.imageDigest := rfl
@[simp] theorem State.tell_imageVersion (s : State) (dev : Nat) (ws : List W64) : (s.tell dev ws).imageVersion = s.imageVersion := rfl
@[simp] theorem State.tell_moved (s : State) (dev : Nat) (ws : List W64) : (s.tell dev ws).moved = s.moved := rfl
@[simp] theorem State.tell_skipped (s : State) (dev : Nat) (ws : List W64) : (s.tell dev ws).skipped = s.skipped := rfl
@[simp] theorem State.tell_passedOver (s : State) (dev : Nat) (ws : List W64) : (s.tell dev ws).passedOver = s.passedOver := rfl
@[simp] theorem State.tell_abroad (s : State) (dev : Nat) (ws : List W64) : (s.tell dev ws).abroad = s.abroad := rfl
@[simp] theorem State.tell_asked (s : State) (dev : Nat) (ws : List W64) : (s.tell dev ws).asked = s.asked := rfl
@[simp] theorem State.tell_stamp (s : State) (dev : Nat) (ws : List W64) : (s.tell dev ws).stamp = s.stamp := rfl
@[simp] theorem State.tell_agenda (s : State) (dev : Nat) (ws : List W64) : (s.tell dev ws).agenda = s.agenda := rfl
@[simp] theorem State.tell_focus (s : State) (dev : Nat) (ws : List W64) : (s.tell dev ws).focus = s.focus := rfl
@[simp] theorem State.tell_wireTurn (s : State) (dev : Nat) (ws : List W64) : (s.tell dev ws).wireTurn = s.wireTurn := rfl
@[simp] theorem State.tell_turnUnit (s : State) (dev : Nat) (ws : List W64) : (s.tell dev ws).turnUnit = s.turnUnit := rfl
@[simp] theorem State.tell_turnSlot (s : State) (dev : Nat) (ws : List W64) : (s.tell dev ws).turnSlot = s.turnSlot := rfl
@[simp] theorem State.tell_fetched (s : State) (dev : Nat) (ws : List W64) : (s.tell dev ws).fetched = s.fetched := rfl
@[simp] theorem State.tell_peerOut (s : State) (dev : Nat) (ws : List W64) :
    (s.tell dev ws).peerOut = s.peerOut ++ [(dev, ws)] := rfl

/-! A message under way sent on to the device that performs it. -/

@[simp] theorem State.ask_lines (s : State) (id dev : Nat) (ws : List W64) : (s.ask id dev ws).lines = s.lines := rfl
@[simp] theorem State.ask_records (s : State) (id dev : Nat) (ws : List W64) : (s.ask id dev ws).records = s.records := rfl
@[simp] theorem State.ask_units (s : State) (id dev : Nat) (ws : List W64) : (s.ask id dev ws).units = s.units := rfl
@[simp] theorem State.ask_clusters (s : State) (id dev : Nat) (ws : List W64) : (s.ask id dev ws).clusters = s.clusters := rfl
@[simp] theorem State.ask_hstacks (s : State) (id dev : Nat) (ws : List W64) : (s.ask id dev ws).hstacks = s.hstacks := rfl
@[simp] theorem State.ask_corr (s : State) (id dev : Nat) (ws : List W64) : (s.ask id dev ws).corr = s.corr := rfl
@[simp] theorem State.ask_tenants (s : State) (id dev : Nat) (ws : List W64) : (s.ask id dev ws).tenants = s.tenants := rfl
@[simp] theorem State.ask_qwt (s : State) (id dev : Nat) (ws : List W64) : (s.ask id dev ws).qwt = s.qwt := rfl
@[simp] theorem State.ask_mem (s : State) (id dev : Nat) (ws : List W64) : (s.ask id dev ws).mem = s.mem := rfl
@[simp] theorem State.ask_feEmpty (s : State) (id dev : Nat) (ws : List W64) : (s.ask id dev ws).feEmpty = s.feEmpty := rfl
@[simp] theorem State.ask_blockTag (s : State) (id dev : Nat) (ws : List W64) : (s.ask id dev ws).blockTag = s.blockTag := rfl
@[simp] theorem State.ask_damage (s : State) (id dev : Nat) (ws : List W64) : (s.ask id dev ws).damage = s.damage := rfl
@[simp] theorem State.ask_quarantine (s : State) (id dev : Nat) (ws : List W64) : (s.ask id dev ws).quarantine = s.quarantine := rfl
@[simp] theorem State.ask_pageRecs (s : State) (id dev : Nat) (ws : List W64) : (s.ask id dev ws).pageRecs = s.pageRecs := rfl
@[simp] theorem State.ask_homing (s : State) (id dev : Nat) (ws : List W64) : (s.ask id dev ws).homing = s.homing := rfl
@[simp] theorem State.ask_mapped (s : State) (id dev : Nat) (ws : List W64) : (s.ask id dev ws).mapped = s.mapped := rfl
@[simp] theorem State.ask_keys (s : State) (id dev : Nat) (ws : List W64) : (s.ask id dev ws).keys = s.keys := rfl
@[simp] theorem State.ask_keyStore (s : State) (id dev : Nat) (ws : List W64) : (s.ask id dev ws).keyStore = s.keyStore := rfl
@[simp] theorem State.ask_scratch (s : State) (id dev : Nat) (ws : List W64) : (s.ask id dev ws).scratch = s.scratch := rfl
@[simp] theorem State.ask_scratchUsed (s : State) (id dev : Nat) (ws : List W64) : (s.ask id dev ws).scratchUsed = s.scratchUsed := rfl
@[simp] theorem State.ask_spaceDue (s : State) (id dev : Nat) (ws : List W64) : (s.ask id dev ws).spaceDue = s.spaceDue := rfl
@[simp] theorem State.ask_ringLists (s : State) (id dev : Nat) (ws : List W64) : (s.ask id dev ws).ringLists = s.ringLists := rfl
@[simp] theorem State.ask_deferred (s : State) (id dev : Nat) (ws : List W64) : (s.ask id dev ws).deferred = s.deferred := rfl
@[simp] theorem State.ask_armed (s : State) (id dev : Nat) (ws : List W64) : (s.ask id dev ws).armed = s.armed := rfl
@[simp] theorem State.ask_pagesUnder (s : State) (id dev : Nat) (ws : List W64) : (s.ask id dev ws).pagesUnder = s.pagesUnder := rfl
@[simp] theorem State.ask_wire (s : State) (id dev : Nat) (ws : List W64) : (s.ask id dev ws).wire = s.wire := rfl
@[simp] theorem State.ask_nextId (s : State) (id dev : Nat) (ws : List W64) : (s.ask id dev ws).nextId = s.nextId := rfl
@[simp] theorem State.ask_cmds (s : State) (id dev : Nat) (ws : List W64) : (s.ask id dev ws).cmds = s.cmds := rfl
@[simp] theorem State.ask_tileOps (s : State) (id dev : Nat) (ws : List W64) : (s.ask id dev ws).tileOps = s.tileOps := rfl
@[simp] theorem State.ask_groups (s : State) (id dev : Nat) (ws : List W64) : (s.ask id dev ws).groups = s.groups := rfl
@[simp] theorem State.ask_hostOut (s : State) (id dev : Nat) (ws : List W64) : (s.ask id dev ws).hostOut = s.hostOut := rfl
@[simp] theorem State.ask_kept (s : State) (id dev : Nat) (ws : List W64) : (s.ask id dev ws).kept = s.kept := rfl
@[simp] theorem State.ask_linkUp (s : State) (id dev : Nat) (ws : List W64) : (s.ask id dev ws).linkUp = s.linkUp := rfl
@[simp] theorem State.ask_corrected (s : State) (id dev : Nat) (ws : List W64) : (s.ask id dev ws).corrected = s.corrected := rfl
@[simp] theorem State.ask_faulted (s : State) (id dev : Nat) (ws : List W64) : (s.ask id dev ws).faulted = s.faulted := rfl
@[simp] theorem State.ask_device (s : State) (id dev : Nat) (ws : List W64) : (s.ask id dev ws).device = s.device := rfl
@[simp] theorem State.ask_deviceSet (s : State) (id dev : Nat) (ws : List W64) : (s.ask id dev ws).deviceSet = s.deviceSet := rfl
@[simp] theorem State.ask_start (s : State) (id dev : Nat) (ws : List W64) : (s.ask id dev ws).start = s.start := rfl
@[simp] theorem State.ask_starting (s : State) (id dev : Nat) (ws : List W64) : (s.ask id dev ws).starting = s.starting := rfl
@[simp] theorem State.ask_minVersion (s : State) (id dev : Nat) (ws : List W64) : (s.ask id dev ws).minVersion = s.minVersion := rfl
@[simp] theorem State.ask_fwDigest (s : State) (id dev : Nat) (ws : List W64) : (s.ask id dev ws).fwDigest = s.fwDigest := rfl
@[simp] theorem State.ask_fwVersion (s : State) (id dev : Nat) (ws : List W64) : (s.ask id dev ws).fwVersion = s.fwVersion := rfl
@[simp] theorem State.ask_imageDigest (s : State) (id dev : Nat) (ws : List W64) : (s.ask id dev ws).imageDigest = s.imageDigest := rfl
@[simp] theorem State.ask_imageVersion (s : State) (id dev : Nat) (ws : List W64) : (s.ask id dev ws).imageVersion = s.imageVersion := rfl
@[simp] theorem State.ask_moved (s : State) (id dev : Nat) (ws : List W64) : (s.ask id dev ws).moved = s.moved := rfl
@[simp] theorem State.ask_skipped (s : State) (id dev : Nat) (ws : List W64) : (s.ask id dev ws).skipped = s.skipped := rfl
@[simp] theorem State.ask_passedOver (s : State) (id dev : Nat) (ws : List W64) : (s.ask id dev ws).passedOver = s.passedOver := rfl
@[simp] theorem State.ask_abroad (s : State) (id dev : Nat) (ws : List W64) : (s.ask id dev ws).abroad = s.abroad := rfl
@[simp] theorem State.ask_stamp (s : State) (id dev : Nat) (ws : List W64) : (s.ask id dev ws).stamp = s.stamp := rfl
@[simp] theorem State.ask_agenda (s : State) (id dev : Nat) (ws : List W64) : (s.ask id dev ws).agenda = s.agenda := rfl
@[simp] theorem State.ask_focus (s : State) (id dev : Nat) (ws : List W64) : (s.ask id dev ws).focus = s.focus := rfl
@[simp] theorem State.ask_wireTurn (s : State) (id dev : Nat) (ws : List W64) : (s.ask id dev ws).wireTurn = s.wireTurn := rfl
@[simp] theorem State.ask_turnUnit (s : State) (id dev : Nat) (ws : List W64) : (s.ask id dev ws).turnUnit = s.turnUnit := rfl
@[simp] theorem State.ask_turnSlot (s : State) (id dev : Nat) (ws : List W64) : (s.ask id dev ws).turnSlot = s.turnSlot := rfl
@[simp] theorem State.ask_fetched (s : State) (id dev : Nat) (ws : List W64) : (s.ask id dev ws).fetched = s.fetched := rfl
@[simp] theorem State.ask_peerOut (s : State) (id dev : Nat) (ws : List W64) :
    (s.ask id dev ws).peerOut = s.peerOut ++ [(dev, ws ++ [askNumber id])] := rfl
@[simp] theorem State.ask_asked (s : State) (id dev : Nat) (ws : List W64) :
    (s.ask id dev ws).asked = s.asked ++ [id] := rfl

/-! The homing of a stretch of memory. -/

@[simp] theorem State.setHoming_lines (s : State) (h : Homing) : (s.setHoming h).lines = s.lines := rfl
@[simp] theorem State.setHoming_records (s : State) (h : Homing) : (s.setHoming h).records = s.records := rfl
@[simp] theorem State.setHoming_units (s : State) (h : Homing) : (s.setHoming h).units = s.units := rfl
@[simp] theorem State.setHoming_clusters (s : State) (h : Homing) : (s.setHoming h).clusters = s.clusters := rfl
@[simp] theorem State.setHoming_hstacks (s : State) (h : Homing) : (s.setHoming h).hstacks = s.hstacks := rfl
@[simp] theorem State.setHoming_corr (s : State) (h : Homing) : (s.setHoming h).corr = s.corr := rfl
@[simp] theorem State.setHoming_tenants (s : State) (h : Homing) : (s.setHoming h).tenants = s.tenants := rfl
@[simp] theorem State.setHoming_qwt (s : State) (h : Homing) : (s.setHoming h).qwt = s.qwt := rfl
@[simp] theorem State.setHoming_mem (s : State) (h : Homing) : (s.setHoming h).mem = s.mem := rfl
@[simp] theorem State.setHoming_feEmpty (s : State) (h : Homing) : (s.setHoming h).feEmpty = s.feEmpty := rfl
@[simp] theorem State.setHoming_blockTag (s : State) (h : Homing) : (s.setHoming h).blockTag = s.blockTag := rfl
@[simp] theorem State.setHoming_damage (s : State) (h : Homing) : (s.setHoming h).damage = s.damage := rfl
@[simp] theorem State.setHoming_quarantine (s : State) (h : Homing) : (s.setHoming h).quarantine = s.quarantine := rfl
@[simp] theorem State.setHoming_pageRecs (s : State) (h : Homing) : (s.setHoming h).pageRecs = s.pageRecs := rfl
@[simp] theorem State.setHoming_mapped (s : State) (h : Homing) : (s.setHoming h).mapped = s.mapped := rfl
@[simp] theorem State.setHoming_keys (s : State) (h : Homing) : (s.setHoming h).keys = s.keys := rfl
@[simp] theorem State.setHoming_keyStore (s : State) (h : Homing) : (s.setHoming h).keyStore = s.keyStore := rfl
@[simp] theorem State.setHoming_scratch (s : State) (h : Homing) : (s.setHoming h).scratch = s.scratch := rfl
@[simp] theorem State.setHoming_scratchUsed (s : State) (h : Homing) : (s.setHoming h).scratchUsed = s.scratchUsed := rfl
@[simp] theorem State.setHoming_spaceDue (s : State) (h : Homing) : (s.setHoming h).spaceDue = s.spaceDue := rfl
@[simp] theorem State.setHoming_ringLists (s : State) (h : Homing) : (s.setHoming h).ringLists = s.ringLists := rfl
@[simp] theorem State.setHoming_deferred (s : State) (h : Homing) : (s.setHoming h).deferred = s.deferred := rfl
@[simp] theorem State.setHoming_armed (s : State) (h : Homing) : (s.setHoming h).armed = s.armed := rfl
@[simp] theorem State.setHoming_pagesUnder (s : State) (h : Homing) : (s.setHoming h).pagesUnder = s.pagesUnder := rfl
@[simp] theorem State.setHoming_wire (s : State) (h : Homing) : (s.setHoming h).wire = s.wire := rfl
@[simp] theorem State.setHoming_nextId (s : State) (h : Homing) : (s.setHoming h).nextId = s.nextId := rfl
@[simp] theorem State.setHoming_cmds (s : State) (h : Homing) : (s.setHoming h).cmds = s.cmds := rfl
@[simp] theorem State.setHoming_tileOps (s : State) (h : Homing) : (s.setHoming h).tileOps = s.tileOps := rfl
@[simp] theorem State.setHoming_groups (s : State) (h : Homing) : (s.setHoming h).groups = s.groups := rfl
@[simp] theorem State.setHoming_hostOut (s : State) (h : Homing) : (s.setHoming h).hostOut = s.hostOut := rfl
@[simp] theorem State.setHoming_kept (s : State) (h : Homing) : (s.setHoming h).kept = s.kept := rfl
@[simp] theorem State.setHoming_peerOut (s : State) (h : Homing) : (s.setHoming h).peerOut = s.peerOut := rfl
@[simp] theorem State.setHoming_linkUp (s : State) (h : Homing) : (s.setHoming h).linkUp = s.linkUp := rfl
@[simp] theorem State.setHoming_corrected (s : State) (h : Homing) : (s.setHoming h).corrected = s.corrected := rfl
@[simp] theorem State.setHoming_faulted (s : State) (h : Homing) : (s.setHoming h).faulted = s.faulted := rfl
@[simp] theorem State.setHoming_device (s : State) (h : Homing) : (s.setHoming h).device = s.device := rfl
@[simp] theorem State.setHoming_deviceSet (s : State) (h : Homing) : (s.setHoming h).deviceSet = s.deviceSet := rfl
@[simp] theorem State.setHoming_start (s : State) (h : Homing) : (s.setHoming h).start = s.start := rfl
@[simp] theorem State.setHoming_starting (s : State) (h : Homing) : (s.setHoming h).starting = s.starting := rfl
@[simp] theorem State.setHoming_minVersion (s : State) (h : Homing) : (s.setHoming h).minVersion = s.minVersion := rfl
@[simp] theorem State.setHoming_fwDigest (s : State) (h : Homing) : (s.setHoming h).fwDigest = s.fwDigest := rfl
@[simp] theorem State.setHoming_fwVersion (s : State) (h : Homing) : (s.setHoming h).fwVersion = s.fwVersion := rfl
@[simp] theorem State.setHoming_imageDigest (s : State) (h : Homing) : (s.setHoming h).imageDigest = s.imageDigest := rfl
@[simp] theorem State.setHoming_imageVersion (s : State) (h : Homing) : (s.setHoming h).imageVersion = s.imageVersion := rfl
@[simp] theorem State.setHoming_moved (s : State) (h : Homing) : (s.setHoming h).moved = s.moved := rfl
@[simp] theorem State.setHoming_skipped (s : State) (h : Homing) : (s.setHoming h).skipped = s.skipped := rfl
@[simp] theorem State.setHoming_passedOver (s : State) (h : Homing) : (s.setHoming h).passedOver = s.passedOver := rfl
@[simp] theorem State.setHoming_abroad (s : State) (h : Homing) : (s.setHoming h).abroad = s.abroad := rfl
@[simp] theorem State.setHoming_asked (s : State) (h : Homing) : (s.setHoming h).asked = s.asked := rfl
@[simp] theorem State.setHoming_stamp (s : State) (h : Homing) : (s.setHoming h).stamp = s.stamp := rfl
@[simp] theorem State.setHoming_agenda (s : State) (h : Homing) : (s.setHoming h).agenda = s.agenda := rfl
@[simp] theorem State.setHoming_focus (s : State) (h : Homing) : (s.setHoming h).focus = s.focus := rfl
@[simp] theorem State.setHoming_wireTurn (s : State) (h : Homing) : (s.setHoming h).wireTurn = s.wireTurn := rfl
@[simp] theorem State.setHoming_turnUnit (s : State) (h : Homing) : (s.setHoming h).turnUnit = s.turnUnit := rfl
@[simp] theorem State.setHoming_turnSlot (s : State) (h : Homing) : (s.setHoming h).turnSlot = s.turnSlot := rfl
@[simp] theorem State.setHoming_fetched (s : State) (h : Homing) : (s.setHoming h).fetched = s.fetched := rfl
@[simp] theorem State.setHoming_homing (s : State) (h : Homing) :
    (s.setHoming h).homing = h :: s.homing.filter (fun x => !(decide (h.pa ≤ x.pa) && decide (x.pa + x.size ≤ h.pa + h.size))) := rfl

end Sys2Proof.Machine
end

