-- ==== Sys2Proof/Laws/Memory.lean ====
section
/-! SUPPORT. Finite maps and memory: reading after writing, and that every memory operation keeps the canonical form. -/

namespace Sys2Proof.Machine

/-! ## Finite maps -/

/-- The key written holds the value. -/
@[simp] theorem Assoc.get_set_same {α : Type} (m : List (Nat × α)) (a : Nat) (x : α) :
    Assoc.get (Assoc.set m a x) a = some x := by
  induction m with
  | nil => simp [Assoc.set, Assoc.get]
  | cons p m ih =>
    obtain ⟨k, v⟩ := p
    unfold Assoc.set
    split
    · simp [Assoc.get]
    · split
      · simp [Assoc.get]
      · simp [Assoc.get, *]

/-- Another key is unchanged. -/
theorem Assoc.get_set_other {α : Type} (m : List (Nat × α)) (a b : Nat) (x : α) (h : b ≠ a) :
    Assoc.get (Assoc.set m a x) b = Assoc.get m b := by
  induction m with
  | nil => simp [Assoc.set, Assoc.get, h]
  | cons p m ih =>
    obtain ⟨k, v⟩ := p
    unfold Assoc.set
    split
    · subst k; simp [Assoc.get, h]
    · split
      · simp [Assoc.get, h]
      · simp [Assoc.get, ih]

/-- A key erased is not listed. -/
@[simp] theorem Assoc.get_erase_same {α : Type} (m : List (Nat × α)) (a : Nat) :
    Assoc.get (Assoc.erase m a) a = none := by
  induction m with
  | nil => rfl
  | cons p m ih =>
    obtain ⟨k, v⟩ := p
    unfold Assoc.erase
    split
    · exact ih
    · simp [Assoc.get, *]

/-- Erasing a key leaves another as it was. -/
theorem Assoc.get_erase_other {α : Type} (m : List (Nat × α)) (a b : Nat) (h : b ≠ a) :
    Assoc.get (Assoc.erase m a) b = Assoc.get m b := by
  induction m with
  | nil => rfl
  | cons p m ih =>
    obtain ⟨k, v⟩ := p
    unfold Assoc.erase
    split
    · subst k; simp [Assoc.get, h, ih]
    · simp [Assoc.get, ih]

/-- Every key of a map lies above a bound. -/
def Assoc.above {α : Type} (m : List (Nat × α)) (b : Nat) : Prop := ∀ p ∈ m, b < p.1

/-- A rising map: its first key lies below every later one, and the rest rises. -/
theorem Assoc.sorted_cons {α : Type} (k : Nat) (v : α) (m : List (Nat × α)) :
    Assoc.sorted ((k, v) :: m) = true ↔ Assoc.above m k ∧ Assoc.sorted m = true := by
  induction m generalizing k v with
  | nil => simp [Assoc.sorted, Assoc.above]
  | cons p m ih =>
    obtain ⟨k', v'⟩ := p
    have e : Assoc.sorted ((k, v) :: (k', v') :: m) = (decide (k < k') && Assoc.sorted ((k', v') :: m)) := rfl
    rw [e, Bool.and_eq_true, decide_eq_true_iff, ih]
    constructor
    · rintro ⟨h1, h2, h3⟩
      refine ⟨?_, h2, h3⟩
      intro q hq
      rcases List.mem_cons.mp hq with rfl | hq
      · exact h1
      · exact lt_trans h1 (h2 q hq)
    · rintro ⟨h1, h2, h3⟩
      exact ⟨h1 _ (List.mem_cons_self ..), h2, h3⟩

/-- What Assoc.set lists was listed before or is the new pair. -/
theorem Assoc.mem_set {α : Type} (m : List (Nat × α)) (a : Nat) (x : α) (p : Nat × α) (h : p ∈ Assoc.set m a x) :
    p = (a, x) ∨ p ∈ m := by
  induction m with
  | nil => simpa [Assoc.set] using h
  | cons q m ih =>
    obtain ⟨k, v⟩ := q
    unfold Assoc.set at h
    split at h
    · rcases List.mem_cons.mp h with h | h <;> simp [h]
    · split at h
      · rcases List.mem_cons.mp h with h | h
        · exact .inl h
        · exact .inr h
      · rcases List.mem_cons.mp h with h | h
        · simp [h]
        · rcases ih h with h | h <;> simp [h]

/-- What Assoc.erase lists was listed before. -/
theorem Assoc.mem_erase {α : Type} (m : List (Nat × α)) (a : Nat) (p : Nat × α) (h : p ∈ Assoc.erase m a) : p ∈ m := by
  induction m with
  | nil => exact h
  | cons q m ih =>
    obtain ⟨k, v⟩ := q
    unfold Assoc.erase at h
    split at h
    · exact List.mem_cons_of_mem _ (ih h)
    · rcases List.mem_cons.mp h with h | h
      · simp [h]
      · exact List.mem_cons_of_mem _ (ih h)

/-- Assoc.set keeps a map rising. -/
theorem Assoc.sorted_set {α : Type} (m : List (Nat × α)) (a : Nat) (x : α) (h : Assoc.sorted m = true) :
    Assoc.sorted (Assoc.set m a x) = true := by
  induction m with
  | nil => rfl
  | cons q m ih =>
    obtain ⟨k, v⟩ := q
    obtain ⟨h1, h2⟩ := (Assoc.sorted_cons k v m).mp h
    unfold Assoc.set
    split
    · subst k; exact (Assoc.sorted_cons _ _ _).mpr ⟨h1, h2⟩
    · split
      · refine (Assoc.sorted_cons _ _ _).mpr ⟨?_, h⟩
        intro p hp
        rcases List.mem_cons.mp hp with rfl | hp
        · assumption
        · exact lt_trans (by assumption) (h1 p hp)
      · refine (Assoc.sorted_cons _ _ _).mpr ⟨?_, ih h2⟩
        intro p hp
        rcases Assoc.mem_set m a x p hp with rfl | hp
        · simp only
          omega
        · exact h1 p hp

/-- Assoc.erase keeps a map rising. -/
theorem Assoc.sorted_erase {α : Type} (m : List (Nat × α)) (a : Nat) (h : Assoc.sorted m = true) :
    Assoc.sorted (Assoc.erase m a) = true := by
  induction m with
  | nil => rfl
  | cons q m ih =>
    obtain ⟨k, v⟩ := q
    obtain ⟨h1, h2⟩ := (Assoc.sorted_cons k v m).mp h
    unfold Assoc.erase
    split
    · exact ih h2
    · exact (Assoc.sorted_cons _ _ _).mpr ⟨fun p hp => h1 p (Assoc.mem_erase m a p hp), ih h2⟩

/-! ## The canonical form of memory -/

/-- The canonical form: rising addresses and no zero byte listed. -/
theorem Memory.wf_iff (m : List Host.Cell) :
    Memory.wf m = true ↔ Assoc.sorted m = true ∧ ∀ c ∈ m, c.2 ≠ 0 := by
  simp [Memory.wf, List.all_eq_true]

/-- Empty memory has the canonical form. -/
theorem Memory.wf_nil : Memory.wf [] = true := rfl

/-- A write of one byte keeps it. -/
theorem Memory.wf_write (m : List Host.Cell) (a : Nat) (b : Byte) (h : Memory.wf m = true) :
    Memory.wf (Memory.write m a b) = true := by
  rw [Memory.wf_iff] at h ⊢
  unfold Memory.write
  split
  · exact ⟨Assoc.sorted_erase m a h.1, fun c hc => h.2 c (Assoc.mem_erase m a c hc)⟩
  · refine ⟨Assoc.sorted_set m a b h.1, fun c hc => ?_⟩
    rcases Assoc.mem_set m a b c hc with rfl | hc
    · assumption
    · exact h.2 c hc

/-- A write of several bytes keeps it. -/
theorem Memory.wf_writeCells (m cs : List Host.Cell) (h : Memory.wf m = true) :
    Memory.wf (Memory.writeCells m cs) = true := by
  induction cs generalizing m with
  | nil => exact h
  | cons c cs ih => exact ih (Memory.write m c.1 c.2) (Memory.wf_write m c.1 c.2 h)

/-- Two rising maps, the first wholly below the second, make one. -/
theorem Assoc.sorted_append {α : Type} (l m : List (Nat × α)) (hl : Assoc.sorted l = true) (hm : Assoc.sorted m = true)
    (h : ∀ p ∈ l, ∀ q ∈ m, p.1 < q.1) : Assoc.sorted (l ++ m) = true := by
  induction l with
  | nil => exact hm
  | cons p l ih =>
    obtain ⟨k, v⟩ := p
    obtain ⟨h1, h2⟩ := (Assoc.sorted_cons k v l).mp hl
    refine (Assoc.sorted_cons _ _ _).mpr ⟨?_, ih h2 (fun p hp => h p (List.mem_cons_of_mem _ hp))⟩
    intro q hq
    rcases List.mem_append.mp hq with hq | hq
    · exact h1 q hq
    · exact h (k, v) (List.mem_cons_self ..) q hq

/-- A part of a rising map rises. -/
theorem Assoc.sorted_filter {α : Type} (f : Nat × α → Bool) (m : List (Nat × α)) (h : Assoc.sorted m = true) :
    Assoc.sorted (m.filter f) = true := by
  induction m with
  | nil => rfl
  | cons p m ih =>
    obtain ⟨k, v⟩ := p
    obtain ⟨h1, h2⟩ := (Assoc.sorted_cons k v m).mp h
    rw [List.filter_cons]
    split
    · exact (Assoc.sorted_cons _ _ _).mpr ⟨fun q hq => h1 q (List.mem_filter.mp hq).1, ih h2⟩
    · exact ih h2

/-- The nonzero cells of bytes lie where the bytes lie, and none is zero. -/
theorem nonzeroCells_mem (a : Nat) (bs : List Byte) (c : Host.Cell) (h : c ∈ nonzeroCells a bs) :
    a ≤ c.1 ∧ c.1 < a + bs.length ∧ c.2 ≠ 0 := by
  induction bs generalizing a with
  | nil => simp [nonzeroCells] at h
  | cons b bs ih =>
    unfold nonzeroCells at h
    split at h
    · have := ih (a + 1) h
      refine ⟨by omega, ?_, this.2.2⟩
      simp only [List.length_cons]
      omega
    · rcases List.mem_cons.mp h with rfl | h
      · exact ⟨le_refl _, by simp, by assumption⟩
      · have := ih (a + 1) h
        refine ⟨by omega, ?_, this.2.2⟩
        simp only [List.length_cons]
        omega

/-- The nonzero cells of bytes rise. -/
theorem nonzeroCells_sorted (a : Nat) (bs : List Byte) : Assoc.sorted (nonzeroCells a bs) = true := by
  induction bs generalizing a with
  | nil => rfl
  | cons b bs ih =>
    unfold nonzeroCells
    split
    · exact ih (a + 1)
    · refine (Assoc.sorted_cons _ _ _).mpr ⟨fun p hp => ?_, ih (a + 1)⟩
      have := nonzeroCells_mem (a + 1) bs p hp
      omega

/-- Bytes laid from an address keep the canonical form. -/
theorem Memory.wf_writeRange (m : List Host.Cell) (a : Nat) (bs : List Byte) (h : Memory.wf m = true) :
    Memory.wf (Memory.writeRange m a bs) = true := by
  rw [Memory.wf_iff] at h ⊢
  unfold Memory.writeRange
  refine ⟨?_, ?_⟩
  · refine Assoc.sorted_append _ _ (Assoc.sorted_append _ _ (Assoc.sorted_filter _ m h.1) (nonzeroCells_sorted a bs) ?_)
      (Assoc.sorted_filter _ m h.1) ?_
    · intro p hp q hq
      have h1 := (List.mem_filter.mp hp).2
      have h2 := nonzeroCells_mem a bs q hq
      simp only [decide_eq_true_eq] at h1
      omega
    · intro p hp q hq
      have h1 := (List.mem_filter.mp hq).2
      simp only [decide_eq_true_eq] at h1
      rcases List.mem_append.mp hp with hp | hp
      · have h2 := (List.mem_filter.mp hp).2
        simp only [decide_eq_true_eq] at h2
        omega
      · have h2 := nonzeroCells_mem a bs p hp
        omega
  · intro c hc
    rcases List.mem_append.mp hc with hc | hc
    · rcases List.mem_append.mp hc with hc | hc
      · exact h.2 c (List.mem_filter.mp hc).1
      · exact (nonzeroCells_mem a bs c hc).2.2
    · exact h.2 c (List.mem_filter.mp hc).1

/-! ## Reading after writing -/

/-- The byte written reads back. -/
@[simp] theorem Memory.read_write_same (m : List Host.Cell) (a : Nat) (b : Byte) :
    Memory.read (Memory.write m a b) a = b := by
  unfold Memory.read Memory.write
  split
  · simp [*]
  · simp

/-- Another byte is unchanged. -/
theorem Memory.read_write_other (m : List Host.Cell) (a x : Nat) (b : Byte) (h : x ≠ a) :
    Memory.read (Memory.write m a b) x = Memory.read m x := by
  unfold Memory.read Memory.write
  split
  · rw [Assoc.get_erase_other m a x h]
  · rw [Assoc.get_set_other m a x b h]

/-- Writing cells changes no byte outside them. -/
theorem Memory.read_writeCells_other (m cs : List Host.Cell) (x : Nat) (h : ∀ c ∈ cs, c.1 ≠ x) :
    Memory.read (Memory.writeCells m cs) x = Memory.read m x := by
  induction cs generalizing m with
  | nil => rfl
  | cons c cs ih =>
    have h1 := h c (List.mem_cons_self ..)
    have := ih (Memory.write m c.1 c.2) (fun d hd => h d (List.mem_cons_of_mem _ hd))
    rw [show Memory.writeCells m (c :: cs) = Memory.writeCells (Memory.write m c.1 c.2) cs from rfl, this,
      Memory.read_write_other m c.1 x c.2 (fun e => h1 e.symm)]

/-! ## Blocks -/

/-- A notice leaves memory as it stands. -/
theorem State.notice_mem (s : State) (k n : Nat) (ws : List W64) : (s.notice k n ws).mem = s.mem := by
  unfold State.notice State.sendHost
  split <;> rfl

/-- An entry of the quarantine table leaves memory as it stands. -/
theorem State.quarantineBlock_mem (s : State) (block kslot : Nat) (poison : Bool) :
    (s.quarantineBlock block kslot poison).mem = s.mem := by
  unfold State.quarantineBlock
  split
  · rfl
  · exact s.notice_mem _ _ _

/-- Bytes put below the slices keep the canonical form of memory. -/
theorem State.setBelow_wf (s : State) (cs : List Host.Cell) (h : Memory.wf s.mem = true) :
    Memory.wf (s.setBelow cs).mem = true := by
  unfold State.setBelow
  dsimp only
  split <;> exact Memory.wf_writeCells _ _ h

/-- A block put in DRAM keeps the canonical form of memory. -/
theorem State.setDram_wf (s : State) (block : Nat) (bs : List Byte) (h : Memory.wf s.mem = true) :
    Memory.wf (s.setDram block bs).mem = true := by
  unfold State.setDram
  dsimp only
  split
  · exact s.setBelow_wf _ h
  · split
    · exact s.setBelow_wf _ h
    · exact Memory.wf_writeRange _ _ _ h

/-- A block that is repaired keeps the canonical form of memory. -/
theorem State.repair_wf (s t : State) (block kslot : Nat) (h : Memory.wf s.mem = true) (hr : s.repair block kslot = some t) :
    Memory.wf t.mem = true := by
  unfold State.repair at hr
  split at hr
  · cases hr
  · dsimp only at hr
    split at hr
    · cases hr
      exact s.setDram_wf _ _ h
    · simp only [Option.map_eq_some_iff] at hr
      obtain ⟨c, _, rfl⟩ := hr
      exact s.setDram_wf _ _ h

/-- A read of DRAM keeps the canonical form of memory. -/
theorem State.verifyDram_wf (s : State) (block k : Nat) (h : Memory.wf s.mem = true) :
    Memory.wf (s.verifyDram block k).1.mem = true := by
  unfold State.verifyDram
  split
  · exact h
  · split
    · exact h
    · split
      · rename_i hr
        exact s.repair_wf _ _ _ h hr
      · rw [State.quarantineBlock_mem]
        exact h

/-- A check of a block keeps the canonical form of memory. -/
theorem State.verify_wf (s : State) (pa k : Nat) (h : Memory.wf s.mem = true) : Memory.wf (s.verify pa k).1.mem = true := by
  unfold State.verify
  split
  · exact h
  · split
    · exact h
    · exact s.verifyDram_wf _ _ h

/-- A block opened for a write keeps the canonical form of memory. -/
theorem State.openBlock_wf (s : State) (block k : Nat) (h : Memory.wf s.mem = true) :
    Memory.wf (s.openBlock block k).1.mem = true := by
  have hv := s.verifyDram_wf block k h
  unfold State.openBlock
  generalize s.verifyDram block k = r at hv ⊢
  obtain ⟨s1, c⟩ := r
  cases c with
  | some c => exact hv
  | none =>
    dsimp only
    split <;> exact hv

/-- Marking bytes dirty in the caches leaves memory as it stands. -/
theorem State.cacheDirty_mem (s : State) (line k : Nat) (as : List Nat) : (s.cacheDirty line k as).mem = s.mem := by
  unfold State.cacheDirty State.l2Dirty State.mscDirty
  split <;> split <;> rfl

/-- A store to a block keeps the canonical form of memory. -/
theorem State.storeBlock_wf (s : State) (k : Nat) (cs : List Host.Cell) (h : Memory.wf s.mem = true) :
    Memory.wf (s.storeBlock k cs).1.mem = true := by
  unfold State.storeBlock
  split
  · exact h
  · rename_i pa b m
    split
    · exact Memory.wf_writeCells _ _ h
    · split
      · split
        · exact h
        · dsimp only
          rw [State.cacheDirty_mem]
          exact Memory.wf_writeCells _ _ h
      · have ho := s.openBlock_wf (pa / 64) k h
        generalize s.openBlock (pa / 64) k = r at ho ⊢
        obtain ⟨s1, c⟩ := r
        cases c with
        | some c => exact ho
        | none => exact Memory.wf_writeCells _ _ ho

end Sys2Proof.Machine
end

