-- ==== Sys2Proof/Laws/Frames.lean ====
section
/-! SUPPORT. What the shared operations can change: one lemma for each, naming every field of State outside which the state is
as it was.  They compose, and the fields left out of a relation are read off it by rewriting with its lemma on fields. -/

namespace Sys2Proof.Machine

/-- t with the fields of UnitsOnly as s has them. -/
def withUnits (s t : State) : State :=
  { t with units := s.units, wire := s.wire, nextId := s.nextId }

/-- Units, and messages put under way: data L1, TLB order, slots, deques and write-backs. -/
def UnitsOnly (s t : State) : Prop := withUnits s t = s

/-- t with the fields of LinesOnly as s has them. -/
def withLines (s t : State) : State :=
  { t with lines := s.lines, stamp := s.stamp, wire := s.wire, nextId := s.nextId, hostOut := s.hostOut, kept := s.kept,
           peerOut := s.peerOut }

/-- Lines, ready stamps, messages put under way or forwarded to a peer, and notices: wake-ups and delivered traps. -/
def LinesOnly (s t : State) : Prop := withLines s t = s

/-- t with the fields of ChecksOnly as s has them. -/
def withChecks (s t : State) : State :=
  { t with quarantine := s.quarantine, damage := s.damage, corr := s.corr, hostOut := s.hostOut, kept := s.kept,
           mem := s.mem, feEmpty := s.feEmpty, blockTag := s.blockTag, units := s.units, hstacks := s.hstacks }

/-- What the check of a block, or a store to it, may change: the bytes, full/empty bits and tag of the block, what the L2 slices and the
memory-side caches keep of it, the quarantine, what it corrects and counts, and notices (R362, R364-R366).  A block that stands
intact it leaves alone (State.verify_intact). -/
def ChecksOnly (s t : State) : Prop := withChecks s t = s ∧ ∀ u, { t.unit u with l2 := (s.unit u).l2 } = s.unit u

/-- t with the fields of AllocatorOnly as s has them. -/
def withAllocator (s t : State) : State :=
  { t with quarantine := s.quarantine, damage := s.damage, corr := s.corr, hostOut := s.hostOut, kept := s.kept,
           mem := s.mem, feEmpty := s.feEmpty, blockTag := s.blockTag, units := s.units, hstacks := s.hstacks,
           clusters := s.clusters, lines := s.lines, records := s.records }

/-- What an allocator may change: free lines, their links and headers in memory, and records (R40, R41, R43). -/
def AllocatorOnly (s t : State) : Prop := withAllocator s t = s ∧ ∀ u, { t.unit u with l2 := (s.unit u).l2 } = s.unit u

/-! ## The relations compose -/

theorem UnitsOnly.eq {s t : State} (h : UnitsOnly s t) : withUnits s t = s := h
theorem UnitsOnly.refl (s : State) : UnitsOnly s s := rfl
theorem UnitsOnly.trans {s t u : State} (h : UnitsOnly s t) (k : UnitsOnly t u) : UnitsOnly s u :=
  (show withUnits s u = withUnits s (withUnits t u) from rfl).trans ((congrArg (withUnits s) k.eq).trans h.eq)

theorem LinesOnly.eq {s t : State} (h : LinesOnly s t) : withLines s t = s := h
theorem LinesOnly.refl (s : State) : LinesOnly s s := rfl
theorem LinesOnly.trans {s t u : State} (h : LinesOnly s t) (k : LinesOnly t u) : LinesOnly s u :=
  (show withLines s u = withLines s (withLines t u) from rfl).trans ((congrArg (withLines s) k.eq).trans h.eq)

/-- Units that differ in what their L2 slices hold, twice. -/
theorem slices_trans {x y z : Unit} (h : { y with l2 := x.l2 } = x) (k : { z with l2 := y.l2 } = y) : { z with l2 := x.l2 } = x := by
  have := congrArg (fun a : Unit => { a with l2 := x.l2 }) k
  exact this.trans h

theorem ChecksOnly.eq {s t : State} (h : ChecksOnly s t) : withChecks s t = s := h.1
theorem ChecksOnly.refl (s : State) : ChecksOnly s s := ⟨rfl, fun _ => rfl⟩
theorem ChecksOnly.trans {s t u : State} (h : ChecksOnly s t) (k : ChecksOnly t u) : ChecksOnly s u :=
  ⟨(show withChecks s u = withChecks s (withChecks t u) from rfl).trans ((congrArg (withChecks s) k.eq).trans h.eq),
    fun v => slices_trans (h.2 v) (k.2 v)⟩

theorem AllocatorOnly.eq {s t : State} (h : AllocatorOnly s t) : withAllocator s t = s := h.1
theorem AllocatorOnly.refl (s : State) : AllocatorOnly s s := ⟨rfl, fun _ => rfl⟩
theorem AllocatorOnly.trans {s t u : State} (h : AllocatorOnly s t) (k : AllocatorOnly t u) : AllocatorOnly s u :=
  ⟨(show withAllocator s u = withAllocator s (withAllocator t u) from rfl).trans ((congrArg (withAllocator s) k.eq).trans h.eq),
    fun v => slices_trans (h.2 v) (k.2 v)⟩

theorem ChecksOnly.allocator {s t : State} (h : ChecksOnly s t) : AllocatorOnly s t :=
  ⟨by have k := congrArg (fun x : State => { x with clusters := s.clusters, lines := s.lines, records := s.records }) h.eq; exact k, h.2⟩

/-- A relation that composes holds over a fold when it holds of every step of it. -/
theorem foldl_only {α : Type} {R : State → State → Prop} (refl : ∀ s, R s s) (trans : ∀ {s t u}, R s t → R t u → R s u)
    (f : State → α → State) (step : ∀ s a, R s (f s a)) (l : List α) (s : State) : R s (l.foldl f s) := by
  induction l generalizing s with
  | nil => exact refl s
  | cons a l ih => exact trans (step s a) (ih (f s a))

/-! ## Units -/

theorem State.modUnit_only (s : State) (u : Nat) (f : Unit → Unit) : UnitsOnly s (s.modUnit u f) := rfl
theorem State.post_unitsOnly (s : State) (m : Msg) : UnitsOnly s (s.post m) := rfl

theorem State.touchTlb_only (s : State) (u : Nat) (e : TlbEntry) : UnitsOnly s (s.touchTlb u e) := by
  unfold State.touchTlb
  split
  · rfl
  · split <;> rfl

theorem State.dropClean_only (s : State) (u pa n : Nat) : UnitsOnly s (s.dropClean u pa n) := by
  unfold State.dropClean
  dsimp only
  split <;> rfl

theorem State.invalidate_only (s : State) (u : Nat) : UnitsOnly s (s.invalidate u) := by
  unfold State.invalidate
  split <;> rfl

theorem State.releaseLines_only (s : State) (u : Nat) (ctx : Option Nat) (lines : List Nat) :
    UnitsOnly s (s.releaseLines u ctx lines) := by
  unfold State.releaseLines
  dsimp only
  split
  · rfl
  · refine (State.modUnit_only s u _).trans (foldl_only UnitsOnly.refl UnitsOnly.trans _ (fun t l => ?_) lines _)
    split <;> rfl

theorem State.release_only (s : State) (u : Nat) (ctx : Option Nat) : UnitsOnly s (s.release u ctx) :=
  s.releaseLines_only u ctx _

theorem State.giveUp_only (s : State) (u pa : Nat) : UnitsOnly s (s.giveUp u pa) :=
  (s.releaseLines_only u none _).trans (State.dropClean_only _ u _ 8)

theorem State.vacate_only (s : State) (va : Nat) : UnitsOnly s (s.vacate va) := by
  unfold State.vacate
  split
  · split
    · split <;> rfl
    · rfl
  · rfl

theorem State.endHoldings_only (s : State) (va : Nat) (but : Option Nat) : UnitsOnly s (s.endHoldings va but) := by
  refine foldl_only UnitsOnly.refl UnitsOnly.trans _ (fun t e => ?_) _ s
  split <;> rfl

/-! ## Lines -/

theorem State.modCtx_only (s : State) (va : Nat) (f : Ctx → Ctx) : LinesOnly s (s.modCtx va f) := by
  unfold State.modCtx
  split <;> rfl

theorem State.setSt_only (s : State) (va : Nat) (st : CtxState) (w : Wait) : LinesOnly s (s.setSt va st w) := by
  unfold State.setSt State.modCtx
  split <;> rfl

theorem State.post_linesOnly (s : State) (m : Msg) : LinesOnly s (s.post m) := rfl

theorem State.sendHost_linesOnly (s : State) (m : HostMsg) : LinesOnly s (s.sendHost m) := by
  unfold State.sendHost
  split <;> rfl

theorem State.payHalt_only (s : State) (va : Nat) : LinesOnly s (s.payHalt va) := by
  unfold State.payHalt
  split
  · rfl
  · split
    · refine LinesOnly.trans (t := s.modBook va (fun b => { b with haltDue := [] })) (State.modCtx_only s va _) ?_
      exact foldl_only LinesOnly.refl LinesOnly.trans _ (fun t d => State.post_linesOnly t _) _ _
    · rfl

theorem State.makeReady_only (s : State) (va : Nat) : LinesOnly s (s.makeReady va) := by
  unfold State.makeReady
  split
  · rfl
  · dsimp only
    split
    · exact (State.modCtx_only s va _).trans ((State.setSt_only _ va _ _).trans (State.payHalt_only _ va))
    · split
      · exact (State.modCtx_only s va _).trans (State.setSt_only _ va _ _)
      all_goals
        split
        · exact (State.modCtx_only s va _).trans (State.setSt_only _ va _ _)
        · exact (State.modCtx_only s va _).trans ((State.setSt_only _ va _ _).trans (State.modCtx_only _ va _))

theorem State.wake_only (s : State) (va : Nat) : LinesOnly s (s.wake va) := by
  unfold State.wake
  split
  · rfl
  · split
    · split
      · split
        · exact s.makeReady_only va
        · rfl
      · split
        · exact s.makeReady_only va
        · rfl
      · rfl
    · exact s.payHalt_only va

/-- A delivery forwarded is a message to a peer and nothing else (R27). -/
theorem State.forward_only (s t : State) (va : Nat) (ws : List W64) (h : s.forward va ws = some t) : LinesOnly s t := by
  unfold State.forward at h
  simp only [Option.map_eq_some_iff] at h
  obtain ⟨d, _, rfl⟩ := h
  rfl

/-- A delivery to a context that is here is forwarded to no peer (R27). -/
theorem State.forward_here (s : State) (va : Nat) (c : Ctx) (ws : List W64) (h : s.ctx? va = some c) : s.forward va ws = none := by
  unfold State.forward State.away
  simp only [h, Option.map_none]

theorem State.deliverTrap_only (s : State) (va : Nat) (t : DTrap) : LinesOnly s (s.deliverTrap va t) := by
  unfold State.deliverTrap
  split
  · split
    · exact s.sendHost_linesOnly _
    · exact s.modCtx_only va _
  · cases h : s.forward va [4, t.codeWord, t.fva, t.detail] with
    | none => exact s.sendHost_linesOnly _
    | some r => exact s.forward_only r va _ h

theorem State.ackStore_only (s : State) (va : Nat) : LinesOnly s (s.ackStore va) := by
  unfold State.ackStore
  split
  · rename_i r h
    exact s.forward_only r va _ h
  · exact (State.modCtx_only s va _).trans (State.wake_only _ va)

theorem State.changeOwner_only (s : State) (va : Nat) (o : Owner) : LinesOnly s (s.changeOwner va o) := s.modCtx_only va _

/-! ## Blocks -/

theorem State.sendHost_only (s : State) (m : HostMsg) : ChecksOnly s (s.sendHost m) := by
  unfold State.sendHost
  split <;> exact ⟨rfl, fun _ => rfl⟩

theorem State.notice_only (s : State) (k n : Nat) (ws : List W64) : ChecksOnly s (s.notice k n ws) := s.sendHost_only _

theorem State.quarantineBlock_only (s : State) (block kslot : Nat) (poison : Bool) :
    ChecksOnly s (s.quarantineBlock block kslot poison) := by
  unfold State.quarantineBlock
  split
  · exact ⟨rfl, fun _ => rfl⟩
  · exact s.notice_only _ _ _

/-- Looking up a table of values each changed by a function. -/
theorem Assoc.get_map {α β : Type} (m : List (Nat × α)) (f : α → β) (a : Nat) :
    Assoc.get (m.map (fun p => (p.1, f p.2))) a = (Assoc.get m a).map f := by
  induction m with
  | nil => rfl
  | cons p m ih =>
    simp only [List.map_cons, Assoc.get]
    split
    · rfl
    · exact ih

/-- A change of every unit's L2 slice changes no unit elsewhere. -/
theorem State.slices_only (s : State) (m : List Host.Cell) (f : List L2Line → List L2Line) :
    ChecksOnly s { s with mem := m, units := s.units.map (fun u => (u.1, { u.2 with l2 := f u.2.l2 })) } := by
  refine ⟨rfl, fun u => ?_⟩
  unfold State.unit
  have h := Assoc.get_map s.units (fun x : Unit => { x with l2 := f x.l2 }) u
  simp only [h]
  cases Assoc.get s.units u <;> rfl

theorem State.setBelow_only (s : State) (cs : List Host.Cell) : ChecksOnly s (s.setBelow cs) := by
  unfold State.setBelow
  dsimp only
  split
  · exact s.slices_only _ _
  · exact ⟨rfl, fun _ => rfl⟩

theorem State.modStack_only (s : State) (k : Nat) (f : Stack → Stack) : ChecksOnly s (s.modStack k f) := ⟨rfl, fun _ => rfl⟩

theorem State.setDram_only (s : State) (block : Nat) (bs : List Byte) : ChecksOnly s (s.setDram block bs) := by
  unfold State.setDram
  dsimp only
  split
  · exact (s.setBelow_only _).trans (State.modStack_only _ _ _)
  · split
    · exact s.setBelow_only _
    · exact ⟨rfl, fun _ => rfl⟩

theorem State.accept_only (s : State) (block kslot : Nat) (k : KeyMat) (sy : List Byte) :
    ChecksOnly s (s.accept block kslot k sy) := (s.setDram_only _ _).trans ⟨rfl, fun _ => rfl⟩

theorem State.repair_only (s t : State) (block kslot : Nat) (h : s.repair block kslot = some t) : ChecksOnly s t := by
  unfold State.repair at h
  split at h
  · cases h
  · dsimp only at h
    split at h
    · cases h
      exact s.accept_only _ _ _ _
    · simp only [Option.map_eq_some_iff] at h
      obtain ⟨c, _, rfl⟩ := h
      exact (s.accept_only block kslot _ c).trans ⟨rfl, fun _ => rfl⟩

theorem State.verifyDram_only (s : State) (block kslot : Nat) : ChecksOnly s (s.verifyDram block kslot).1 := by
  unfold State.verifyDram
  split
  · exact ChecksOnly.refl s
  · split
    · exact ChecksOnly.refl s
    · split
      · rename_i h
        exact s.repair_only _ _ _ h
      · exact s.quarantineBlock_only _ _ _

theorem State.verify_only (s : State) (pa kslot : Nat) : ChecksOnly s (s.verify pa kslot).1 := by
  unfold State.verify
  split
  · exact ChecksOnly.refl s
  · split
    · exact ChecksOnly.refl s
    · exact s.verifyDram_only _ _

/-- What a read of a block in DRAM answers, in the order it looks: a quarantined block, a block as its tag says, one that a correction
mends, and one that is lost (R365, R366). -/
theorem State.verifyDram_cases (s : State) (b k : Nat) :
    s.verifyDram b k = (s, none) ∨
    (∃ x, Assoc.get s.quarantine b = some x ∧ s.verifyDram b k = (s, some (if x.2 then 0x09 else 0x08))) ∨
    (∃ s1, s.repair b k = some s1 ∧ s.verifyDram b k = (s1, none)) ∨
    s.verifyDram b k = (s.quarantineBlock b k false, some 0x08) := by
  unfold State.verifyDram
  cases hq : Assoc.get s.quarantine b with
  | some x => exact .inr (.inl ⟨x, rfl, rfl⟩)
  | none =>
    dsimp only
    split
    · exact .inl rfl
    · cases hr : s.repair b k with
      | some s1 => exact .inr (.inr (.inl ⟨s1, rfl, rfl⟩))
      | none => exact .inr (.inr (.inr rfl))

/-- What a check of a block answers, in the order it looks: memory that no check guards or a line that a cache holds, a quarantined
block, a block as its tag says, one that a correction mends, and one that is lost (R365, R366). -/
theorem State.verify_cases (s : State) (pa k : Nat) :
    s.verify pa k = (s, none) ∨
    (∃ x, Assoc.get s.quarantine (pa / 64) = some x ∧ s.verify pa k = (s, some (if x.2 then 0x09 else 0x08))) ∨
    (∃ s1, s.repair (pa / 64) k = some s1 ∧ s.verify pa k = (s1, none)) ∨
    s.verify pa k = (s.quarantineBlock (pa / 64) k false, some 0x08) := by
  unfold State.verify
  split
  · exact .inl rfl
  · split
    · exact .inl rfl
    · exact s.verifyDram_cases _ _

/-- Where nothing has been altered and no block has a tag of other keys, no check corrects anything (R365). -/
theorem State.nothingToRepair (s : State) (hd : s.damage = []) (ht : s.blockTag = []) : Safety.NothingToRepair s := by
  intro b k _
  have hg : (Assoc.get s.damage b).isNone = true := by rw [hd]; rfl
  have hk : s.tagOk b k = true := by unfold State.tagOk; rw [ht]; rfl
  unfold State.verifyDram
  rw [hg, hk]
  split <;> rfl

/-- Where no read of DRAM corrects anything, a check that passes changes nothing (R365). -/
theorem State.verify_same (s : State) (pa k : Nat) (h : Safety.NothingToRepair s) (hv : (s.verify pa k).2 = none) :
    (s.verify pa k).1 = s := by
  unfold State.verify at hv ⊢
  split
  · rfl
  · split
    · rfl
    · rename_i h1 h2
      simp only [h1, h2, if_false, Bool.false_eq_true] at hv
      exact h _ _ hv

/-- A block that stands intact passes its check, which changes nothing (R365). -/
theorem State.verify_intact (s : State) (pa kslot : Nat) (h : Safety.Intact s pa kslot) : s.verify pa kslot = (s, none) := by
  obtain ⟨h1, h2, h3, h4, h5, _⟩ := h
  unfold State.verify State.verifyDram
  simp [h1, h2, h3, h4, h5]

theorem State.openBlock_only (s : State) (block kslot : Nat) : ChecksOnly s (s.openBlock block kslot).1 := by
  have h := s.verifyDram_only block kslot
  unfold State.openBlock
  generalize s.verifyDram block kslot = r at h ⊢
  obtain ⟨s1, c⟩ := r
  cases c with
  | some c => exact h
  | none =>
    dsimp only
    split
    · exact h
    · exact h.trans ⟨rfl, fun _ => rfl⟩

theorem State.unit_modUnit_same (s : State) (u : Nat) (f : Unit → Unit) : (s.modUnit u f).unit u = f (s.unit u) := by
  simp [State.modUnit, State.setUnit, State.unit]

theorem State.unit_modUnit_other (s : State) (u v : Nat) (f : Unit → Unit) (h : v ≠ u) : (s.modUnit u f).unit v = s.unit v := by
  simp [State.modUnit, State.setUnit, State.unit, Assoc.get_set_other _ _ _ _ h]

/-- A change of one unit's L2 slice changes no unit elsewhere. -/
theorem State.modSlice_only (s : State) (u : Nat) (f : List L2Line → List L2Line) :
    ChecksOnly s (s.modUnit u (fun x => { x with l2 := f x.l2 })) := by
  refine ⟨rfl, fun v => ?_⟩
  by_cases h : v = u
  · subst h
    rw [State.unit_modUnit_same]
  · rw [State.unit_modUnit_other _ _ _ _ h]

theorem State.cacheDirty_only (s : State) (line kslot : Nat) (as : List Nat) : ChecksOnly s (s.cacheDirty line kslot as) := by
  unfold State.cacheDirty
  split
  · unfold State.l2Dirty
    split
    · exact s.modSlice_only _ _
    · exact ChecksOnly.refl s
  · unfold State.mscDirty
    split
    · exact ChecksOnly.refl s
    · exact s.modStack_only _ _

theorem State.storeBlock_only (s : State) (kslot : Nat) (cs : List Host.Cell) : ChecksOnly s (s.storeBlock kslot cs).1 := by
  unfold State.storeBlock
  split
  · exact ChecksOnly.refl s
  · rename_i pa b m
    split
    · exact ⟨rfl, fun _ => rfl⟩
    · split
      · split
        · exact ChecksOnly.refl s
        · exact (s.cacheDirty_only _ _ _).trans ⟨rfl, fun _ => rfl⟩
      · have h := s.openBlock_only (pa / 64) kslot
        generalize s.openBlock (pa / 64) kslot = r at h ⊢
        obtain ⟨s1, c⟩ := r
        cases c with
        | some c => exact h
        | none => exact h.trans ⟨rfl, fun _ => rfl⟩

/-- A block that stands intact is opened for a write: its tag is renewed, and nothing else is changed (R362, R364). -/
theorem State.openBlock_intact (s : State) (pa kslot : Nat) (h : Safety.Intact s pa kslot) :
    ∃ m, Assoc.get s.keys kslot = some m ∧ s.openBlock (pa / 64) kslot = (s.dramTag (pa / 64) kslot m, none) := by
  obtain ⟨h1, h2, h3, h4, h5, h6⟩ := h
  obtain ⟨m, hm⟩ := Option.isSome_iff_exists.mp h6
  refine ⟨m, hm, ?_⟩
  unfold State.openBlock State.verifyDram
  simp [h3, h4, h5, hm]

/-- A store to a block that stands intact writes its cells (R362, R364). -/
theorem State.storeBlock_intact (s : State) (pa kslot : Nat) (b : Byte) (cs : List Host.Cell) (h : Safety.Intact s pa kslot) :
    (s.storeBlock kslot ((pa, b) :: cs)).2 = none ∧
    (s.storeBlock kslot ((pa, b) :: cs)).1.mem = Memory.writeCells s.mem ((pa, b) :: cs) := by
  obtain ⟨m, hm, ho⟩ := s.openBlock_intact pa kslot h
  obtain ⟨h1, h2, h3, _, _, _⟩ := h
  unfold State.storeBlock
  by_cases hc : s.lineCached (pa / 64) kslot = true
  · simp [h1, h2, h3, hm, hc, State.cacheDirty_mem]
  · simp only [Bool.not_eq_true] at hc
    simp only [h1, h2, hc, ho, Bool.not_true, Bool.or_self, Bool.and_false, Bool.false_eq_true, if_false]
    exact ⟨trivial, rfl⟩

theorem State.storeOwn_only (s : State) (kslot : Nat) (cs : List Host.Cell) : ChecksOnly s (s.storeOwn kslot cs) := by
  have h := s.storeBlock_only kslot cs
  unfold State.storeOwn
  generalize s.storeBlock kslot cs = r at h
  obtain ⟨s1, c⟩ := r
  cases c with
  | some c => exact h.trans (s1.notice_only _ _ _)
  | none => exact h

theorem State.lineHbm_only (s : State) (u tenant va v : Nat) : ChecksOnly s (s.lineHbm u tenant va v) := by
  unfold State.lineHbm
  split
  · exact s.storeOwn_only _ _
  · exact ChecksOnly.refl s

theorem State.setHeader_only (s : State) (u tenant off v : Nat) : ChecksOnly s (s.setHeader u tenant off v) := by
  unfold State.setHeader
  split
  · exact s.storeOwn_only _ _
  · exact ChecksOnly.refl s

theorem State.openHeader_only (s : State) (u tenant : Nat) : ChecksOnly s (s.openHeader u tenant) := by
  unfold State.openHeader
  split
  · exact s.verify_only _ _
  · exact ChecksOnly.refl s

/-! ## Allocators -/

theorem State.setLink_only (s : State) (u tenant va v : Nat) : AllocatorOnly s (s.setLink u tenant va v) := by
  unfold State.setLink
  dsimp only
  refine AllocatorOnly.trans ?_ (State.lineHbm_only _ u tenant va v).allocator
  split
  · exact ⟨rfl, fun _ => rfl⟩
  · split
    · exact ⟨rfl, fun _ => rfl⟩
    · exact AllocatorOnly.refl s

theorem State.pushFree_only (s : State) (u tenant : Nat) (vas : List Nat) : AllocatorOnly s (s.pushFree u tenant vas) := by
  refine foldl_only AllocatorOnly.refl AllocatorOnly.trans _ (fun t va => ?_) vas s
  split
  · dsimp only
    have h1 := (t.openHeader_only u tenant).allocator
    generalize t.openHeader u tenant = t1 at h1 ⊢
    have h2 := t1.setLink_only u tenant va ((t1.header u tenant 0x10).getD 0)
    generalize t1.setLink u tenant va ((t1.header u tenant 0x10).getD 0) = t2 at h2 ⊢
    have h3 := (t2.setHeader_only u tenant 0x10 va).allocator
    exact h1.trans (h2.trans (h3.trans (State.setHeader_only _ u tenant _ _).allocator))
  · exact AllocatorOnly.refl t

theorem State.modCluster_only (s : State) (c : Nat) (f : Cluster → Cluster) : AllocatorOnly s (s.modCluster c f) :=
  ⟨rfl, fun _ => rfl⟩

theorem State.cacheLine_only (s : State) (u cl tenant va : Nat) : AllocatorOnly s (s.cacheLine u cl tenant va) := by
  unfold State.cacheLine
  split
  · exact AllocatorOnly.refl s
  · split
    · exact s.modCluster_only _ _
    · dsimp only
      split
      · exact s.modCluster_only _ _
      · exact (s.modCluster_only _ _).trans (State.pushFree_only _ u tenant _)

/-! ## What the relations leave alone -/

theorem UnitsOnly.mem {s t : State} (h : UnitsOnly s t) : t.mem = s.mem :=
  show (withUnits s t).mem = s.mem from congrArg State.mem h.eq
theorem UnitsOnly.lines {s t : State} (h : UnitsOnly s t) : t.lines = s.lines :=
  show (withUnits s t).lines = s.lines from congrArg State.lines h.eq
theorem UnitsOnly.scratch {s t : State} (h : UnitsOnly s t) : t.scratch = s.scratch :=
  show (withUnits s t).scratch = s.scratch from congrArg State.scratch h.eq
theorem UnitsOnly.tenants {s t : State} (h : UnitsOnly s t) : t.tenants = s.tenants :=
  show (withUnits s t).tenants = s.tenants from congrArg State.tenants h.eq
theorem LinesOnly.mem {s t : State} (h : LinesOnly s t) : t.mem = s.mem :=
  show (withLines s t).mem = s.mem from congrArg State.mem h.eq
theorem LinesOnly.units {s t : State} (h : LinesOnly s t) : t.units = s.units :=
  show (withLines s t).units = s.units from congrArg State.units h.eq
theorem LinesOnly.scratch {s t : State} (h : LinesOnly s t) : t.scratch = s.scratch :=
  show (withLines s t).scratch = s.scratch from congrArg State.scratch h.eq
theorem ChecksOnly.lines {s t : State} (h : ChecksOnly s t) : t.lines = s.lines :=
  show (withChecks s t).lines = s.lines from congrArg State.lines h.eq
theorem ChecksOnly.tlb {s t : State} (h : ChecksOnly s t) (u : Nat) : (t.unit u).tlb = (s.unit u).tlb :=
  show ({ t.unit u with l2 := (s.unit u).l2 } : Unit).tlb = (s.unit u).tlb from congrArg Unit.tlb (h.2 u)
theorem ChecksOnly.scratch {s t : State} (h : ChecksOnly s t) : t.scratch = s.scratch :=
  show (withChecks s t).scratch = s.scratch from congrArg State.scratch h.eq
theorem ChecksOnly.wire {s t : State} (h : ChecksOnly s t) : t.wire = s.wire :=
  show (withChecks s t).wire = s.wire from congrArg State.wire h.eq
theorem AllocatorOnly.tlb {s t : State} (h : AllocatorOnly s t) (u : Nat) : (t.unit u).tlb = (s.unit u).tlb :=
  show ({ t.unit u with l2 := (s.unit u).l2 } : Unit).tlb = (s.unit u).tlb from congrArg Unit.tlb (h.2 u)
theorem AllocatorOnly.wire {s t : State} (h : AllocatorOnly s t) : t.wire = s.wire :=
  show (withAllocator s t).wire = s.wire from congrArg State.wire h.eq

/-! ## Waits for a ring (R143, R169) -/

/-- A line whose wait is for no ring keeps its count of tile operations. -/
theorem Line.endRing_other (l : Line) (h : ∀ x, l.wait ≠ .ring x) : l.endRing = l := by
  unfold Line.endRing
  split
  · rename_i x hx
    exact absurd hx (h x)
  · rfl

/-- One whose wait is for a ring counts one operation less, and is otherwise as it was. -/
theorem Line.endRing_ring (l : Line) (x : W64) (h : l.wait = .ring x) : l.endRing = { l with tiles := l.tiles - 1 } := by
  unfold Line.endRing
  rw [h]

/-- A context of which no ring holds an operation keeps its line when its waiting entries leave. -/
theorem State.disarm_lines (s : State) (va : Nat) (h : s.ringWaits va = false) : (s.disarm va).lines = s.lines := by
  unfold State.disarm
  simp [h]

end Sys2Proof.Machine
end

