-- ==== Sys2Proof/Laws/Issue.lean ====
section
/-! SUPPORT. What a turn does with an instruction (R28, R49-R51, R268): one lemma for each way that a turn ends, so that no proof
unfolds State.issueWith. -/

namespace Sys2Proof.Machine

open Sys2Proof.Safety

/-- With no register of a list pending, none blocks. -/
theorem Line.blocked_zero (l : Line) (uses : List Reg) (h : ∀ r ∈ uses, l.pending r = false) : l.blocked uses = 0 := by
  unfold Line.blocked
  have : ∀ (m : BitVec 8), uses.foldl (fun m r => if l.pending r then m ||| (1#8 <<< r.toNat) else m) m = m := by
    intro m
    induction uses generalizing m with
    | nil => rfl
    | cons r rs ih =>
      rw [List.foldl_cons, h r (List.mem_cons_self ..)]
      exact ih (fun q hq => h q (List.mem_cons_of_mem _ hq)) _
  exact this 0

/-- The context of the turn is the one its line lists. -/
theorem State.env_ctx (s : State) (e : Env) (h : s.env? = some e) : s.ctx? e.va = some ⟨e.line, e.book⟩ := by
  unfold State.env? at h
  split at h
  · cases h
  · split at h
    · cases h
    · rename_i va _ c hc
      split at h
      · cases h
        exact hc
      · cases h

/-- A context put in place is the one found. -/
@[simp] theorem State.ctx_setCtx_same (s : State) (va : Nat) (c : Ctx) : (s.setCtx va c).ctx? va = some c := by
  simp [State.ctx?]

/-- Another context is unchanged. -/
theorem State.ctx_setCtx_other (s : State) (va v : Nat) (c : Ctx) (h : v ≠ va) : (s.setCtx va c).ctx? v = s.ctx? v := by
  simp [State.ctx?, Assoc.get_set_other _ _ _ _ h]

/-- A context put in place twice. -/
theorem Assoc.set_set {α : Type} (m : List (Nat × α)) (a : Nat) (x y : α) :
    Assoc.set (Assoc.set m a x) a y = Assoc.set m a y := by
  induction m with
  | nil => simp [Assoc.set]
  | cons p m ih =>
    obtain ⟨k, v⟩ := p
    by_cases h1 : a = k
    · simp [Assoc.set, h1]
    · by_cases h2 : a < k
      · simp [Assoc.set, h1, h2]
      · simp [Assoc.set, h1, h2, ih]

/-- The marks of an issue on a line put in place. -/
theorem State.issued_setCtx (s : State) (e : Env) (l : Line) : (s.setCtx e.va ⟨l, e.book⟩).issued e = retired s e l := by
  unfold State.issued State.modBook State.modCtx retired
  simp only [State.ctx_setCtx_same]
  unfold State.setCtx
  simp only [Assoc.set_set]

/-- An instruction's own turn runs its body. -/
theorem State.issueWith_turn (s : State) (e : Env) (g : Guard) (uses : List Reg) (np loc : Bool)
    (body : Env → State → Except Stop State) (h : Turn s e g uses loc) (hp : np = true → e.line.priv = true) :
    s.issueWith g np loc uses body = match body e s with
      | .ok s' => s'.issued e
      | .error x => s.stopWith e x := by
  obtain ⟨h1, h2, h3, h4⟩ := h
  have hb := e.line.blocked_zero uses h4
  have hl : (decide (1536 ≤ e.u) && !loc) = false := by
    rcases h3 with h3 | h3
    · simp [h3]
    · simp [Nat.not_le.mpr h3]
  have hq : (np && !e.line.priv) = false := by
    cases np with
    | false => rfl
    | true => simp [hp rfl]
  unfold State.issueWith
  simp only [h1, hq, h2, hl, hb]
  cases body e s <;> rfl

/-- An instruction on its context's line alone. -/
theorem State.issueLine_turn (s : State) (e : Env) (g : Guard) (uses : List Reg) (f : Line → Except (Byte × W64) Line)
    (l : Line) (h : Turn s e g uses true) (hf : f e.line = .ok l) : s.issueLine g uses f = retired s e l := by
  unfold State.issueLine
  rw [State.issueWith_turn s e g uses false true _ h (by simp)]
  simp only [hf, State.issued_setCtx]

/-- An instruction that writes one register. -/
theorem State.issueReg_turn (s : State) (e : Env) (g : Guard) (uses : List Reg) (d : Reg) (f : Line → W64)
    (h : Turn s e g uses true) : s.issueReg g uses d f = retired s e (e.line.setReg d (f e.line)).advance :=
  State.issueLine_turn s e g uses _ _ h rfl

/-- An instruction whose guard is false only moves the program counter on (R50). -/
theorem State.issueWith_off (s : State) (e : Env) (g : Guard) (uses : List Reg) (np loc : Bool)
    (body : Env → State → Except Stop State) (h : s.env? = some e) (hg : e.line.guard g = false)
    (hp : np = true → e.line.priv = true) : s.issueWith g np loc uses body = retired s e e.line.advance := by
  have hq : (np && !e.line.priv) = false := by
    cases np with
    | false => rfl
    | true => simp [hp rfl]
  have hc := s.env_ctx e h
  unfold State.issueWith
  simp only [h, hq, hg]
  simp only [Bool.false_eq_true, if_false, Bool.not_false, if_true]
  rw [← State.issued_setCtx]
  unfold State.modLine State.modCtx
  simp only [hc]

/-- A privileged instruction of an unprivileged context traps with cause 0x02 (R51 step 4). -/
theorem State.issueWith_privilege (s : State) (e : Env) (g : Guard) (uses : List Reg) (loc : Bool)
    (body : Env → State → Except Stop State) (h : s.env? = some e) (hp : e.line.priv = false) :
    s.issueWith g true loc uses body = s.stopWith e (.trap 0x02 0 0) := by
  unfold State.issueWith
  simp [h, hp]

/-- What an instruction on its line alone leaves of the rest. -/
theorem retired_onlyLine (s : State) (e : Env) (l : Line) : OnlyLine s (retired s e l) e.va :=
  ⟨rfl, fun v h => State.ctx_setCtx_other s e.va v _ h⟩

end Sys2Proof.Machine
end

