-- ==== Sys2Proof/Laws/PerInstr.lean ====
section
/-! SUPPORT. A law for every constructor of Instr: an instruction has an encoding exactly where it is no event of an agent
(R46, R51; log 1). -/

namespace Sys2Proof.Laws.HasWord

/-- The instruction has a word exactly where it is no event. -/
def Statement (i : Instr) : Prop := (encode i).isSome = !i.isEvent

theorem br (g : Guard) (off : BitVec 19) : Statement (.br g off) := rfl
theorem call (g : Guard) (off : BitVec 19) : Statement (.call g off) := rfl
theorem jmp (g : Guard) (a : Reg) : Statement (.jmp g a) := rfl
theorem callr (g : Guard) (a : Reg) : Statement (.callr g a) := rfl
theorem ret (g : Guard) : Statement (.ret g) := rfl
theorem pcmp (g : Guard) (pd : Pred) (a b : Reg) (c : PCond) : Statement (.pcmp g pd a b c) := rfl
theorem fcmp (g : Guard) (pd : Pred) (a b : Reg) (f : FFmt) (r : FRel) : Statement (.fcmp g pd a b f r) := rfl
theorem pand (g : Guard) (pd qa qb : Pred) : Statement (.pand g pd qa qb) := rfl
theorem por (g : Guard) (pd qa qb : Pred) : Statement (.por g pd qa qb) := rfl
theorem pxor (g : Guard) (pd qa qb : Pred) : Statement (.pxor g pd qa qb) := rfl
theorem pnot (g : Guard) (pd qa : Pred) : Statement (.pnot g pd qa) := rfl
theorem pmov (g : Guard) (pd qa : Pred) : Statement (.pmov g pd qa) := rfl
theorem pget (g : Guard) (d : Reg) : Statement (.pget g d) := rfl
theorem pset (g : Guard) (a : Reg) : Statement (.pset g a) := rfl
theorem trap (g : Guard) : Statement (.trap g) := rfl
theorem rte (g : Guard) (a : Reg) : Statement (.rte g a) := rfl
theorem rteNewPc (g : Guard) (a b : Reg) : Statement (.rteNewPc g a b) := rfl
theorem bkpt (g : Guard) : Statement (.bkpt g) := rfl
theorem csrr (g : Guard) (d : Reg) (n : BitVec 9) : Statement (.csrr g d n) := rfl
theorem csrw (g : Guard) (a : Reg) (n : BitVec 9) : Statement (.csrw g a n) := rfl
theorem nop : Statement .nop := rfl
theorem hint (g : Guard) (body : BitVec 20) : Statement (.hint g body) := rfl
theorem add (g : Guard) (d a b : Reg) : Statement (.add g d a b) := rfl
theorem sub (g : Guard) (d a b : Reg) : Statement (.sub g d a b) := rfl
theorem and (g : Guard) (d a b : Reg) : Statement (.and g d a b) := rfl
theorem or (g : Guard) (d a b : Reg) : Statement (.or g d a b) := rfl
theorem xor (g : Guard) (d a b : Reg) : Statement (.xor g d a b) := rfl
theorem andn (g : Guard) (d a b : Reg) : Statement (.andn g d a b) := rfl
theorem shl (g : Guard) (d a b : Reg) : Statement (.shl g d a b) := rfl
theorem shrl (g : Guard) (d a b : Reg) : Statement (.shrl g d a b) := rfl
theorem shra (g : Guard) (d a b : Reg) : Statement (.shra g d a b) := rfl
theorem rotl (g : Guard) (d a b : Reg) : Statement (.rotl g d a b) := rfl
theorem min (g : Guard) (d a b : Reg) : Statement (.min g d a b) := rfl
theorem mins (g : Guard) (d a b : Reg) : Statement (.mins g d a b) := rfl
theorem max (g : Guard) (d a b : Reg) : Statement (.max g d a b) := rfl
theorem maxs (g : Guard) (d a b : Reg) : Statement (.maxs g d a b) := rfl
theorem lea (g : Guard) (d a b : Reg) (sc : BitVec 2) : Statement (.lea g d a b sc) := rfl
theorem sel (g : Guard) (d a b : Reg) (p : Pred) : Statement (.sel g d a b p) := rfl
theorem addi (g : Guard) (d a : Reg) (imm : BitVec 14) : Statement (.addi g d a imm) := rfl
theorem andi (g : Guard) (d a : Reg) (imm : BitVec 12) : Statement (.andi g d a imm) := rfl
theorem ori (g : Guard) (d a : Reg) (imm : BitVec 12) : Statement (.ori g d a imm) := rfl
theorem xori (g : Guard) (d a : Reg) (imm : BitVec 12) : Statement (.xori g d a imm) := rfl
theorem shli (g : Guard) (d a : Reg) (n : BitVec 6) : Statement (.shli g d a n) := rfl
theorem shrli (g : Guard) (d a : Reg) (n : BitVec 6) : Statement (.shrli g d a n) := rfl
theorem shrai (g : Guard) (d a : Reg) (n : BitVec 6) : Statement (.shrai g d a n) := rfl
theorem rotli (g : Guard) (d a : Reg) (n : BitVec 6) : Statement (.rotli g d a n) := rfl
theorem lil (g : Guard) (d : Reg) (imm : BitVec 17) : Statement (.lil g d imm) := rfl
theorem lih (g : Guard) (d : Reg) (imm : BitVec 17) : Statement (.lih g d imm) := rfl
theorem mul (g : Guard) (d a b : Reg) : Statement (.mul g d a b) := rfl
theorem mulh (g : Guard) (d a b : Reg) : Statement (.mulh g d a b) := rfl
theorem mulhs (g : Guard) (d a b : Reg) : Statement (.mulhs g d a b) := rfl
theorem div (g : Guard) (d a b : Reg) : Statement (.div g d a b) := rfl
theorem divs (g : Guard) (d a b : Reg) : Statement (.divs g d a b) := rfl
theorem rem (g : Guard) (d a b : Reg) : Statement (.rem g d a b) := rfl
theorem rems (g : Guard) (d a b : Reg) : Statement (.rems g d a b) := rfl
theorem clz (g : Guard) (d a : Reg) : Statement (.clz g d a) := rfl
theorem ctz (g : Guard) (d a : Reg) : Statement (.ctz g d a) := rfl
theorem popc (g : Guard) (d a : Reg) : Statement (.popc g d a) := rfl
theorem bswap (g : Guard) (d a : Reg) : Statement (.bswap g d a) := rfl
theorem bext (g : Guard) (d a b : Reg) : Statement (.bext g d a b) := rfl
theorem bins (g : Guard) (d a b : Reg) : Statement (.bins g d a b) := rfl
theorem vadd (g : Guard) (d a b : Reg) (h : Shape) : Statement (.vadd g d a b h) := rfl
theorem vsub (g : Guard) (d a b : Reg) (h : Shape) : Statement (.vsub g d a b h) := rfl
theorem vmul (g : Guard) (d a b : Reg) (h : Shape) : Statement (.vmul g d a b h) := rfl
theorem vmin (g : Guard) (d a b : Reg) (sg : Bool) (h : Shape) : Statement (.vmin g d a b sg h) := rfl
theorem vmax (g : Guard) (d a b : Reg) (sg : Bool) (h : Shape) : Statement (.vmax g d a b sg h) := rfl
theorem vadds (g : Guard) (d a b : Reg) (sg : Bool) (h : Shape) : Statement (.vadds g d a b sg h) := rfl
theorem vsubs (g : Guard) (d a b : Reg) (sg : Bool) (h : Shape) : Statement (.vsubs g d a b sg h) := rfl
theorem vdot (g : Guard) (d a b : Reg) (sg : Bool) : Statement (.vdot g d a b sg) := rfl
theorem vred (g : Guard) (d a : Reg) (sg : Bool) (h : Shape) : Statement (.vred g d a sg h) := rfl
theorem fadd (g : Guard) (d a b : Reg) (f : FFmt) : Statement (.fadd g d a b f) := rfl
theorem fsub (g : Guard) (d a b : Reg) (f : FFmt) : Statement (.fsub g d a b f) := rfl
theorem fmul (g : Guard) (d a b : Reg) (f : FFmt) : Statement (.fmul g d a b f) := rfl
theorem fmin (g : Guard) (d a b : Reg) (f : FFmt) : Statement (.fmin g d a b f) := rfl
theorem fmax (g : Guard) (d a b : Reg) (f : FFmt) : Statement (.fmax g d a b f) := rfl
theorem fabs (g : Guard) (d a : Reg) (f : FFmt) : Statement (.fabs g d a f) := rfl
theorem fneg (g : Guard) (d a : Reg) (f : FFmt) : Statement (.fneg g d a f) := rfl
theorem fdiv (g : Guard) (d a b : Reg) (f : FFmt) : Statement (.fdiv g d a b f) := rfl
theorem fsqrt (g : Guard) (d a : Reg) (f : FFmt) : Statement (.fsqrt g d a f) := rfl
theorem ffma (g : Guard) (d a b : Reg) (f : FFmt) : Statement (.ffma g d a b f) := rfl
theorem frcp (g : Guard) (d a : Reg) (f : FFmt) : Statement (.frcp g d a f) := rfl
theorem fexp2 (g : Guard) (d a : Reg) (f : FFmt) : Statement (.fexp2 g d a f) := rfl
theorem flog2 (g : Guard) (d a : Reg) (f : FFmt) : Statement (.flog2 g d a f) := rfl
theorem cvt (g : Guard) (d a : Reg) (dst src : CFmt) : Statement (.cvt g d a dst src) := rfl
theorem vshuf (g : Guard) (d a b : Reg) (h : Shape) : Statement (.vshuf g d a b h) := rfl
theorem vpack (g : Guard) (d a b : Reg) (h : Shape) : Statement (.vpack g d a b h) := rfl
theorem vbcast (g : Guard) (d a : Reg) (h : Shape) : Statement (.vbcast g d a h) := rfl
theorem ld (g : Guard) (d base : Reg) (sz : LdSize) (hint : Hint) (disp : BitVec 8) : Statement (.ld g d base sz hint disp) := rfl
theorem st (g : Guard) (d base : Reg) (sz : StSize) (hint : Hint) (disp : BitVec 8) : Statement (.st g d base sz hint disp) := rfl
theorem ldx (g : Guard) (d a b : Reg) (sz : LdSize) (hint : Hint) : Statement (.ldx g d a b sz hint) := rfl
theorem stx (g : Guard) (d a b : Reg) (sz : StSize) (hint : Hint) : Statement (.stx g d a b sz hint) := rfl
theorem pref (g : Guard) (a : Reg) : Statement (.pref g a) := rfl
theorem cpf (g : Guard) (a : Reg) : Statement (.cpf g a) := rfl
theorem cdrop (g : Guard) (a : Reg) : Statement (.cdrop g a) := rfl
theorem recon (g : Guard) (r : Reach) : Statement (.recon g r) := rfl
theorem pin (g : Guard) (a v : Reg) : Statement (.pin g a v) := rfl
theorem unpin (g : Guard) (a : Reg) : Statement (.unpin g a) := rfl
theorem take (g : Guard) (d a : Reg) (r : Reach) : Statement (.take g d a r) := rfl
theorem put (g : Guard) (a v : Reg) (r : Reach) : Statement (.put g a v r) := rfl
theorem peek (g : Guard) (d a : Reg) (r : Reach) : Statement (.peek g d a r) := rfl
theorem fill (g : Guard) (a v : Reg) (r : Reach) : Statement (.fill g a v r) := rfl
theorem empty (g : Guard) (d a : Reg) (r : Reach) : Statement (.empty g d a r) := rfl
theorem festat (g : Guard) (d a : Reg) (r : Reach) : Statement (.festat g d a r) := rfl
theorem amoAdd (g : Guard) (d a v : Reg) (r : Reach) : Statement (.amoAdd g d a v r) := rfl
theorem amoMin (g : Guard) (d a v : Reg) (r : Reach) : Statement (.amoMin g d a v r) := rfl
theorem amoMax (g : Guard) (d a v : Reg) (r : Reach) : Statement (.amoMax g d a v r) := rfl
theorem amoAnd (g : Guard) (d a v : Reg) (r : Reach) : Statement (.amoAnd g d a v r) := rfl
theorem amoOr (g : Guard) (d a v : Reg) (r : Reach) : Statement (.amoOr g d a v r) := rfl
theorem amoXor (g : Guard) (d a v : Reg) (r : Reach) : Statement (.amoXor g d a v r) := rfl
theorem amoSwap (g : Guard) (d a v : Reg) (r : Reach) : Statement (.amoSwap g d a v r) := rfl
theorem amoCas (g : Guard) (d a v : Reg) (r : Reach) : Statement (.amoCas g d a v r) := rfl
theorem amoFadd (g : Guard) (d a v : Reg) (r : Reach) : Statement (.amoFadd g d a v r) := rfl
theorem moonAdd (g : Guard) (a v : Reg) : Statement (.moonAdd g a v) := rfl
theorem moonMin (g : Guard) (a v : Reg) : Statement (.moonMin g a v) := rfl
theorem moonMax (g : Guard) (a v : Reg) : Statement (.moonMax g a v) := rfl
theorem moonOr (g : Guard) (a v : Reg) : Statement (.moonOr g a v) := rfl
theorem moonFadd (g : Guard) (a v : Reg) : Statement (.moonFadd g a v) := rfl
theorem tadd (g : Guard) (d a b : Reg) : Statement (.tadd g d a b) := rfl
theorem tsub (g : Guard) (d a b : Reg) : Statement (.tsub g d a b) := rfl
theorem tmul (g : Guard) (d a b : Reg) : Statement (.tmul g d a b) := rfl
theorem tmax (g : Guard) (d a b : Reg) : Statement (.tmax g d a b) := rfl
theorem tscale (g : Guard) (d a b : Reg) : Statement (.tscale g d a b) := rfl
theorem tscaleRdiv (g : Guard) (d a b : Reg) : Statement (.tscaleRdiv g d a b) := rfl
theorem texp (g : Guard) (d a : Reg) : Statement (.texp g d a) := rfl
theorem trsum (g : Guard) (d a : Reg) (acc col : Bool) : Statement (.trsum g d a acc col) := rfl
theorem trmax (g : Guard) (d a : Reg) (acc col : Bool) : Statement (.trmax g d a acc col) := rfl
theorem tcvt (g : Guard) (d a : Reg) : Statement (.tcvt g d a) := rfl
theorem ttrans (g : Guard) (d a : Reg) : Statement (.ttrans g d a) := rfl
theorem tfill (g : Guard) (d a : Reg) : Statement (.tfill g d a) := rfl
theorem tget (g : Guard) (d a b : Reg) : Statement (.tget g d a b) := rfl
theorem tset (g : Guard) (d a b : Reg) : Statement (.tset g d a b) := rfl
theorem tmma (g : Guard) (a b : Reg) (k : BitVec 2) : Statement (.tmma g a b k) := rfl
theorem tmmaZ (g : Guard) (a b : Reg) (k : BitVec 2) : Statement (.tmmaZ g a b k) := rfl
theorem accSt (g : Guard) (d : Reg) (i : Bool) (q : BitVec 2) : Statement (.accSt g d i q) := rfl
theorem accStRaw (g : Guard) (a : Reg) : Statement (.accStRaw g a) := rfl
theorem accLd (g : Guard) (a : Reg) (q : BitVec 2) : Statement (.accLd g a q) := rfl
theorem accLdRaw (g : Guard) (a : Reg) : Statement (.accLdRaw g a) := rfl
theorem accZ (g : Guard) : Statement (.accZ g) := rfl
theorem accOwn (g : Guard) (d : Reg) : Statement (.accOwn g d) := rfl
theorem accOwnSet (g : Guard) (a : Reg) : Statement (.accOwnSet g a) := rfl
theorem ringPush (g : Guard) (d a : Reg) : Statement (.ringPush g d a) := rfl
theorem ringPop (g : Guard) (d a : Reg) : Statement (.ringPop g d a) := rfl
theorem ringStat (g : Guard) (d a : Reg) : Statement (.ringStat g d a) := rfl
theorem hndNew (g : Guard) (d a b : Reg) : Statement (.hndNew g d a b) := rfl
theorem hndNewPair (g : Guard) (d a b : Reg) : Statement (.hndNewPair g d a b) := rfl
theorem hndFree (g : Guard) (a : Reg) : Statement (.hndFree g a) := rfl
theorem hndInfo (g : Guard) (d a : Reg) : Statement (.hndInfo g d a) := rfl
theorem attnQk (g : Guard) (a b : Reg) : Statement (.attnQk g a b) := rfl
theorem attnSm (g : Guard) (d a b : Reg) (i : BitVec 4) : Statement (.attnSm g d a b i) := rfl
theorem attnPv (g : Guard) (d a b : Reg) : Statement (.attnPv g d a b) := rfl
theorem attnClose (g : Guard) (d a : Reg) (n : BitVec 4) : Statement (.attnClose g d a n) := rfl
theorem kvMap (g : Guard) (d a b : Reg) : Statement (.kvMap g d a b) := rfl
theorem kvEvict (g : Guard) (d a b : Reg) : Statement (.kvEvict g d a b) := rfl
theorem kvMass (g : Guard) (d a : Reg) (j : BitVec 4) : Statement (.kvMass g d a j) := rfl
theorem tq (g : Guard) (d a : Reg) : Statement (.tq g d a) := rfl
theorem tqAuto (g : Guard) (d a : Reg) : Statement (.tqAuto g d a) := rfl
theorem tdq (g : Guard) (d a : Reg) : Statement (.tdq g d a) := rfl
theorem copy (g : Guard) (a b c d : Reg) (q1 tri : Bool) : Statement (.copy g a b c d q1 tri) := rfl
theorem copyT (g : Guard) (a b c d : Reg) (q1 tri : Bool) : Statement (.copyT g a b c d q1 tri) := rfl
theorem gath (g : Guard) (a b c d : Reg) (tri : Bool) : Statement (.gath g a b c d tri) := rfl
theorem gathii (g : Guard) (a b c d : Reg) (tri : Bool) : Statement (.gathii g a b c d tri) := rfl
theorem scat (g : Guard) (a b c d : Reg) (tri : Bool) : Statement (.scat g a b c d tri) := rfl
theorem graphLoad (g : Guard) (a b c d : Reg) (tri : Bool) : Statement (.graphLoad g a b c d tri) := rfl
theorem graphLoadF (g : Guard) (a b c d : Reg) (tri : Bool) : Statement (.graphLoadF g a b c d tri) := rfl
theorem streamOpen (g : Guard) (a b c d : Reg) (tri : Bool) : Statement (.streamOpen g a b c d tri) := rfl
theorem streamClose (g : Guard) (a b c d : Reg) (tri : Bool) : Statement (.streamClose g a b c d tri) := rfl
theorem collAr (g : Guard) (a b c d : Reg) (tri : Bool) : Statement (.collAr g a b c d tri) := rfl
theorem collBc (g : Guard) (a b c d : Reg) (tri : Bool) : Statement (.collBc g a b c d tri) := rfl
theorem qfence (g : Guard) (mask : BitVec 7) : Statement (.qfence g mask) := rfl
theorem waitc (g : Guard) (a : Reg) : Statement (.waitc g a) := rfl
theorem wlim (g : Guard) (a : Reg) : Statement (.wlim g a) := rfl
theorem spawn (g : Guard) (off : BitVec 12) : Statement (.spawn g off) := rfl
theorem spawnr (g : Guard) (a : Reg) : Statement (.spawnr g a) := rfl
theorem await (g : Guard) (d : Reg) : Statement (.await g d) := rfl
theorem done (g : Guard) : Statement (.done g) := rfl
theorem frame (g : Guard) (a b : Reg) : Statement (.frame g a b) := rfl
theorem yield (g : Guard) : Statement (.yield g) := rfl
theorem migrate (g : Guard) (a : Reg) : Statement (.migrate g a) := rfl
theorem dqPushRange (g : Guard) (d a b : Reg) : Statement (.dqPushRange g d a b) := rfl
theorem dqPushTask (g : Guard) (d a b : Reg) : Statement (.dqPushTask g d a b) := rfl
theorem dqPop (g : Guard) (d a : Reg) : Statement (.dqPop g d a) := rfl
theorem dqSteal (g : Guard) (d a b : Reg) : Statement (.dqSteal g d a b) := rfl
theorem dqSplit (g : Guard) (d a b : Reg) : Statement (.dqSplit g d a b) := rfl
theorem dqCfg (g : Guard) (a : Reg) : Statement (.dqCfg g a) := rfl
theorem dqCfgThaw (g : Guard) : Statement (.dqCfgThaw g) := rfl
theorem dqCfgGet (g : Guard) (d : Reg) : Statement (.dqCfgGet g d) := rfl
theorem stgPush (g : Guard) (a b : Reg) (r : Reach) : Statement (.stgPush g a b r) := rfl
theorem stgPop (g : Guard) (d a : Reg) (r : Reach) : Statement (.stgPop g d a r) := rfl
theorem stgStat (g : Guard) (d a : Reg) : Statement (.stgStat g d a) := rfl
theorem tlbW (g : Guard) (d a b : Reg) : Statement (.tlbW g d a b) := rfl
theorem tlbI (g : Guard) (d a b : Reg) : Statement (.tlbI g d a b) := rfl
theorem keyLd (g : Guard) (d a b : Reg) : Statement (.keyLd g d a b) := rfl
theorem keyClr (g : Guard) (d a : Reg) : Statement (.keyClr g d a) := rfl
theorem slotSet (g : Guard) (d a b : Reg) : Statement (.slotSet g d a b) := rfl
theorem qwtSet (g : Guard) (a b : Reg) : Statement (.qwtSet g a b) := rfl
theorem arenaSet (g : Guard) (d a b : Reg) : Statement (.arenaSet g d a b) := rfl
theorem halt (g : Guard) (d a : Reg) : Statement (.halt g d a) := rfl
theorem haltQ (g : Guard) (d a : Reg) : Statement (.haltQ g d a) := rfl
theorem resume (g : Guard) (d a : Reg) : Statement (.resume g d a) := rfl
theorem step (g : Guard) (d a : Reg) : Statement (.step g d a) := rfl
theorem lnkTxw (g : Guard) (a : Reg) : Statement (.lnkTxw g a) := rfl
theorem lnkTxe (g : Guard) (a : Reg) : Statement (.lnkTxe g a) := rfl
theorem mieQclr (g : Guard) (a : Reg) : Statement (.mieQclr g a) := rfl
theorem dqCfgPrivWrite (g : Guard) (a : Reg) : Statement (.dqCfgPrivWrite g a) := rfl
theorem slotTurn (unit : Nat) : Statement (.slotTurn unit) := rfl
theorem openMessageLimit (unit slot : Nat) : Statement (.openMessageLimit unit slot) := rfl
theorem rotationBoundary (unit : Nat) : Statement (.rotationBoundary unit) := rfl
theorem hardwareThrottle (unit level : Nat) : Statement (.hardwareThrottle unit level) := rfl
theorem matrixPeriod (unit : Nat) : Statement (.matrixPeriod unit) := rfl
theorem matrixStepComplete (unit : Nat) : Statement (.matrixStepComplete unit) := rfl
theorem tileOpComplete (id : Nat) : Statement (.tileOpComplete id) := rfl
theorem loadDelivery (id : Nat) : Statement (.loadDelivery id) := rfl
theorem errorDelivery (id : Nat) : Statement (.errorDelivery id) := rfl
theorem storeAcknowledge (id : Nat) : Statement (.storeAcknowledge id) := rfl
theorem writeBackArrival (src : WbSource) : Statement (.writeBackArrival src) := rfl
theorem syncAccessAtHome (id : Nat) : Statement (.syncAccessAtHome id) := rfl
theorem deferredResend (id : Nat) : Statement (.deferredResend id) := rfl
theorem waitCancel (id : Nat) : Statement (.waitCancel id) := rfl
theorem waitLimitExpiry (ctx : Nat) : Statement (.waitLimitExpiry ctx) := rfl
theorem moonletPerform (id : Nat) : Statement (.moonletPerform id) := rfl
theorem frameIncrement (id : Nat) : Statement (.frameIncrement id) := rfl
theorem frameDecrement (id : Nat) : Statement (.frameDecrement id) := rfl
theorem awaitAtHome (id : Nat) : Statement (.awaitAtHome id) := rfl
theorem awaitResend (id : Nat) : Statement (.awaitResend id) := rfl
theorem ringOpAtHome (id : Nat) : Statement (.ringOpAtHome id) := rfl
theorem stageOpAtHome (id : Nat) : Statement (.stageOpAtHome id) := rfl
theorem stealAtVictim (id : Nat) : Statement (.stealAtVictim id) := rfl
theorem stealResultDelivery (id : Nat) (w0 w1 : W64) : Statement (.stealResultDelivery id w0 w1) := rfl
theorem orreryClaim (id : Nat) : Statement (.orreryClaim id) := rfl
theorem cometArrival (id : Nat) : Statement (.cometArrival id) := rfl
theorem engineStart (id : Nat) : Statement (.engineStart id) := rfl
theorem engineComplete (id : Nat) : Statement (.engineComplete id) := rfl
theorem engineHandBack (id : Nat) : Statement (.engineHandBack id) := rfl
theorem collectivePerform (id : Nat) : Statement (.collectivePerform id) := rfl
theorem attnClosePerform (id : Nat) : Statement (.attnClosePerform id) := rfl
theorem kvEvictPerform (id : Nat) : Statement (.kvEvictPerform id) := rfl
theorem kvCompactMove (id : Nat) : Statement (.kvCompactMove id) := rfl
theorem tsuMissMessage (id : Nat) : Statement (.tsuMissMessage id) := rfl
theorem missResend (id : Nat) : Statement (.missResend id) := rfl
theorem tlbInvalidateComplete (id : Nat) : Statement (.tlbInvalidateComplete id) := rfl
theorem keySlotChange (id : Nat) : Statement (.keySlotChange id) := rfl
theorem filled (id : Nat) (image : List W64) : Statement (.filled id image) := rfl
theorem contextLineArrival (id : Nat) : Statement (.contextLineArrival id) := rfl
theorem replayAbandon (port : Port) : Statement (.replayAbandon port) := rfl
theorem contextL2Evict (cluster ctx : Nat) : Statement (.contextL2Evict cluster ctx) := rfl
theorem notPresent (id : Nat) : Statement (.notPresent id) := rfl
theorem protection (id : Nat) : Statement (.protection id) := rfl
theorem defer (id : Nat) : Statement (.defer id) := rfl
theorem patrolRead (read : Patrol) : Statement (.patrolRead read) := rfl
theorem rootSpawn (tag tenant : Nat) (payload : List W64) : Statement (.rootSpawn tag tenant payload) := rfl
theorem hostLoad (tag tenant : Nat) (payload : List W64) : Statement (.hostLoad tag tenant payload) := rfl
theorem hostStore (tag tenant : Nat) (payload : List W64) : Statement (.hostStore tag tenant payload) := rfl
theorem invalidMessage (header : W64) (payload : List W64) : Statement (.invalidMessage header payload) := rfl
theorem biasFlip (tag tenant : Nat) (payload : List W64) : Statement (.biasFlip tag tenant payload) := rfl
theorem peerAccess (req : PeerRequest) : Statement (.peerAccess req) := rfl
theorem hello (tag : Nat) (payload : List W64) : Statement (.hello tag payload) := rfl
theorem attestation (tag : Nat) (payload : List W64) : Statement (.attestation tag payload) := rfl
theorem keyStore (tag : Nat) (payload : List W64) : Statement (.keyStore tag payload) := rfl
theorem trackerReport (tag : Nat) (payload : List W64) : Statement (.trackerReport tag payload) := rfl
theorem raiseMinimumVersion (tag : Nat) (payload : List W64) : Statement (.raiseMinimumVersion tag payload) := rfl
theorem unknownSubkind (tag : Nat) (payload : List W64) : Statement (.unknownSubkind tag payload) := rfl
theorem pageMove (pa dest dclu : Nat) : Statement (.pageMove pa dest dclu) := rfl
theorem start (outcomes : List StartOutcome) (newFirmware : Bool) : Statement (.start outcomes newFirmware) := rfl
theorem deviceFault (code unit : Nat) : Statement (.deviceFault code unit) := rfl
theorem correctedSoftError (code die : Nat) : Statement (.correctedSoftError code die) := rfl
theorem accumulatorUncorrectable (unit : Nat) : Statement (.accumulatorUncorrectable unit) := rfl
theorem poisonWriteBack (array : CacheArray) (line : Nat) : Statement (.poisonWriteBack array line) := rfl
theorem contextLineUncorrectable (ctx : Nat) (lost : BitVec 16) : Statement (.contextLineUncorrectable ctx lost) := rfl
theorem tileUncorrectable (tenant index : Nat) : Statement (.tileUncorrectable tenant index) := rfl
theorem dequeEntryUncorrectable (unit entry : Nat) (tenantLost : Bool) : Statement (.dequeEntryUncorrectable unit entry tenantLost) := rfl
theorem tlbParityError (unit entry : Nat) : Statement (.tlbParityError unit entry) := rfl
theorem peerMessageForward (dest : Nat) (words : List W64) : Statement (.peerMessageForward dest words) := rfl

end Sys2Proof.Laws.HasWord
end

