-- ==== Sys2Proof/Tests/Slice0.lean ====
section
/-! SUPPORT. Tests of the model: words of the spec's tables decoded, terms that WellFormed refuses, one step on small states, and a
witness for the hypotheses of every statement.  Expected values are the spec's or computed by hand from its rules. -/

namespace Sys2Proof.Tests

open Sys2Proof.Machine Sys2Proof.Safety

set_option Elab.async false

/-! ## Small states -/

/-- The guard that always executes. -/
def t : Guard := Guard.always

/-- The book of a context that runs in slot 0 of IU 0. -/
def book : Book := Book.fresh (.l1 0) 0 (some 0)

/-- A line of tenant 1 with eight registers, CTX.PC at 0x7000. -/
def line (g : Vector W64 8) : Line := { fetchLine with g := g, pc := 0x7000 }

/-- The turn of slot 0 of IU 0 with a line in it, a word fetched, and a page at VA 0 that is PA 0. -/
def turn (l : Line) : State :=
  { (State.reset.placeWord 0x12345678).setCtx fetchCtx ⟨l, book⟩ with
    turnUnit := 0, turnSlot := 0, fetched := some 0x12345678 }

/-- The environment of that turn. -/
def env (l : Line) : Env := ⟨0, 0, fetchCtx, l, book⟩

/-- Registers 0x1010, 5, 0, 3, 0x8000000000000000, all ones, 0, 0x1004. -/
def regs : Vector W64 8 := #v[0x1010, 5, 0, 3, 0x8000000000000000, 0xFFFFFFFFFFFFFFFF, 0, 0x1004]

/-- The attributes of the page at VA 0. -/
def attr : PageAttr := ⟨1, 1, 0, true, false⟩

/-- Words laid out from the rows of the opcode table: one for every constructor of the family. -/
theorem test_decode_control :
    let t := Guard.always
    decode 0x06596968 = some (.br ⟨true, 5⟩ 0x4B4B4) ∧ decode 0x05F96969 = some (.call t 0x4B4B4) ∧
    decode 0x0A704000 = some (.jmp ⟨true, 7⟩ 1) ∧ decode 0x09F04001 = some (.callr t 1) ∧
    decode 0x0A900002 = some (.ret ⟨true, 9⟩) ∧ decode 0x0DF29430 = some (.pcmp t 5 1 2 .le) ∧
    decode 0x0EB294B1 = some (.fcmp ⟨true, 11⟩ 5 1 2 .bf .un) ∧ decode 0x0DF29872 = some (.pand t 5 6 7) ∧
    decode 0x0E429873 = some (.por ⟨true, 4⟩ 5 6 7) ∧ decode 0x0DF29874 = some (.pxor t 5 6 7) ∧
    decode 0x0E629805 = some (.pnot ⟨true, 6⟩ 5 6) ∧ decode 0x0DF29806 = some (.pmov t 5 6) ∧
    decode 0x0E801007 = some (.pget ⟨true, 8⟩ 1) ∧ decode 0x0DF01008 = some (.pset t 1) ∧
    decode 0x12A00000 = some (.trap ⟨true, 10⟩) ∧ decode 0x11F04001 = some (.rte t 1) ∧
    decode 0x12C05002 = some (.rteNewPc ⟨true, 12⟩ 1 2) ∧ decode 0x11F00003 = some (.bkpt t) ∧
    decode 0x12520447 = some (.csrr ⟨true, 5⟩ 1 0x47) ∧ decode 0x11F046C4 = some (.csrw t 1 0xC4) ∧
    decode 0x15F00000 = some .nop ∧ decode 0x15F4B4B4 = some (.hint t 0x4B4B4) := by decide

/-- Words laid out from the rows of the opcode table: one for every constructor of the family. -/
theorem test_decode_integer :
    let t := Guard.always
    decode 0x22929800 = some (.add ⟨true, 9⟩ 1 2 3) ∧ decode 0x21F29801 = some (.sub t 1 2 3) ∧
    decode 0x22B29802 = some (.and ⟨true, 11⟩ 1 2 3) ∧ decode 0x21F29803 = some (.or t 1 2 3) ∧
    decode 0x22429804 = some (.xor ⟨true, 4⟩ 1 2 3) ∧ decode 0x21F29805 = some (.andn t 1 2 3) ∧
    decode 0x22629806 = some (.shl ⟨true, 6⟩ 1 2 3) ∧ decode 0x21F29807 = some (.shrl t 1 2 3) ∧
    decode 0x22829808 = some (.shra ⟨true, 8⟩ 1 2 3) ∧ decode 0x21F29809 = some (.rotl t 1 2 3) ∧
    decode 0x22A2980A = some (.min ⟨true, 10⟩ 1 2 3) ∧ decode 0x21F2980B = some (.mins t 1 2 3) ∧
    decode 0x22C2980C = some (.max ⟨true, 12⟩ 1 2 3) ∧ decode 0x21F2980D = some (.maxs t 1 2 3) ∧
    decode 0x22529811 = some (.lea ⟨true, 5⟩ 1 2 3 0x1) ∧ decode 0x21F29825 = some (.sel t 1 2 3 5) ∧
    decode 0x2672B4B4 = some (.addi ⟨true, 7⟩ 1 2 0x34B4) ∧ decode 0x29F284B4 = some (.andi t 1 2 0x4B4) ∧
    decode 0x2A9294B4 = some (.ori ⟨true, 9⟩ 1 2 0x4B4) ∧ decode 0x29F2A4B4 = some (.xori t 1 2 0x4B4) ∧
    decode 0x2EB28034 = some (.shli ⟨true, 11⟩ 1 2 0x34) ∧ decode 0x2DF29034 = some (.shrli t 1 2 0x34) ∧
    decode 0x2E42A034 = some (.shrai ⟨true, 4⟩ 1 2 0x34) ∧ decode 0x2DF2B034 = some (.rotli t 1 2 0x34) := by decide

/-- Words laid out from the rows of the opcode table: one for every constructor of the family. -/
theorem test_decode_immediate_multiply_bits :
    let t := Guard.always
    decode 0x3262B4B4 = some (.lil ⟨true, 6⟩ 1 0xB4B4) ∧ decode 0x35F2B4B4 = some (.lih t 1 0xB4B4) ∧
    decode 0x3A829800 = some (.mul ⟨true, 8⟩ 1 2 3) ∧ decode 0x39F29801 = some (.mulh t 1 2 3) ∧
    decode 0x3AA29802 = some (.mulhs ⟨true, 10⟩ 1 2 3) ∧ decode 0x39F29803 = some (.div t 1 2 3) ∧
    decode 0x3AC29804 = some (.divs ⟨true, 12⟩ 1 2 3) ∧ decode 0x39F29805 = some (.rem t 1 2 3) ∧
    decode 0x3A529806 = some (.rems ⟨true, 5⟩ 1 2 3) ∧ decode 0x3DF28000 = some (.clz t 1 2) ∧
    decode 0x3E728001 = some (.ctz ⟨true, 7⟩ 1 2) ∧ decode 0x3DF28002 = some (.popc t 1 2) ∧
    decode 0x3E928003 = some (.bswap ⟨true, 9⟩ 1 2) ∧ decode 0x3DF29804 = some (.bext t 1 2 3) ∧
    decode 0x3EB29805 = some (.bins ⟨true, 11⟩ 1 2 3) := by decide

/-- Words laid out from the rows of the opcode table: one for every constructor of the family. -/
theorem test_decode_lanes :
    let t := Guard.always
    decode 0x41F29802 = some (.vadd t 1 2 3 .w32) ∧ decode 0x42429808 = some (.vsub ⟨true, 4⟩ 1 2 3 .b8) ∧
    decode 0x41F29811 = some (.vmul t 1 2 3 .h16) ∧ decode 0x4262981C = some (.vmin ⟨true, 6⟩ 1 2 3 true .b8) ∧
    decode 0x41F29821 = some (.vmax t 1 2 3 false .h16) ∧ decode 0x4282982A = some (.vadds ⟨true, 8⟩ 1 2 3 false .w32) ∧
    decode 0x41F29834 = some (.vsubs t 1 2 3 true .b8) ∧ decode 0x42A2983C = some (.vdot ⟨true, 10⟩ 1 2 3 true) ∧
    decode 0x41F28045 = some (.vred t 1 2 true .h16) := by decide

/-- Words laid out from the rows of the opcode table: one for every constructor of the family. -/
theorem test_decode_float_permute :
    let t := Guard.always
    decode 0x46C29802 = some (.fadd ⟨true, 12⟩ 1 2 3 .h) ∧ decode 0x45F29804 = some (.fsub t 1 2 3 .f32) ∧
    decode 0x46529809 = some (.fmul ⟨true, 5⟩ 1 2 3 .bf) ∧ decode 0x45F2980E = some (.fmin t 1 2 3 .h) ∧
    decode 0x46729810 = some (.fmax ⟨true, 7⟩ 1 2 3 .f32) ∧ decode 0x45F28014 = some (.fabs t 1 2 .f32) ∧
    decode 0x46928019 = some (.fneg ⟨true, 9⟩ 1 2 .bf) ∧ decode 0x45F2981C = some (.fdiv t 1 2 3 .f32) ∧
    decode 0x46B28020 = some (.fsqrt ⟨true, 11⟩ 1 2 .f32) ∧ decode 0x49F29802 = some (.ffma t 1 2 3 .h) ∧
    decode 0x4E428002 = some (.frcp ⟨true, 4⟩ 1 2 .h) ∧ decode 0x4DF28004 = some (.fexp2 t 1 2 .f32) ∧
    decode 0x4E628009 = some (.flog2 ⟨true, 6⟩ 1 2 .bf) ∧ decode 0x51F28013 = some (.cvt t 1 2 .bf .i32) ∧
    decode 0x56829801 = some (.vshuf ⟨true, 8⟩ 1 2 3 .h16) ∧ decode 0x55F29806 = some (.vpack t 1 2 3 .w32) ∧
    decode 0x56A2800A = some (.vbcast ⟨true, 10⟩ 1 2 .w32) := by decide

/-- Words laid out from the rows of the opcode table: one for every constructor of the family. -/
theorem test_decode_memory :
    let t := Guard.always
    decode 0x61F2B5B4 = some (.ld t 1 2 .ws ⟨2, true⟩ 0xB4) ∧ decode 0x66C29DB4 = some (.st ⟨true, 12⟩ 1 2 .d ⟨2, true⟩ 0xB4) ∧
    decode 0x69F29815 = some (.ldx t 1 2 3 .wz ⟨2, true⟩) ∧ decode 0x6E529815 = some (.stx ⟨true, 5⟩ 1 2 3 .w ⟨2, true⟩) ∧
    decode 0x71F04000 = some (.pref t 1) ∧ decode 0x72704001 = some (.cpf ⟨true, 7⟩ 1) ∧
    decode 0x71F04002 = some (.cdrop t 1) ∧ decode 0x72900403 = some (.recon ⟨true, 9⟩ .device) ∧
    decode 0x71F05004 = some (.pin t 1 2) ∧ decode 0x72B04005 = some (.unpin ⟨true, 11⟩ 1) := by decide

/-- Words laid out from the rows of the opcode table: one for every constructor of the family. -/
theorem test_decode_sync :
    let t := Guard.always
    decode 0x81F28200 = some (.take t 1 2 .cluster) ∧ decode 0x82405301 = some (.put ⟨true, 4⟩ 1 2 .die) ∧
    decode 0x81F28402 = some (.peek t 1 2 .device) ∧ decode 0x82605503 = some (.fill ⟨true, 6⟩ 1 2 .domain) ∧
    decode 0x81F28604 = some (.empty t 1 2 .system) ∧ decode 0x82828005 = some (.festat ⟨true, 8⟩ 1 2 .self) ∧
    decode 0x85F29A00 = some (.amoAdd t 1 2 3 .cluster) ∧ decode 0x86A29B01 = some (.amoMin ⟨true, 10⟩ 1 2 3 .die) ∧
    decode 0x85F29C02 = some (.amoMax t 1 2 3 .device) ∧ decode 0x86C29D03 = some (.amoAnd ⟨true, 12⟩ 1 2 3 .domain) ∧
    decode 0x85F29E04 = some (.amoOr t 1 2 3 .system) ∧ decode 0x86529805 = some (.amoXor ⟨true, 5⟩ 1 2 3 .self) ∧
    decode 0x85F29906 = some (.amoSwap t 1 2 3 .unit) ∧ decode 0x86729A07 = some (.amoCas ⟨true, 7⟩ 1 2 3 .cluster) ∧
    decode 0x85F29B08 = some (.amoFadd t 1 2 3 .die) ∧ decode 0x8A905000 = some (.moonAdd ⟨true, 9⟩ 1 2) ∧
    decode 0x89F05001 = some (.moonMin t 1 2) ∧ decode 0x8AB05002 = some (.moonMax ⟨true, 11⟩ 1 2) ∧
    decode 0x89F05003 = some (.moonOr t 1 2) ∧ decode 0x8A405004 = some (.moonFadd ⟨true, 4⟩ 1 2) := by decide

/-- Words laid out from the rows of the opcode table: one for every constructor of the family. -/
theorem test_decode_tile :
    let t := Guard.always
    decode 0xA1F29800 = some (.tadd t 1 2 3) ∧ decode 0xA2629801 = some (.tsub ⟨true, 6⟩ 1 2 3) ∧
    decode 0xA1F29802 = some (.tmul t 1 2 3) ∧ decode 0xA2829803 = some (.tmax ⟨true, 8⟩ 1 2 3) ∧
    decode 0xA1F29804 = some (.tscale t 1 2 3) ∧ decode 0xA2A29884 = some (.tscaleRdiv ⟨true, 10⟩ 1 2 3) ∧
    decode 0xA1F28005 = some (.texp t 1 2) ∧ decode 0xA2C28086 = some (.trsum ⟨true, 12⟩ 1 2 false true) ∧
    decode 0xA1F28107 = some (.trmax t 1 2 true false) ∧ decode 0xA2528008 = some (.tcvt ⟨true, 5⟩ 1 2) ∧
    decode 0xA1F28009 = some (.ttrans t 1 2) ∧ decode 0xA272800A = some (.tfill ⟨true, 7⟩ 1 2) ∧
    decode 0xA1F2980B = some (.tget t 1 2 3) ∧ decode 0xA292980C = some (.tset ⟨true, 9⟩ 1 2 3) := by decide

/-- Words laid out from the rows of the opcode table: one for every constructor of the family. -/
theorem test_decode_matrix_attention :
    let t := Guard.always
    decode 0xA5F05080 = some (.tmma t 1 2 0x1) ∧ decode 0xA6B05081 = some (.tmmaZ ⟨true, 11⟩ 1 2 0x1) ∧
    decode 0xA9F20080 = some (.accSt t 1 false 0x1) ∧ decode 0xAA404400 = some (.accStRaw ⟨true, 4⟩ 1) ∧
    decode 0xA9F04081 = some (.accLd t 1 0x1) ∧ decode 0xAA604401 = some (.accLdRaw ⟨true, 6⟩ 1) ∧
    decode 0xA9F00002 = some (.accZ t) ∧ decode 0xAA820003 = some (.accOwn ⟨true, 8⟩ 1) ∧
    decode 0xA9F04083 = some (.accOwnSet t 1) ∧ decode 0xAEA28000 = some (.ringPush ⟨true, 10⟩ 1 2) ∧
    decode 0xADF28001 = some (.ringPop t 1 2) ∧ decode 0xAEC28002 = some (.ringStat ⟨true, 12⟩ 1 2) ∧
    decode 0xADF29803 = some (.hndNew t 1 2 3) ∧ decode 0xAE529883 = some (.hndNewPair ⟨true, 5⟩ 1 2 3) ∧
    decode 0xADF04004 = some (.hndFree t 1) ∧ decode 0xAE728005 = some (.hndInfo ⟨true, 7⟩ 1 2) ∧
    decode 0xB1F05000 = some (.attnQk t 1 2) ∧ decode 0xB2929A01 = some (.attnSm ⟨true, 9⟩ 1 2 3 0x4) ∧
    decode 0xB1F29802 = some (.attnPv t 1 2 3) ∧ decode 0xB2B28203 = some (.attnClose ⟨true, 11⟩ 1 2 0x4) ∧
    decode 0xB1F29804 = some (.kvMap t 1 2 3) ∧ decode 0xB2429805 = some (.kvEvict ⟨true, 4⟩ 1 2 3) ∧
    decode 0xB1F28206 = some (.kvMass t 1 2 0x4) ∧ decode 0xB6628000 = some (.tq ⟨true, 6⟩ 1 2) ∧
    decode 0xB5F28080 = some (.tqAuto t 1 2) ∧ decode 0xB6828001 = some (.tdq ⟨true, 8⟩ 1 2) := by decide

/-- Words laid out from the rows of the opcode table: one for every constructor of the family. -/
theorem test_decode_engine :
    let t := Guard.always
    decode 0xC1F29C20 = some (.copy t 1 2 3 4 true false) ∧ decode 0xC2A29C21 = some (.copyT ⟨true, 10⟩ 1 2 3 4 true false) ∧
    decode 0xC5F29C40 = some (.gath t 1 2 3 4 false) ∧ decode 0xC6C29C41 = some (.gathii ⟨true, 12⟩ 1 2 3 4 false) ∧
    decode 0xC5F29C52 = some (.scat t 1 2 3 4 true) ∧ decode 0xCA529C70 = some (.graphLoad ⟨true, 5⟩ 1 2 3 4 true) ∧
    decode 0xC9F29C61 = some (.graphLoadF t 1 2 3 4 false) ∧ decode 0xCA729C62 = some (.streamOpen ⟨true, 7⟩ 1 2 3 4 false) ∧
    decode 0xC9F29C73 = some (.streamClose t 1 2 3 4 true) ∧ decode 0xCE929C90 = some (.collAr ⟨true, 9⟩ 1 2 3 4 true) ∧
    decode 0xCDF29C81 = some (.collBc t 1 2 3 4 false) ∧ decode 0xD2B00034 = some (.qfence ⟨true, 11⟩ 0x34) ∧
    decode 0xD1F04100 = some (.waitc t 1) ∧ decode 0xD2404200 = some (.wlim ⟨true, 4⟩ 1) := by decide

/-- Words laid out from the rows of the opcode table: one for every constructor of the family. -/
theorem test_decode_task :
    let t := Guard.always
    decode 0xE1F4B400 = some (.spawn t 0x4B4) ∧ decode 0xE2604001 = some (.spawnr ⟨true, 6⟩ 1) ∧
    decode 0xE1F20002 = some (.await t 1) ∧ decode 0xE2800003 = some (.done ⟨true, 8⟩) ∧
    decode 0xE1F05004 = some (.frame t 1 2) ∧ decode 0xE2A00005 = some (.yield ⟨true, 10⟩) ∧
    decode 0xE1F04006 = some (.migrate t 1) ∧ decode 0xE6C29900 = some (.dqPushRange ⟨true, 12⟩ 1 2 3) ∧
    decode 0xE5F29A00 = some (.dqPushTask t 1 2 3) ∧ decode 0xE6528001 = some (.dqPop ⟨true, 5⟩ 1 2) ∧
    decode 0xE5F29802 = some (.dqSteal t 1 2 3) ∧ decode 0xE6729803 = some (.dqSplit ⟨true, 7⟩ 1 2 3) ∧
    decode 0xE5F04004 = some (.dqCfg t 1) ∧ decode 0xE6900104 = some (.dqCfgThaw ⟨true, 9⟩) ∧
    decode 0xE5F20204 = some (.dqCfgGet t 1) ∧ decode 0xEAB05000 = some (.stgPush ⟨true, 11⟩ 1 2 .self) ∧
    decode 0xE9F28101 = some (.stgPop t 1 2 .unit) ∧ decode 0xEA428002 = some (.stgStat ⟨true, 4⟩ 1 2) := by decide

/-- Words laid out from the rows of the opcode table: one for every constructor of the family. -/
theorem test_decode_system :
    let t := Guard.always
    decode 0xF1F29800 = some (.tlbW t 1 2 3) ∧ decode 0xF2629801 = some (.tlbI ⟨true, 6⟩ 1 2 3) ∧
    decode 0xF1F29802 = some (.keyLd t 1 2 3) ∧ decode 0xF2828003 = some (.keyClr ⟨true, 8⟩ 1 2) ∧
    decode 0xF1F29804 = some (.slotSet t 1 2 3) ∧ decode 0xF2A05005 = some (.qwtSet ⟨true, 10⟩ 1 2) ∧
    decode 0xF1F29806 = some (.arenaSet t 1 2 3) ∧ decode 0xF6C28000 = some (.halt ⟨true, 12⟩ 1 2) ∧
    decode 0xF5F28001 = some (.haltQ t 1 2) ∧ decode 0xF6528002 = some (.resume ⟨true, 5⟩ 1 2) ∧
    decode 0xF5F28003 = some (.step t 1 2) := by decide

/-! ## Ill-formed terms -/

/-- One ill-formed term for each check of WellFormed, which the check refuses. -/
theorem test_ill_formed :
    (Instr.pcmp t 1 2 3 .ltz).wellFormed = false ∧ (Instr.pcmp t 1 2 3 .lez).wellFormed = false ∧
    (Instr.cvt t 1 2 .f32 .f32).wellFormed = false ∧ (Instr.csrr t 1 0x1FF).wellFormed = false ∧
    (Instr.csrw t 1 0x1FF).wellFormed = false ∧ (Instr.hint t 0).wellFormed = false ∧ (Instr.dqPop t 1 1).wellFormed = false ∧
    (Instr.dqSteal t 2 2 0).wellFormed = false ∧ (Instr.dqSplit t 3 3 0).wellFormed = false := by decide

/-! ## Words that the spec writes out -/

/-- The words of the worked examples of 03_encoding, 04_assembly, 06_scalar_isa, 14_system_isa and of the programs. -/
theorem test_spec_words :
    decode 0x31F20000 = some (.lil t 1 0) ∧ decode 0x21F24000 = some (.add t 1 1 0) ∧
    decode 0x25F03FFF = some (.addi t 0 0 0x3FFF) ∧ decode 0x0DF08050 = some (.pcmp t 1 0 0 .lez) ∧
    decode 0x061FFFFA = some (.br ⟨true, 1⟩ 0x7FFFD) ∧ decode 0x09F00002 = some (.ret t) ∧
    decode 0x41F6503C = some (.vdot t 3 1 2 true) ∧ decode 0x11F20407 = some (.csrr t 1 0x007) ∧
    decode 0x11F08640 = some (.csrw t 2 0x040) := by decide

/-! ## Worked examples of the spec -/

/-- A register after an instruction of a turn with some registers. -/
def regAfter (i : Instr) (g : Vector W64 8) (r : Reg) : Option W64 :=
  match exec i (turn (line g)) with
  | .next s => (s.ctx? fetchCtx).map (fun c => c.line.reg r)
  | _ => none

/-- A predicate after it. -/
def predAfter (i : Instr) (g : Vector W64 8) (p : Nat) : Option Bool :=
  match exec i (turn (line g)) with
  | .next s => (s.ctx? fetchCtx).map (fun c => c.line.pred.getLsbD p)
  | _ => none

/-- 06_scalar_isa, the worked example of R126: one register, four readings. -/
theorem test_vector_readings :
    let g : Vector W64 8 := #v[0, 0x807F01FF0203FE10, 0x0202020202020202, 0, 0, 0, 0, 0]
    regAfter (.vdot t 3 1 2 true) g 3 = some 0xFFFFFFFE00000026 ∧
    regAfter (.vdot t 3 1 2 false) g 3 = some 0x000003FE00000226 ∧
    regAfter (.vadds t 4 1 2 true .b8) g 4 = some 0x827F030104050012 ∧
    regAfter (.vadds t 4 1 2 false .b8) g 4 = some 0x828103FF0405FF12 ∧
    regAfter (.vadd t 4 1 2 .b8) g 4 = some 0x8281030104050012 ∧
    regAfter (.vred t 5 1 true .b8) g 5 = some 18 ∧ regAfter (.vred t 5 1 false .b8) g 5 = some 786 := by
  decide +kernel

/-- 06_scalar_isa, the worked example of R122: one pass of the counted loop, from g0 = 1 and g1 = 9. -/
theorem test_loop_pass :
    let g : Vector W64 8 := #v[1, 9, 0, 0, 0, 0, 0, 0]
    regAfter (.add t 1 1 0) g 1 = some 10 ∧ regAfter (.addi t 0 0 0x3FFF) g 0 = some 0 ∧
    predAfter (.pcmp t 1 0 0 .lez) g 1 = some false ∧ predAfter (.pcmp t 1 2 0 .lez) g 1 = some true := by decide +kernel

/-- R115, R122: a sum wraps; a field of length 0 and one that reaches past bit 63. -/
theorem test_add_wraps :
    regAfter (.add t 2 0 1) #v[0xFFFFFFFFFFFFFFFF, 2, 0, 0, 0, 0, 0, 0] 2 = some 1 ∧
    regAfter (.bext t 2 0 1) #v[0xF000000000000001, 0x3C7F, 0, 0, 0, 0, 0, 0] 2 = some 0xF ∧
    regAfter (.bins t 2 0 1) #v[0xFF, 0x3C40, 0x1, 0, 0, 0, 0, 0] 2 = some 0xF000000000000001 ∧
    regAfter (.bins t 2 0 1) #v[0xFF, 0x0400, 0x55, 0, 0, 0, 0, 0] 2 = some 0x55 := by decide +kernel

/-- 06_scalar_isa, the worked example of R131: one rounding, and two. -/
theorem test_fma_rounds_once :
    let g : Vector W64 8 := #v[0, 0x3F800001, 0x3F800001, 0xBF800002, 0x3F800002, 0, 0, 0]
    regAfter (.ffma t 3 1 2 .f32) g 3 = some 0x28800000 ∧ regAfter (.fmul t 4 1 2 .f32) g 4 = some 0x3F800002 ∧
    regAfter (.fadd t 4 4 3 .f32) g 4 = some 0 := by decide +kernel

/-- 05_numbers, the worked example of R91: one value in every mode, to BF16 and to FP16. -/
theorem test_one_value_every_mode :
    [Round.rne, .rtz, .rdn, .rup, .rna].map (fun m =>
      ((bf16.convert m (fp32.unpack 0x3EAAAAAB)).1, (fp16.convert m (fp32.unpack 0x3EAAAAAB)).1)) =
    [(0x3EAB, 0x3555), (0x3EAA, 0x3555), (0x3EAA, 0x3555), (0x3EAB, 0x3556), (0x3EAB, 0x3555)] := by decide +kernel

/-- 05_numbers, the worked example of R103: three FP32 terms in the order of the slices. -/
theorem test_reduction_order : mergeSlices addRne [0x4B800000, 0x3F800000, 0x3F800000] = some 0x4B800000 := by decide +kernel

/-- 09_hierarchy, the worked example of R248: a PE dequantises a quarter of its northern neighbour's result. -/
theorem test_pe_dequantises : peResult [] 0xA142400100082C00 0xF0A30000 0 = 0x3EE0BF003E00BEA0 := by decide +kernel

/-- 02_contexts, the worked example of R37: a handle and its entry. -/
theorem test_handle_example :
    let r := entryRef 0x410007 0x7F0000000820 0 0x0007000000000111 0x000000000C011920 0 0
    handleIndex 0x410007 = 65 ∧ handleGen 0x410007 = 7 ∧ r.kind = 1 ∧ r.dim = 32 ∧ r.fmt = 1 ∧ r.off = 192 ∧
    tileBytes r.fmt r.dim = 2048 := by decide

/-- 13_isolation, the worked example of R362: the entry of a 2 MiB page gives PA, home and permissions. -/
theorem test_translation_example :
    let e := imageEntry 0x00007F1000202801 0x0000001200402800 0x0000037100000003 false
    e.tenant = 40 ∧ e.size = 2 ^ 21 ∧ e.addr 0x7F1000234568 = 0x1200434568 ∧ stackOf (e.addr 0x7F1000234568) = 1 ∧
    e.kslot = 40 ∧ e.hsel = 881 ∧ e.permits accRead = true ∧ e.permits accExec = false ∧ e.permits accRmw = true ∧
    e.covers 41 0x7F1000234568 = false := by decide

/-- 16_recovery, the worked example of R424: two records of a start. -/
theorem test_start_records :
    startRecord 258 5 7 0 1 1 0 = 0x0102050700000110 ∧ startRecord 258 8 13 2 2 1 1 = 0x0102080D00020211 := by decide

/-- 16_recovery, R423: the capability word of a start in which stack 7 runs slow and cluster 13 is fenced. -/
theorem test_capability :
    ({ State.reset.start with slow := 0x80, clusters := 0xDFFF } : StartInfo).capability =
      0xBFFFF0800DFFFFFF := by decide

/-- R47, R51: the step after reset with a word placed runs it; the word 0 is illegal and traps with cause 0x01. -/
theorem test_step_runs :
    (match step (State.reset.withFetchWord 32 0x31F2002A) with
      | .next s => (s.ctx? fetchCtx).map (fun c => (c.line.reg 1, c.line.pc))
      | _ => none) = some (0x2A, 4) ∧
    (match step (State.reset.withFetchWord 32 0) with
      | .next s => (s.ctx? fetchCtx).map (fun c => (c.line.st, c.line.cause, c.line.pc))
      | _ => none) = some (.trapped, 0x01, 0) := by decide +kernel
/-! ## Witnesses: the hypotheses of every statement met by a concrete state -/

/-- The turn used where a statement asks for no more. -/
def s0 : State := turn (line regs)
def e0 : Env := env (line regs)

theorem witness_DecodingInvertsEncoding :
    ((Instr.add t 1 2 3).wellFormed = true ∧ (Instr.add t 1 2 3).isEvent = false) ∧
    decode 0x21F24000 = some (.add t 1 1 0) := by decide

/-- The hypotheses of StepRunsDecodedInstruction, with the word that the turn fetches. -/
def FetchTurn (s : State) (u k va : Nat) (c : Ctx) (x : TlbEntry) (w : W32) : Prop :=
  s.agenda = [] ∧ s.wireTurn = false ∧ s.focusUnit = u ∧ s.faulted = false ∧ s.unitUp u = true ∧
  (s.unit u).running = none ∧ (s.unit u).boundaryDone = true ∧ (s.unit u).periodDone = true ∧
  rotSlot (s.unit u).rot ((s.unit u).cycle % 16) = k ∧ (s.unit u).level ≤ rev4 ((s.unit u).cycle % 16) ∧
  (s.slot u k).occ = some va ∧ s.ctx? va = some c ∧ c.line.st = .issuing ∧ c.book.owner = .l1 u ∧ c.book.ranOn = some u ∧
  c.line.openMsg = false ∧ c.book.traps = [] ∧ c.line.stepOn = false ∧
  (s.tenant c.line.tenant).bk.any (fun b => b.2 && b.1 == c.line.pc) = false ∧
  s.xlate u c.line.tenant c.line.pc.toNat accExec = .ok x ∧ Intact s (x.addr c.line.pc.toNat) x.kslot ∧
  s.fifoHead u none = none ∧
  BitVec.ofNat 32 (ofBytes (Memory.readN s.mem (x.addr c.line.pc.toNat) 4)) = w

theorem witness_StepRunsDecodedInstruction :
    FetchTurn (State.reset.withFetchWord 32 0x21F24000) 0 0 fetchCtx ⟨fetchLine, book⟩ fetchPage 0x21F24000 ∧
    decode 0x21F24000 = some (.add t 1 1 0) := by
  unfold FetchTurn Intact; decide +kernel

theorem witness_StepRunsDecodedInstruction_illegal :
    FetchTurn (State.reset.withFetchWord 32 0) 0 0 fetchCtx ⟨fetchLine, book⟩ fetchPage 0 ∧ decode 0 = none := by
  unfold FetchTurn Intact; decide +kernel

/-- The state that a step answers, if it answers one. -/
def nextOf (o : Host.Outcome State Fault Refusal) : Option State :=
  match o with
  | .next s => some s
  | _ => none

theorem witness_StepKeepsForms : (nextOf (step State.reset)).isSome = true ∧ MemoryOk State.reset := by
  unfold MemoryOk; decide +kernel

theorem witness_MemoryReadAfterWrite :
    Intact s0 0x1000 1 ∧ Memory.wf s0.mem = true ∧
    (({ s0 with quarantine := [(0x40, (1, false))] } : State).storeBlock 1 (cellsAt 0x1000 [7])).2 ≠ none := by
  unfold Intact; decide +kernel

theorem witness_TurnsWithoutEffect :
    s0.env? = some e0 ∧ encode (.add ⟨true, 31⟩ 1 2 3) = some 0x23F29800 ∧ e0.line.guard (wGuard 0x23F29800) = false ∧
    e0.line.priv = false ∧
    (turn { line regs with priv := true }).env? = some (env { line regs with priv := true }) ∧
    (turn ((line regs).setPend 1)).env? = some (env ((line regs).setPend 1)) ∧
    (env ((line regs).setPend 1)).line.pending 1 = true ∧ (env ((line regs).setPend 1)).line.pending 2 = false ∧
    (env ((line regs).setPend 1)).line.guard t = true ∧ book.wasted < 3 := by decide +kernel

theorem witness_IntegerResults : Turn s0 e0 t [2, 0, 1] true ∧ Turn s0 e0 t [2, 0] true ∧ Turn s0 e0 t [2] true ∧
    Turn s0 e0 t [0, 1] true ∧ Turn s0 e0 t [0] true := by
  unfold Turn; decide +kernel

theorem witness_MultiplyDivideResults : Turn s0 e0 t [2, 0, 1] true ∧ e0.line.reg 1 ≠ 0 := by unfold Turn; decide +kernel

theorem witness_DivideCorners :
    (Turn s0 e0 t [2, 0, 6] true ∧ e0.line.reg 6 = 0) ∧
    (Turn s0 e0 t [2, 4, 5] true ∧ e0.line.reg 4 = 0x8000000000000000 ∧ e0.line.reg 5 = 0xFFFFFFFFFFFFFFFF) := by
  unfold Turn; decide +kernel

theorem witness_BitFieldResults : Turn s0 e0 t [2, 0] true ∧ Turn s0 e0 t [2, 0, 1] true := by unfold Turn; decide +kernel

theorem witness_ControlTransferResults :
    Turn s0 e0 t [] true ∧ Turn s0 e0 t [7] true ∧ (Turn s0 e0 t [0] true ∧ (e0.line.reg 0).toNat % 4 = 0) ∧
    (Turn s0 e0 t [1] true ∧ (e0.line.reg 1).toNat % 4 ≠ 0) ∧ (Turn s0 e0 t [0, 7] true ∧ (e0.line.reg 0).toNat % 4 = 0) ∧
    (Turn s0 e0 t [1, 7] true ∧ (e0.line.reg 1).toNat % 4 ≠ 0) ∧ (e0.line.reg 7).toNat % 4 = 0 := by
  unfold Turn; decide +kernel

theorem witness_ControlTransferResults_misaligned :
    let l := line #v[0, 0, 0, 0, 0, 0, 0, 0x1002]
    Turn (turn l) (env l) t [7] true ∧ ((env l).line.reg 7).toNat % 4 ≠ 0 := by unfold Turn; decide +kernel

theorem witness_HintsDoNothing : s0.env? = some e0 := by decide +kernel

theorem witness_PredicateResults : Turn s0 e0 t [0, 1] true ∧ Turn s0 e0 t [0] true := by unfold Turn; decide +kernel

theorem witness_PredicateResults_float :
    (fp32.unpack 0x7F800001 = .nan true) ∧ (fp32.unpack 0x7FC00000).isNan ∧ (fp32.unpack 0x3F800000).isNan = false ∧
    fp32.unpack 0 = .fin false 0 (-149) ∧ fp32.unpack 0x80000000 = .fin true 0 (-149) ∧
    fp32.unpack 0x3F800000 = .fin false 0x800000 (-23) ∧ fp32.unpack 0x7F800000 = .inf false ∧
    fp32.unpack 0xFF800000 = .inf true := by decide +kernel

theorem witness_PredicateLogic : Turn s0 e0 t [] true ∧ Turn s0 e0 t [2] true := by unfold Turn; decide +kernel

theorem witness_FloatValueRules : (0 : Int) < 1 := by decide

theorem witness_ShortVectorResults : Turn s0 e0 t [2, 0, 1] true ∧ Turn s0 e0 t [2, 0] true := by unfold Turn; decide +kernel

theorem witness_FloatLaneResults : Turn s0 e0 t [2, 0, 1] true ∧ Turn s0 e0 t [2, 0] true := by unfold Turn; decide +kernel

/-! ### Loads and stores -/

/-- What LoadsIssue and StoresIssue ask of an address beside its form. -/
def Reaches (s : State) (e : Env) (va size acc : Nat) (x : TlbEntry) : Prop :=
  va % size = 0 ∧ s.arenaOf va = none ∧ s.xlate e.u e.line.tenant va acc = .ok x ∧ isStack (x.addr va) = true ∧
  s.hostBias (x.addr va) = false ∧ (s.pageRec (x.addr va / 65536)).moved = false

theorem witness_LoadsIssue :
    LoadOf s0 e0 (.ld t 2 0 .d ⟨0, false⟩ 1) 2 .d ⟨0, false⟩ 0x1018 ∧ Reaches s0 e0 0x1018 8 accRead fetchPage ∧
    s0.acquireMask e0.va = 0 ∧ s0.fillPending e0.va = false ∧ e0.line.loads < 63 ∧ SlicesSound (s0.verify 0x1018 1).1 :=
  ⟨.inl ⟨t, 0, 1, rfl, by unfold Turn; decide +kernel, by decide +kernel⟩, by unfold Reaches; decide +kernel,
    by decide +kernel, by decide +kernel, by decide, by unfold SlicesSound Intact; decide +kernel⟩

/-- The same load of a block whose data are lost. -/
theorem witness_LoadsIssue_error :
    (({ s0 with quarantine := [(0x40, (1, false))] } : State).verify 0x1018 1).2 = some 8 ∧
    SlicesSound (({ s0 with quarantine := [(0x40, (1, false))] } : State).verify 0x1018 1).1 ∧
    (decide (e0.u < 1536) && ({ s0 with quarantine := [(0x40, (1, false))] } : State).present 0 0x1018 8) = false := by
  unfold SlicesSound Intact; decide +kernel

theorem witness_LoadsIssue_indexed : LoadOf s0 e0 (.ldx t 2 0 3 .wz ⟨1, true⟩) 2 .wz ⟨1, true⟩ 0x101C :=
  .inr ⟨t, 0, 3, rfl, by unfold Turn; decide +kernel, by decide +kernel⟩

theorem witness_StoresIssue :
    StoreOf s0 e0 (.st t 4 0 .d ⟨1, false⟩ 1) 4 .d ⟨1, false⟩ 0x1018 ∧ Reaches s0 e0 0x1018 8 accWrite fetchPage ∧
    e0.u < 1536 ∧ RoomInL1 s0 e0.u (0x1018 / 64) :=
  ⟨.inl ⟨t, 0, 1, rfl, by unfold Turn; decide +kernel, by decide +kernel⟩, by unfold Reaches; decide +kernel, by decide,
    .inl (by decide +kernel)⟩

/-- The book and the turn of a context that runs on the first CIU. -/
def cBook : Book := { book with owner := .l1 1536, ranOn := some 1536 }
def cTurn (l : Line) : State :=
  { State.reset.placeWord 0 with
    lines := [(fetchCtx, ⟨l, cBook⟩)], turnUnit := 1536, turnSlot := 0, fetched := some 0x12345678
    units := [(1536, { Unit.reset with
      slots := setNth Unit.reset.slots 0 ⟨some 0, some fetchCtx, 0⟩, tlb := [fetchPage] })] }
def cEnv (l : Line) : Env := ⟨1536, 0, fetchCtx, l, cBook⟩

theorem witness_StoresIssue_ciu :
    StoreOf (cTurn (line regs)) (cEnv (line regs)) (.stx t 4 0 3 .w ⟨1, true⟩) 4 .w ⟨1, true⟩ 0x101C ∧
    Reaches (cTurn (line regs)) (cEnv (line regs)) 0x101C 4 accWrite fetchPage ∧ 1536 ≤ (cEnv (line regs)).u ∧
    (cEnv (line regs)).line.stores < 63 :=
  ⟨.inr ⟨t, 0, 3, rfl, by unfold Turn; decide +kernel, by decide +kernel⟩, by unfold Reaches; decide +kernel, by decide,
    by decide⟩

/-- A line whose g0 is misaligned. -/
def oddLine : Line := line #v[0x1011, 2, 0, 0, 0, 0, 0, 0]

theorem witness_MisalignedAccessesTrap :
    LoadOf (turn oddLine) (env oddLine) (.ld t 2 0 .d ⟨0, false⟩ 0) 2 .d ⟨0, false⟩ 0x1011 ∧
    StoreOf (turn oddLine) (env oddLine) (.st t 2 0 .h ⟨0, false⟩ 0) 2 .h ⟨0, false⟩ 0x1011 ∧
    Turn (turn oddLine) (env oddLine) t [2, 0] true ∧ Turn (turn oddLine) (env oddLine) t [0, 2] true ∧
    Turn (turn oddLine) (env oddLine) t [0, 2] false ∧ Turn (turn oddLine) (env oddLine) t [2, 0, 1] true ∧
    (turn oddLine).acquireMask fetchCtx = 0 ∧ (turn oddLine).fillPending fetchCtx = false ∧
    0x1011 = ((env oddLine).line.reg 0).toNat % 2 ^ 56 ∧ 0x1011 % 8 ≠ 0 ∧ 0x1011 % 2 ≠ 0 :=
  ⟨.inl ⟨t, 0, 0, rfl, by unfold Turn; decide +kernel, by decide +kernel⟩,
    .inl ⟨t, 0, 0, rfl, by unfold Turn; decide +kernel, by decide +kernel⟩, by unfold Turn; decide +kernel⟩

theorem witness_ResidencyInstructions :
    Turn s0 e0 t [0] false ∧ s0.arenaOf 0x1010 = none ∧ s0.xlate 0 1 0x1010 accRead = .ok fetchPage ∧
    s0.xlate 0 1 0x1010 accWrite = .ok fetchPage ∧ isStack 0x1000 = true ∧ s0.hostBias 0x1000 = false ∧
    s0.verify 0x1000 1 = (s0, none) ∧ SlicesSound s0 ∧ RoomInL1 s0 0 (0x1000 / 64) := by
  unfold Turn SlicesSound Intact; exact ⟨by decide +kernel, by decide +kernel, by decide +kernel, by decide +kernel,
    by decide +kernel, by decide +kernel, by decide +kernel, by decide +kernel, .inl (by decide +kernel)⟩

/-- The same prefetch of a quarantined block, and one on a CIU. -/
theorem witness_ResidencyInstructions_failing :
    (({ s0 with quarantine := [(0x40, (1, false))] } : State).verify 0x1000 1).2 ≠ none ∧
    Turn { s0 with quarantine := [(0x40, (1, false))] } e0 t [0] false ∧
    Turn (cTurn (line regs)) (cEnv (line regs)) t [0] true ∧ 1536 ≤ (cEnv (line regs)).u := by unfold Turn; decide +kernel

/-- An address that no entry translates. -/
theorem witness_ResidencyInstructions_untranslated : s0.xlate 0 1 0x80000000000000 accRead = .error .miss ∧
    Turn s0 e0 t [4] false := by unfold Turn; decide +kernel

/-- The turn with one dirty and one clean byte in the data L1. -/
def dirtyTurn : State :=
  s0.modUnit 0 (fun x => { x with
    dl1 := [(0x2000, ⟨1, false, attr, ⟨0, false⟩⟩), (0x2040, ⟨2, true, attr, ⟨0, false⟩⟩)] })

theorem witness_ResidencyInstructions_reconcile :
    Turn s0 e0 t [] true ∧ s0.ctx? e0.va = some ⟨e0.line, e0.book⟩ ∧ e0.line.loads = 0 ∧ e0.line.stores = 0 ∧
    s0.dirtyLines e0.u = [] ∧ s0.releasing e0.u = false ∧ Turn dirtyTurn e0 t [] true ∧ dirtyTurn.ctx? e0.va = some ⟨e0.line, e0.book⟩ ∧
    dirtyTurn.dirtyLines e0.u ≠ [] ∧ e0.book.recPend = false ∧ e0.line.st = .issuing ∧
    e0.line.stores + (dirtyTurn.dirtyLines e0.u).length ≤ 63 := by unfold Turn; decide +kernel

/-! ### Full/empty accesses, atomic operations, moonlets -/

/-- What a check gave, if it passed. -/
def okOf {ε α : Type} : Except ε α → Option α
  | .ok a => some a
  | .error _ => none

theorem of_okOf {ε α : Type} {r : Except ε α} {x : α} (h : okOf r = some x) : r = .ok x := by
  cases r with
  | ok a => cases h; rfl
  | error e => cases h

theorem witness_SyncIssue :
    s0.syncTarget e0 0x1010 = .ok (fetchPage, 0, 0x1010) ∧ 0x1010 = (e0.line.reg 0).toNat % 2 ^ 56 ∧ e0.u < 1536 ∧
    e0.line.loads = 0 ∧ e0.line.stores = 0 ∧ Turn s0 e0 t [2, 0] true ∧ Turn s0 e0 t [0, 1] true ∧
    Turn s0 e0 t [0, 1] false ∧ CanPark s0 e0 :=
  ⟨of_okOf (by decide +kernel), by unfold Turn CanPark; decide +kernel⟩

/-- A full/empty access under way to its home, the word full or empty. -/
def syncReq (op : SyncOp) : SyncReq := ⟨fetchCtx, 0, attr, op, 0x1010, 0x1010, 2, 7, .device, 5⟩
def syncState (op : SyncOp) (full : Bool) : State :=
  { s0 with wire := [(5, .sync (syncReq op))], nextId := 9, feEmpty := if full then [] else [0x1010] }

/-- The hypotheses of FullEmptyAtHome for an operation. -/
def AtHome (op : SyncOp) (full : Bool) : Prop :=
  (syncState op full).msg? 5 = some (.sync (syncReq op)) ∧ (syncState op full).released 0 5 = true ∧
  (syncState op full).behind 5 0 0x1010 = false ∧ (syncReq op).attr.trace = false ∧ (syncReq op).pa % 8 = 0 ∧
  Intact (syncState op full) 0x1010 1 ∧ (syncState op full).deferredAt 0x1010 = [] ∧ (syncState op full).faulted = false ∧
  SlicesSound (syncState op full) ∧ (syncState op full).isFull 0x1010 = full ∧ (syncState op full).deferredCount (stackOf 0x1010) < 4194304

theorem witness_FullEmptyAtHome :
    AtHome .take true ∧ AtHome .peek true ∧ AtHome .put false ∧ AtHome .fill false ∧ AtHome .empty true ∧
    AtHome .festat true ∧ AtHome .take false ∧ AtHome .put true := by
  unfold AtHome SlicesSound Intact; and_intros <;> decide +kernel

/-- The turn on the CIU that serves the word at 0x1010. -/
def aUnit : Nat := servingCiu 0x1010
def aBook : Book := { book with owner := .l1 aUnit, ranOn := some aUnit }
def aTurn : State :=
  { s0 with
    lines := [(fetchCtx, ⟨line regs, aBook⟩)], turnUnit := aUnit
    units := [(aUnit, { Unit.reset with
      slots := setNth Unit.reset.slots 0 ⟨some 0, some fetchCtx, 0⟩, tlb := [fetchPage] })] }
def aEnv : Env := ⟨aUnit, 0, fetchCtx, line regs, aBook⟩

theorem witness_AtomicOperations :
    aTurn.syncTarget aEnv 0x1010 = .ok (fetchPage, aTurn.device, 0x1010) ∧ Turn aTurn aEnv t [2, 0, 1] true ∧
    servingCiu 0x1010 = aEnv.u ∧ aEnv.line.loads = 0 ∧ aEnv.line.stores = 0 ∧ fetchPage.trace = false ∧
    Intact aTurn 0x1010 fetchPage.kslot ∧ SlicesSound aTurn :=
  ⟨of_okOf (by decide +kernel), by unfold Turn SlicesSound Intact; decide +kernel⟩

theorem witness_AtomicOperations_travel :
    s0.syncTarget e0 0x1010 = .ok (fetchPage, s0.device, 0x1010) ∧ Turn s0 e0 t [2, 0, 1] true ∧
    servingCiu 0x1010 ≠ e0.u ∧ e0.line.openMsg = false ∧ e0.book.owner = .l1 e0.u ∧ e0.line.loads = 0 ∧
    e0.line.stores = 0 ∧ e0.u < 1536 :=
  ⟨of_okOf (by decide +kernel), by unfold Turn; decide +kernel⟩

/-- The turn on a CIU that does not serve that word. -/
theorem witness_AtomicOperations_return :
    let s := cTurn (line #v[0x1050, 5, 0, 0, 0, 0, 0, 0])
    let e := cEnv (line #v[0x1050, 5, 0, 0, 0, 0, 0, 0])
    s.syncTarget e 0x1050 = .ok (fetchPage, s.device, 0x1050) ∧ Turn s e t [2, 0, 1] true ∧
    0x1050 = (e.line.reg 0).toNat % 2 ^ 56 ∧ servingCiu 0x1050 ≠ e.u ∧ e.line.openMsg = false ∧ e.book.owner = .l1 e.u ∧ 1536 ≤ e.u :=
  ⟨of_okOf (by decide +kernel), by unfold Turn; decide +kernel⟩

/-- A message of the context's own under way, the context READY with three stores. -/
def msgState (m : Msg) (st : CtxState) : State :=
  { s0 with
    lines := [(fetchCtx, ⟨{ line regs with st := st, stores := if st = .ready then 3 else 0 }, book⟩)]
    wire := [(5, m)], nextId := 9 }
def msgCtx : Ctx := ⟨{ line regs with st := .ready, stores := 3 }, book⟩

theorem witness_MoonletsAtTheirHome :
    let s := msgState (.moonlet fetchCtx 0 attr .add 0x1010 0x1010 7) .ready
    s.msg? 5 = some (.moonlet fetchCtx 0 attr .add 0x1010 0x1010 7) ∧ s.behind 5 0 0x1010 = false ∧
    s.released 0 5 = true ∧ s.ctx? fetchCtx = some msgCtx ∧ msgCtx.line.st = .ready ∧ attr.trace = false ∧
    Intact s 0x1010 attr.kslot ∧ s.faulted = false ∧ SlicesSound s := by unfold SlicesSound Intact; decide +kernel

/-! ### Tasks -/

/-- A turn of a line whose cluster caches free lines of its tenant. -/
def taskTurn (l : Line) : State :=
  { turn l with
    clusters := [(0, { Cluster.reset with cache := [(1, [0x100100, 0x100180, 0x100200])] })]
    tenants := [(1, { Tenant.reset with qset := 1 })] }
def frameLine : Line := { line regs with frame := 0x1020, join := 0x1040 }

theorem witness_SpawnRunsTheChild :
    let s := taskTurn frameLine
    let e := env frameLine
    s.frameTarget e e.line.frame = .ok (some (fetchPage, 0x1020)) ∧
    (∃ s1, s.allocFrom e.u (e.u / 96) e.line.tenant = some (0x100200, s1)) ∧
    Turn s e t [0, 1, 2, 3, 4, 5, 6, 7] false ∧ e.line.openMsg = false ∧ e.line.haltReq = false ∧
    e.book.owner = .l1 e.u ∧ e.line.stores < 63 ∧ (e.line.reg 0).toNat % 2 ^ 56 % 4 = 0 ∧ 0x100200 ≠ e.va ∧
    s.dequeAccepts e.u e.line.tenant = true ∧ s.framePending e.va = false ∧ s.l1Count e.u < 256 ∧
    s.queueOk e.line.tenant e.line.queue = true :=
  ⟨of_okOf (by decide +kernel), ⟨_, rfl⟩, by unfold Turn; decide +kernel⟩

/-- The same without a frame, and a deque that is frozen. -/
theorem witness_SpawnRunsTheChild_frozen :
    ((taskTurn (line regs)).setFrozen 0 1 true).dequeAccepts 0 1 = false ∧
    okOf ((taskTurn (line regs)).frameTarget e0 e0.line.frame) = some none := by decide +kernel

theorem witness_SpawnAndOpenMessageTraps :
    Turn s0 e0 t [0, 1, 2, 3, 4, 5, 6, 7] false ∧ e0.line.openMsg = false ∧ (e0.line.reg 1).toNat % 4 ≠ 0 ∧
    s0.framePending e0.va = false ∧ e0.line.frame = 0 ∧ (s0.allocFrom e0.u (e0.u / 96) e0.line.tenant).isNone ∧ (e0.line.reg 0).toNat % 4 = 0 := by
  unfold Turn; decide +kernel

def openLine : Line := { line regs with openMsg := true }

theorem witness_SpawnAndOpenMessageTraps_open :
    Turn (turn openLine) (env openLine) t [0, 1, 2, 3, 4, 5, 6, 7] false ∧ Turn (turn openLine) (env openLine) t [] false ∧
    Turn (turn openLine) (env openLine) t [0] false ∧ Turn (turn openLine) (env openLine) t [0, 1] false ∧
    Turn (turn openLine) (env openLine) t [0] true ∧ Turn (turn openLine) (env openLine) t [0, 1] true ∧
    (env openLine).line.openMsg = true := by unfold Turn; decide +kernel

theorem witness_TaskInstructions :
    Turn s0 e0 t [2] false ∧ e0.line.frame = 0 ∧ e0.line.openMsg = false ∧ e0.book.owner = .l1 e0.u ∧
    Turn s0 e0 t [6, 1] false ∧ e0.line.reg 6 = 0 ∧ Turn s0 e0 t [] false ∧ e0.line.haltReq = false := by
  unfold Turn; decide +kernel

theorem witness_TaskInstructions_await :
    (turn frameLine).frameTarget (env frameLine) 0x1020 = .ok (some (fetchPage, 0x1020)) ∧
    Turn (turn frameLine) (env frameLine) t [2] false ∧ CanPark (turn frameLine) (env frameLine) ∧
    frameLine.loads = 0 ∧ frameLine.stores = 0 :=
  ⟨of_okOf (by decide +kernel), by unfold Turn CanPark; decide +kernel⟩

theorem witness_TaskInstructions_done :
    let s := (turn frameLine).setFrozen 0 1 true
    s.frameTarget (env frameLine) 0x1040 = .ok (some (fetchPage, 0x1040)) ∧
    (s0.setFrozen 0 1 true).frameTarget e0 0 = .ok none ∧ Turn s (env frameLine) t [] false ∧
    Turn (s0.setFrozen 0 1 true) e0 t [] false ∧ ((s.unit 0).dqRow 1).frozen = true ∧
    (((s0.setFrozen 0 1 true).unit 0).dqRow 1).frozen = true ∧ frameLine.engs = 0 ∧ frameLine.tiles = 0 :=
  ⟨of_okOf (by decide +kernel), of_okOf (by decide +kernel), by unfold Turn; decide +kernel⟩

theorem witness_TaskInstructions_frame :
    let l := line #v[0x1020, 9, 0, 0, 0, 0, 0, 0]
    (turn l).syncTarget (env l) 0x1020 = .ok (fetchPage, 0, 0x1020) ∧ Turn (turn l) (env l) t [0, 1] false ∧
    (env l).line.reg 0 ≠ 0 ∧ ((env l).line.reg 0).toNat % 2 ^ 56 = 0x1020 ∧ 0x1020 % 32 = 0 ∧ l.loads = 0 ∧ l.stores = 0 :=
  ⟨of_okOf (by decide +kernel), by unfold Turn; decide +kernel⟩

theorem witness_TaskInstructions_migrate :
    s0.migrateTo e0 (e0.line.reg 6) = .ok (s0.device, e0.u) ∧ Turn s0 e0 t [6] false ∧
    s0.migrateTo e0 (e0.line.reg 3) = .ok (0, 3) ∧ Turn s0 e0 t [3] false ∧ 3 ≠ e0.u :=
  ⟨of_okOf (by decide +kernel), by unfold Turn; decide +kernel, of_okOf (by decide +kernel), by unfold Turn; decide +kernel⟩

/-- A state with a frame word at 0x1020 and a message to it. -/
def frameState (m : Msg) (w : Nat) (st : CtxState) (armed : List (Nat × (Nat × Nat × Reg × Nat))) : State :=
  { msgState m st with mem := Memory.writeRange [] 0x1020 (bytesOf w 8), armed := armed }

/-- The hypotheses of FramesAtTheirHome that its clauses share. -/
def FrameHome (s : State) : Prop :=
  s.behind 5 0 0x1020 = false ∧ s.released 0 5 = true ∧ Intact s 0x1020 1 ∧ s.faulted = false ∧ SlicesSound s ∧
  ((Assoc.get (s.cluster 0).cache 1).getD []).length < 63

theorem witness_FramesAtTheirHome :
    let inc := frameState (.frameInc fetchCtx 0 attr 0x1020 0x1020) 0xFFFFFFFF .ready []
    let dec := frameState (.frameDec fetchCtx 0 attr 0x1020 0x1020 true) 0 .done []
    let last := frameState (.frameDec fetchCtx 0 attr 0x1020 0x1020 true) 1 .done [(0x1020, (0x100100, 3, 2, 4))]
    let free := frameState (.await fetchCtx 0 attr 0x1020 0x1020 2) 0 .waiting []
    let arms := frameState (.await fetchCtx 0 attr 0x1020 0x1020 2) 1 .waiting []
    let full := frameState (.await fetchCtx 0 attr 0x1020 0x1020 2) 1 .waiting [(0x1020, (0x100100, 3, 2, 4))]
    let init := frameState (.frameInit fetchCtx 0 attr 0x1020 0x1020 9) 0 .ready []
    FrameHome inc ∧ FrameHome dec ∧ FrameHome last ∧ FrameHome free ∧ FrameHome arms ∧ FrameHome full ∧ FrameHome init ∧
    (Memory.dword last.mem 0x1020).toNat % 2 ^ 32 = 1 ∧ (Memory.dword arms.mem 0x1020).toNat % 2 ^ 32 ≠ 0 ∧
    (Memory.dword free.mem 0x1020).toNat % 2 ^ 32 = 0 ∧ Assoc.get last.armed 0x1020 = some (0x100100, 3, 2, 4) ∧
    (Assoc.get full.armed 0x1020).isSome ∧ Assoc.get dec.armed 0x1020 = none := by
  unfold FrameHome SlicesSound Intact; dsimp only; and_intros <;> decide +kernel

/-! ### Deques and rings -/

/-- An entry of tenant 1, and a turn whose unit holds a deque. -/
def entry (kind v w : Nat) : DqEntry := ⟨BitVec.ofNat 64 (2 ^ 56 + v * 4 + kind), BitVec.ofNat 64 w⟩
def dqTurn (l : Line) (dq : List DqEntry) (frozen : Bool) : State :=
  (turn l).modUnit 0 (fun x => { x with deque := dq, dqcfg := [(1, ⟨frozen, 4, 3⟩)] })
/-- g0 an aligned word, g1 the range 1 to 2, g2 zero, g3 a misaligned word. -/
def dqLine : Line := line #v[0x1010, 0x200000001, 0, 3, 0, 0, 0, 0]

theorem witness_DequePushAndPop_push :
    Turn (dqTurn dqLine [] false) (env dqLine) t [2, 3, 1] false ∧ ((env dqLine).line.reg 3).toNat % 4 ≠ 0 ∧
    Turn (dqTurn dqLine [] false) (env dqLine) t [2, 0, 1] false ∧ ((env dqLine).line.reg 0).toNat % 4 = 0 ∧
    (0x200000001 : W64).toNat % 2 ^ 32 < (0x200000001 : W64).toNat / 2 ^ 32 ∧
    (0 : W64).toNat / 2 ^ 32 ≤ (0 : W64).toNat % 2 ^ 32 ∧
    (((dqTurn dqLine [] true).unit 0).dqRow 1).frozen = true ∧ (((dqTurn dqLine [] false).unit 0).dqRow 1).frozen = false ∧
    256 ≤ ((dqTurn dqLine (List.replicate 256 (entry 2 3 4)) false).unit 0).deque.length ∧
    ((dqTurn dqLine [] false).unit 0).deque.length < 256 := by unfold Turn; decide +kernel

theorem witness_DequePushAndPop_pop :
    let bottom (dq : List DqEntry) := ((dqTurn dqLine dq false).unit 0).bottom 1
    Turn (dqTurn dqLine [] false) (env dqLine) t [2, 0] false ∧ bottom [] = none ∧
    bottom [entry 0 1 1] = some (0, entry 0 1 1) ∧ (entry 0 1 1).w0.toNat % 4 = 0 ∧
    bottom [entry 1 1 (20 * 2 ^ 32 + 4)] = some (0, entry 1 1 (20 * 2 ^ 32 + 4)) ∧
    (entry 1 1 (20 * 2 ^ 32 + 4)).w0.toNat % 4 = 1 ∧ min 16 (max (max 3 1) ((16 + 3) / 4)) + 4 ≠ 20 ∧
    bottom [entry 1 1 (5 * 2 ^ 32 + 4)] = some (0, entry 1 1 (5 * 2 ^ 32 + 4)) ∧ min 1 (max (max 3 1) ((1 + 3) / 4)) + 4 = 5 ∧
    bottom [entry 2 1 7] = some (0, entry 2 1 7) ∧ 2 ≤ (entry 2 1 7).w0.toNat % 4 := by unfold Turn; decide +kernel

theorem witness_DequePushAndPop_split :
    let bottom := ((dqTurn dqLine [entry 1 1 (20 * 2 ^ 32 + 4)] false).unit 0).bottom 1
    Turn (dqTurn dqLine [] false) (env dqLine) t [2, 0, 3] false ∧ (env dqLine).line.reg 3 ≠ 0 ∧
    (env dqLine).line.reg 2 = 0 ∧ bottom = some (0, entry 1 1 (20 * 2 ^ 32 + 4)) ∧ 4 + 15 < 20 ∧ 20 ≤ 4 + 16 := by
  unfold Turn; decide +kernel

theorem witness_Steals_issue :
    Turn s0 e0 t [2, 0, 6] false ∧ e0.line.loads < 63 ∧ s0.victims e0.u (e0.line.reg 5) = none ∧
    s0.victims e0.u (e0.line.reg 3) = some [(0, 3)] ∧
    ({ s0 with start := { s0.start with clusters := 0 } } : State).victims e0.u (e0.line.reg 4) = some [] ∧
    Turn s0 e0 t [0] false ∧ Turn s0 e0 t [] false ∧ Turn s0 e0 t [2] false := by
  unfold Turn; decide +kernel

/-- A steal of tenant 1 at IU 3, for a DQ.STEAL of the context. -/
def stealState (dq : List DqEntry) (frozen : Bool) (rest : List (Nat × Nat)) : State :=
  { msgState (.steal ⟨0, 1, some (fetchCtx, 2, 0), none, (0, 3) :: rest, false⟩) .ready with
    units := [(3, { Unit.reset with deque := dq, dqcfg := [(1, ⟨frozen, 1, 1⟩)] })] }

theorem witness_Steals_victim :
    let top (dq : List DqEntry) := ((stealState dq false []).unit 3).top 1
    (stealState [] false []).msg? 5 = some (.steal ⟨0, 1, some (fetchCtx, 2, 0), none, [(0, 3)], false⟩) ∧
    (stealState [] false [(0, 4)]).msg? 5 = some (.steal ⟨0, 1, some (fetchCtx, 2, 0), none, [(0, 3), (0, 4)], false⟩) ∧
    top [] = none ∧ ((((stealState [] true []).unit 3).dqRow 1).frozen = true) ∧
    (((stealState [] false []).unit 3).dqRow 1).frozen = false ∧
    top [entry 1 1 (6 * 2 ^ 32 + 4)] = some (0, entry 1 1 (6 * 2 ^ 32 + 4)) ∧
    top [entry 1 1 (5 * 2 ^ 32 + 4)] = some (0, entry 1 1 (5 * 2 ^ 32 + 4)) ∧ top [entry 2 1 9] = some (0, entry 2 1 9) ∧
    (entry 1 1 (6 * 2 ^ 32 + 4)).w0.toNat % 4 = 1 ∧ 2 ≤ (entry 2 1 9).w0.toNat % 4 := by decide +kernel

theorem witness_Steals_result :
    let m : Msg := .stealResult fetchCtx 0 2 0 7 0 (some (entry 2 1 9))
    (msgState m .ready).msg? 5 = some m ∧ (msgState m .ready).ctx? fetchCtx = some msgCtx ∧ msgCtx.line.st = .ready := by
  decide +kernel

/-! ### Tiles -/

theorem exists_ok {ε α : Type} {r : Except ε α} (h : (okOf r).isSome = true) : ∃ x, r = .ok x := by
  cases r with
  | ok a => exact ⟨a, rfl⟩
  | error e => cases h

/-- The four words of a handle-table entry of generation 5 on IU 0 (R35). -/
def slot (kind shape fmt group slots off w10 w18 : Nat) : List W64 :=
  [BitVec.ofNat 64 (5 * 2 ^ 48 + slots * 2 ^ 32 + group * 2 ^ 12 + fmt * 2 ^ 8 + shape * 2 ^ 4 + kind),
    BitVec.ofNat 64 (off * 2 ^ 20), BitVec.ofNat 64 w10, BitVec.ofNat 64 w18]

/-- The handle of an index (R34). -/
def hnd (i : Nat) : W64 := BitVec.ofNat 64 (i * 2 ^ 16 + 5)

/-- A handle table: four BF16 tiles, an FP32 and a BF16 tile, five FP32 tiles, four INT8 tiles, two grouped data tiles and their
scale tiles, the two grouped pairs, and a ring of two FP32 tiles, all 32 by 32; then an FP32 tile of 16 by 16. -/
def table : List (List W64) :=
  [slot 0 0 0 0 0 0 0 0] ++ (List.range 4).map (fun i => slot 1 1 1 0 0 (32 * i) 0 0) ++
  [slot 1 1 0 0 0 128 0 0, slot 1 1 1 0 0 192 0 0] ++ (List.range 5).map (fun i => slot 1 1 0 0 0 (256 + 64 * i) 0 0) ++
  (List.range 4).map (fun i => slot 1 1 5 0 0 (600 + 16 * i) 0 0) ++
  [slot 1 1 6 1 0 700 0 0, slot 1 1 8 0 0 720 0 0, slot 1 1 6 1 0 800 0 0, slot 1 1 8 0 0 820 0 0,
    slot 3 1 6 1 0 0 (hnd 16).toNat (hnd 17).toNat, slot 3 1 6 1 0 0 (hnd 18).toNat (hnd 19).toNat,
    slot 2 1 0 0 2 1000 0 0, slot 1 0 0 0 0 1200 0 0]

/-- A turn of a tenant with that table at VA 0x2000. -/
def tileTurn (l : Line) : State :=
  { turn l with
    tenants := [(1, { Tenant.reset with htab := 0x2000, hlen := 24 })]
    mem := Memory.writeRange [] 0x2000 (wordsBytes table.flatten) }

/-- The tile, ring or pair of an index as a check gives it. -/
def tileRef (i : Nat) : TileRef :=
  let w (k : Nat) : W64 := nth (nth table i []) k 0
  entryRef (hnd i) (0x2000 + 32 * i) 1 (w 0) (w 1) (w 2) (w 3)

/-- A line whose g0 to g3 are handles. -/
def tileLine (a b c d : Nat) : Line := line #v[hnd a, hnd b, hnd c, hnd d, 0, 0x4000, 0x1000, 2]
def tileEnv (a b c d : Nat) : Env := env (tileLine a b c d)

theorem witness_TileInstructionsIssue_tiles :
    let l := tileLine 7 8 9 22
    (tileTurn l).handleAt (env l) (l.reg 0) [1] = .ok (tileRef 7) ∧ (tileTurn l).handleAt (env l) (l.reg 1) [1] = .ok (tileRef 8) ∧
    (tileTurn l).handleAt (env l) (l.reg 2) [1] = .ok (tileRef 9) ∧ (tileTurn l).handleAt (env l) (l.reg 3) [2] = .ok (tileRef 22) ∧
    Turn (tileTurn l) (env l) t [0, 1, 2] false ∧ Turn (tileTurn l) (env l) t [0, 1] false ∧ l.tiles < 63 ∧
    (tileRef 7).dim = (tileRef 8).dim ∧ (tileRef 7).dim = (tileRef 9).dim ∧ (tileRef 7).fmt = 0 ∧ (tileRef 8).fmt = 0 ∧
    (tileRef 9).fmt = 0 ∧ floatFmt 0 = true ∧ NothingToRepair (tileTurn l) :=
  ⟨of_okOf (by decide +kernel), of_okOf (by decide +kernel), of_okOf (by decide +kernel), of_okOf (by decide +kernel),
    by unfold Turn; decide +kernel, by unfold Turn; decide +kernel, by decide +kernel, by decide +kernel, by decide +kernel,
    by decide +kernel, by decide +kernel, by decide +kernel, by decide +kernel, State.nothingToRepair _ rfl rfl⟩

theorem witness_TileInstructionsIssue_pairs :
    let l := tileLine 20 7 16 17
    (tileTurn l).handleAt (env l) (l.reg 0) [3] = .ok (tileRef 20) ∧
    (tileTurn l).pairOf (env l) (tileRef 20) = .ok (tileRef 16, tileRef 17) ∧
    (tileTurn l).handleAt (env l) (l.reg 1) [1] = .ok (tileRef 7) ∧ (tileTurn l).handleAt (env l) (l.reg 2) [1] = .ok (tileRef 16) ∧
    (tileTurn l).handleAt (env l) (l.reg 3) [1] = .ok (tileRef 17) ∧ (∃ p, (tileTurn l).freeEntry (env l) = .ok p) ∧
    Turn (tileTurn l) (env l) t [4, 2, 3] false ∧ (tileRef 7).dim = (tileRef 16).dim ∧ (tileRef 16).dim = (tileRef 17).dim ∧
    (tileRef 16).fmt = 6 ∧ (tileRef 17).fmt = 8 ∧
    (tileTurn l).checkHandle 0 1 (l.reg 0) [1, 2, 3] = .ok (tileRef 20) ∧
    (tileTurn l).checkHandle 0 1 (l.reg 4) [1, 2, 3] = .error .invalid :=
  ⟨of_okOf (by decide +kernel), of_okOf (by decide +kernel), of_okOf (by decide +kernel), of_okOf (by decide +kernel),
    of_okOf (by decide +kernel), exists_ok (by decide +kernel), by unfold Turn; decide +kernel⟩

theorem witness_RingInstructions :
    let l := tileLine 22 7 1 1
    (tileTurn l).handleAt (env l) (l.reg 0) [2] = .ok (tileRef 22) ∧ (tileTurn l).handleAt (env l) (l.reg 1) [1] = .ok (tileRef 7) ∧
    Turn (tileTurn l) (env l) t [0, 1] false ∧ Turn (tileTurn l) (env l) t [1, 0] false ∧ CanPark (tileTurn l) (env l) ∧
    l.loads = 0 ∧ l.stores = 0 ∧ l.tiles < 63 ∧ (tileRef 7).dim = (tileRef 22).dim ∧ (tileRef 7).fmt = (tileRef 22).fmt ∧ NothingToRepair (tileTurn l) :=
  ⟨of_okOf (by decide +kernel), of_okOf (by decide +kernel), by unfold Turn; decide +kernel, by unfold Turn; decide +kernel,
    by unfold CanPark; decide +kernel, by decide +kernel, by decide +kernel, by decide +kernel, by decide +kernel, by decide +kernel,
    State.nothingToRepair _ rfl rfl⟩

theorem witness_TileChecksTrap_handles :
    let l := tileLine 0 22 7 1
    let bad (r : Reg) (kinds : List Nat) := (tileTurn l).checkHandle 0 1 (l.reg r) kinds = .error .invalid
    Turn (tileTurn l) (env l) t [0, 1, 2] false ∧ Turn (tileTurn l) (env l) t [0, 2] false ∧ Turn (tileTurn l) (env l) t [0] false ∧
    Turn (tileTurn l) (env l) t [1] false ∧
    bad 0 [1] ∧ bad 1 [1] ∧ bad 2 [3] ∧ bad 2 [2] ∧ bad 0 [1, 2, 3] := by unfold Turn; decide +kernel

/-- The tile turn with the matrix unit owned by a context. -/
def accTurn (l : Line) (own : Nat) : State := (tileTurn l).modUnit 0 (fun x => { x with accOwn := own })

theorem witness_TileChecksTrap_owner :
    let l := tileLine 0 22 7 1
    Turn (accTurn l fetchCtx) (env l) t [0, 1] false ∧ ((accTurn l fetchCtx).unit 0).accOwn = (env l).va ∧
    (accTurn l fetchCtx).checkHandle 0 1 (l.reg 0) [1] = .error .invalid ∧
    ((accTurn l 7).unit 0).accOwn ≠ (env l).va ∧ Turn (accTurn l 7) (env l) t [0, 1] false ∧
    Turn (accTurn l 7) (env l) t [2, 0, 1] false ∧ Turn (accTurn l 7) (env l) t [0] false ∧ Turn (accTurn l 7) (env l) t [] false ∧
    (env l).line.priv = false := by unfold Turn; decide +kernel

theorem witness_TileChecksTrap_wait :
    let l := { line regs with priv := true }
    let s := (turn l).modUnit 0 (fun x => { x with accOwn := 7, latch := [(3, ⟨1, 1⟩)] })
    Turn s (env l) t [0] false ∧ CanPark s (env l) ∧ (env l).line.priv = true ∧ (s.unit 0).accOwn ≠ (env l).va ∧
    (s.unit 0).matrixIdle = false := by unfold Turn CanPark; decide +kernel

/-- What MatrixInstructionsIssue asks of the unit beside the handles. -/
def MatrixFree (s : State) (e : Env) (a b : Reg) : Prop :=
  Turn s e t [a, b] false ∧ (s.unit e.u).accOwn = e.va ∧ Assoc.get (s.unit e.u).latch e.slot = none ∧ e.line.tiles < 63 ∧
  (s.unit e.u).accHold = [] ∧ NothingToRepair s

theorem matrixFree (l : Line) (own : Nat) (e : Env) (a b : Reg)
    (h : Turn (accTurn l own) e t [a, b] false ∧ ((accTurn l own).unit e.u).accOwn = e.va ∧
      Assoc.get ((accTurn l own).unit e.u).latch e.slot = none ∧ e.line.tiles < 63 ∧ ((accTurn l own).unit e.u).accHold = []) :
    MatrixFree (accTurn l own) e a b :=
  ⟨h.1, h.2.1, h.2.2.1, h.2.2.2.1, h.2.2.2.2, State.nothingToRepair _ rfl rfl⟩

/-- The run of tiles from a handle with the given formats can be made. -/
def RunsAt (s : State) (e : Env) (r : Reg) (fmts : List Nat) : Prop :=
  ∃ ts, s.runAt e (e.line.reg r) [1] (fun i t => t.dim == 32 && fmts[i]? == some t.fmt) fmts.length = .ok ts

theorem witness_MatrixInstructionsIssue_float :
    let l := tileLine 1 2 7 8
    let s := accTurn l fetchCtx
    s.handleAt (env l) (l.reg 0) [1] = .ok (tileRef 1) ∧ s.handleAt (env l) (l.reg 1) [1, 3] = .ok (tileRef 2) ∧
    s.handleAt (env l) (l.reg 2) [1] = .ok (tileRef 7) ∧ s.handleAt (env l) (l.reg 3) [1, 3] = .ok (tileRef 8) ∧
    MatrixFree s (env l) 0 1 ∧ MatrixFree s (env l) 2 3 ∧ (tileRef 1).dim = 32 ∧ (tileRef 2).dim = 32 ∧
    (tileRef 2).kind = 1 ∧ (tileRef 1).fmt = 1 ∧ (tileRef 2).fmt = 1 ∧ (tileRef 7).fmt = 0 ∧ (tileRef 8).fmt = 0 :=
  ⟨of_okOf (by decide +kernel), of_okOf (by decide +kernel), of_okOf (by decide +kernel), of_okOf (by decide +kernel),
    matrixFree _ _ _ _ _ (by unfold Turn; decide +kernel), matrixFree _ _ _ _ _ (by unfold Turn; decide +kernel), by decide +kernel⟩

theorem witness_MatrixInstructionsIssue_integer :
    let l := tileLine 12 14 20 0
    let s := accTurn l fetchCtx
    let int8 (_ : Nat) (t : TileRef) : Bool := t.dim == 32 && t.fmt == 5
    s.runAt (env l) (l.reg 0) [1] int8 2 = .ok [tileRef 12 , { tileRef 13 with handle := hnd 12 }] ∧
    s.runAt (env l) (l.reg 1) [1] int8 2 = .ok [tileRef 14 , { tileRef 15 with handle := hnd 14 }] ∧
    s.handleAt (env l) (l.reg 0) [1] = .ok (tileRef 12) ∧ s.handleAt (env l) (l.reg 1) [1, 3] = .ok (tileRef 14) ∧
    s.handleAt (env l) (l.reg 2) [1, 3] = .ok (tileRef 20) ∧ (∃ p, s.pairRunAt (env l) (l.reg 2) 6 2 = .ok p) ∧
    MatrixFree s (env l) 0 1 ∧ MatrixFree s (env l) 0 2 ∧ (tileRef 12).fmt = 5 ∧ (tileRef 14).fmt = 5 ∧
    RunsAt s (env l) 0 [5, 5] ∧ RunsAt s (env l) 1 [5, 5] ∧
    (tileRef 20).kind = 3 ∧ (tileRef 20).fmt = 6 ∧ (tileRef 14).kind = 1 :=
  ⟨of_okOf (by decide +kernel), of_okOf (by decide +kernel), of_okOf (by decide +kernel), of_okOf (by decide +kernel),
    of_okOf (by decide +kernel), exists_ok (by decide +kernel), matrixFree _ _ _ _ _ (by unfold Turn; decide +kernel),
    matrixFree _ _ _ _ _ (by unfold Turn; decide +kernel), by decide +kernel, by decide +kernel, exists_ok (by decide +kernel),
    exists_ok (by decide +kernel), by decide +kernel⟩

theorem witness_MatrixInstructionsIssue_raw :
    let l := { line #v[0x4000, 0, 0, 0, 0, 0, 0, 0] with priv := true }
    let s := accTurn l fetchCtx
    (∃ m, s.spans (env l) 0x4000 4096 accWrite = .ok m) ∧ (∃ m, s.spans (env l) 0x4000 4096 accRead = .ok m) ∧
    Turn s (env l) t [0] false ∧ ((env l).line.reg 0).toNat % 64 = 0 ∧ (s.unit 0).accOwn = (env l).va ∧
    (s.unit 0).matrixIdle = true ∧ (env l).line.priv = true :=
  ⟨exists_ok (by decide +kernel), exists_ok (by decide +kernel), by unfold Turn; decide +kernel⟩

theorem witness_AttentionInstructionsIssue :
    let l := tileLine 1 5 7 8
    let s := accTurn l fetchCtx
    RunsAt s (env l) 0 [1, 1, 1, 1] ∧ RunsAt s (env l) 1 [0, 1] ∧ RunsAt s (env l) 2 [0] ∧ RunsAt s (env l) 3 [0, 0, 0, 0] ∧
    (∃ m, s.spans (env l) 0x4000 16640 accRead = .ok m) ∧
    (∃ m, s.spans (env l) (addVa 0x4000 (0x4000 + 8 * 15)) 8 accRead = .ok m) ∧
    MatrixFree s (env l) 0 5 ∧ MatrixFree s (env l) 1 5 ∧ (l.reg 5).toNat % 256 = 0 ∧ (0x4000, 1) ∉ s.pagesUnder :=
  ⟨exists_ok (by decide +kernel), exists_ok (by decide +kernel), exists_ok (by decide +kernel), exists_ok (by decide +kernel),
    exists_ok (by decide +kernel), exists_ok (by decide +kernel), matrixFree _ _ _ _ _ (by unfold Turn; decide +kernel),
    matrixFree _ _ _ _ _ (by unfold Turn; decide +kernel), by decide +kernel⟩

/-- A page-table descriptor at 0x1000: base 0x4000, page list at 0x1100, remap table at 0x1200, four live tokens. -/
def mapTurn : State :=
  { tileTurn (tileLine 1 5 7 8) with mem := Memory.writeRange [] 0x1000 (wordsBytes [0x4000, 0x1100, 0x1200, 4]) }

theorem witness_AttentionInstructionsIssue_map :
    let e := tileEnv 1 5 7 8
    let r := mapTurn.issueBytes e 0x1000 64
    (okOf r).isSome = true ∧ (e.line.reg 6).toNat % 2 ^ 56 = 0x1000 ∧ (e.line.reg 7).toNat < 4 ∧
    4 ≤ (e.line.reg 5).toNat ∧ Turn mapTurn e t [2, 6, 7] false ∧ Turn mapTurn e t [2, 6, 5] false := by
  unfold Turn; decide +kernel


/-! ### Engines -/

/-- What EnginePushes asks of the unit's queue and of the fences. -/
def QueueReady (s : State) (e : Env) (q : Nat) : Prop :=
  s.queueUsed e.u q < 16 ∧ ∀ k ∈ s.cmds, k.id ∈ s.fenceDeps e.book q → k.unit = e.u

/-- g0 0x1000, g1 a handle, g2 eight elements, g3 no completion word, g4 0x1008. -/
def engLine : Line := line #v[0x1000, hnd 7, 8, 0, 0x1008, 0x8000000000000008, 0, 0]

theorem witness_EnginePushes :
    let s := tileTurn engLine
    let e := env engLine
    s.handleAt e (e.line.reg 1) [1, 2] = .ok (tileRef 7) ∧ (okOf (s.issueBytes e 0x1000 64)).isSome = true ∧
    (okOf (s.issueBytes e 0x1000 32)).isSome = true ∧ Turn s e t [0, 1, 2, 3] false ∧ Turn s e t [3, 0, 2] false ∧
    Turn s e t [0] false ∧ e.line.engs < 63 ∧ e.line.tiles = 0 ∧ QueueReady s e 0 ∧ QueueReady s e 1 ∧ QueueReady s e 2 ∧
    QueueReady s e 3 ∧ QueueReady s e 4 ∧ QueueReady s e 5 ∧ QueueReady s e 6 ∧ (e.line.reg 3).toNat % 2 ^ 56 % 8 = 0 ∧
    (e.line.reg 2).toNat % 2 ^ 32 % 8 = 0 ∧ (e.line.reg 2).getLsbD 63 = false ∧ (e.line.reg 5).getLsbD 63 = true ∧
    (e.line.reg 0).toNat % 2 ^ 56 % 64 = 0 ∧ (e.line.reg 4).toNat % 2 ^ 56 % 8 = 0 :=
  ⟨of_okOf (by decide +kernel), by unfold QueueReady Turn; and_intros <;> decide +kernel⟩

theorem witness_EnginePushes_intact : NothingToRepair (tileTurn engLine) := State.nothingToRepair _ rfl rfl

/-- A command of a unit, its context's fenced sets naming it. -/
def cmd (id : Nat) (op : EngOp) (u q : Nat) (a b c d : W64) (ph : CmdPhase) : Cmd :=
  ⟨id, op, fetchCtx, u, q, 1, a, b, c, d, [], [], ph, 0, false, none, [], 0, false⟩

theorem witness_EnginePushes_wait :
    let l := engLine
    let fenced : Env := { env l with book := { book with fences := [(0x7F, [4])] } }
    let foreign : State := { (turn l).setCtx fetchCtx ⟨l, fenced.book⟩ with cmds := [cmd 4 .copy 3 0 0 0 0 0 .queued] }
    let full : State := { turn l with cmds := (List.range 16).map (fun i => cmd i .copy 0 0 0 0 0 0 .queued) }
    Turn (turn l) (env l) t [0, 1, 2, 3] false ∧ (l.reg 3).toNat % 8 = 0 ∧ Turn foreign fenced t [0, 1, 2, 3] false ∧
    (∃ k ∈ foreign.cmds, k.id ∈ foreign.fenceDeps fenced.book 0 ∧ k.unit ≠ fenced.u) ∧ fenced.book.wasted < 3 ∧
    16 ≤ full.queueUsed 0 0 ∧ Turn full (env l) t [0, 1, 2, 3] false ∧ CanPark full (env l) ∧ l.engs < 63 ∧
    (∀ k ∈ full.cmds, k.id ∈ full.fenceDeps book 0 → k.unit = 0) := by
  unfold Turn CanPark; dsimp only; and_intros <;> decide +kernel

/-- A line with 63 engine commands outstanding. -/
theorem witness_EnginePushes_counter :
    let l := { engLine with engs := 63 }
    Turn (turn l) (env l) t [0, 1, 2, 3] false ∧ 63 ≤ l.engs := by unfold Turn; decide +kernel

/-- A turn whose g0 names a window descriptor of 64 KiB at VA 0, and g1 two ways. -/
def pinLine : Line := line #v[0x1000, 3, 0x1001, 0, 0, 0, 0, 0]
def pinTurn (len : W64) : State := { turn pinLine with
  tenants := [(1, { Tenant.reset with pinq := 1 })]
  mem := Memory.writeRange [] 0x1000 (wordsBytes [0, len, 2, 0]) }

theorem witness_PinsFencesAndWaits_pin :
    (∃ p, (pinTurn 0x10000).issueBytes (env pinLine) 0x1000 32 = .ok p) ∧
    (∃ p, (pinTurn 0).issueBytes (env pinLine) 0x1000 32 = .ok p) ∧
    Turn (pinTurn 0x10000) (env pinLine) t [0, 1] false ∧ Turn (pinTurn 0) (env pinLine) t [0, 1] false ∧
    Turn (pinTurn 0) (env pinLine) t [0] false ∧ ((env pinLine).line.reg 0).toNat % 8 = 0 ∧
    (pinTurn 0x10000).pinRefused 1 [0, 0x10000, 2, 0] 3 = false ∧ (pinTurn 0x10000).pinPages 0 1 book 1 0 = .ok (some [(0, 0, 1)]) ∧ (pinTurn 0x10000).queueUsed 0 6 < 16 :=
  ⟨exists_ok (by decide +kernel), exists_ok (by decide +kernel), by unfold Turn; decide +kernel, by unfold Turn; decide +kernel,
    by unfold Turn; decide +kernel, by decide +kernel, by decide +kernel, of_okOf (by decide +kernel), by decide +kernel⟩

/-- The same turn with a TRANSFORMED page next to the window's first. -/
theorem witness_PinsFencesAndWaits_transformed :
    let s := (pinTurn 0x20000).modUnit 0 (fun x => { x with
      tlb := [fetchPage, { fetchPage with va := 0x10000, pa := 0x10000, transformed := true }] })
    (∃ p, s.issueBytes (env pinLine) 0x1000 32 = .ok p) ∧ Turn s (env pinLine) t [0, 1] false ∧
    s.pinPages 0 1 book 2 0 = .ok none :=
  ⟨exists_ok (by decide +kernel), by unfold Turn; decide +kernel, of_okOf (by decide +kernel)⟩

/-- LOADS at most 1 and at the limit; then above it. -/
theorem witness_PinsFencesAndWaits_wait :
    let l := { line #v[0x41, 0, 0, 0, 0, 0, 0, 0] with loads := 1 }
    let m := { line #v[0x41, 0, 0, 0, 0, 0, 0, 0] with loads := 2 }
    Turn (turn l) (env l) t [] false ∧ Turn (turn l) (env l) t [0] false ∧ Turn (turn m) (env m) t [0] false ∧
    CanPark (turn m) (env m) ∧ (0x41 : W64).toNat.testBit 6 = true ∧
    l.loads ≤ 0x41 % 64 ∧ ¬ m.loads ≤ 0x41 % 64 := by unfold Turn CanPark; decide +kernel

/-- A COPY of seven bytes within one block each. -/
def copyCmd : Cmd := cmd 5 .copy 0 0 0x1010 0x1083 7 0 .queued
def copyState : State := { s0 with cmds := [copyCmd] }

theorem witness_EngineCommands_copy :
    copyState.cmd? 5 = some copyCmd ∧ copyState.canRun copyCmd = true ∧ copyCmd.c.toNat % 2 ^ 40 = 7 ∧
    0x1010 % 64 + 7 ≤ 64 ∧ 0x1083 % 64 + 7 ≤ 64 ∧ copyState.xlate 0 1 0x1010 accRead = .ok fetchPage ∧
    copyState.xlate 0 1 0x1083 accWrite = .ok fetchPage ∧ Intact copyState 0x1010 1 ∧ Intact copyState 0x1083 1 ∧
    0x1010 / 64 ≠ 0x1083 / 64 ∧ (copyState.pageRec 0).moved = false ∧ SlicesSound copyState := by
  unfold SlicesSound Intact; decide +kernel

/-- A command that has ended or is handed back, with a completion word at 0x1020 or none. -/
def endState (d : W64) (ph : CmdPhase) : State :=
  { s0 with
    lines := [(fetchCtx, ⟨{ line regs with st := .ready, engs := 1 }, book⟩)]
    cmds := [{ cmd 5 .copy 0 0 0 0 0 d ph with id := 5 }] }

theorem witness_EngineCommands_end :
    let s := endState 0x1020 (.ended 0)
    s.cmd? 5 = some (cmd 5 .copy 0 0 0 0 0 0x1020 (.ended 0)) ∧ s.faulted = false ∧
    s.ctx? fetchCtx = some ⟨{ line regs with st := .ready, engs := 1 }, book⟩ ∧ s.missing (.cmd 5) = false ∧
    s.queueWaiter 0 0 = none ∧ s.xlate 0 1 0x1020 accRmw = .ok fetchPage ∧ Intact s 0x1020 1 ∧
    (s.pageRec 0).moved = false ∧ s.deferredAt 0x1020 = [] ∧ SlicesSound s ∧
    (endState 0 (.handed 1 2 3)).cmd? 5 = some (cmd 5 .copy 0 0 0 0 0 0 (.handed 1 2 3)) := by
  unfold SlicesSound Intact; and_intros <;> decide +kernel

/-! ### Traps, returns, registers, debug -/

/-- A turn with valid vectors of tenants 0 and 1, cached lines of both, and a reserve. -/
def trapTurn (sys : Bool) : State :=
  { turn (line regs) with
    tenants := [(0, { Tenant.reset with vec := 0x6000, vecEn := true }),
      (1, { Tenant.reset with vec := 0x5000, vecEn := true, qset := 1, arena := some (0x100000, 100) })]
    clusters := [(0, { Cluster.reset with
      cache := if sys then [(1, [0x100200, 0x100280])] else [(0, [0x80, 0x100]), (1, [0x100200, 0x100280])]
      reserve := [0x300, 0x380, 0x400] })] }

theorem witness_TrapsCreateHandlers :
    (trapTurn false).env? = some e0 ∧ e0.book.owner = .l1 e0.u ∧ (trapTurn false).l1Count 0 < 256 ∧
    (trapTurn false).queueOk 1 e0.line.queue = true ∧
    (trapTurn false).units.all (fun x => (Assoc.get x.2.holding e0.va).isNone) = true ∧
    ((trapTurn false).tenant 1).vecEn = true ∧ ((trapTurn false).tenant 0).vecEn = true ∧
    (Assoc.get ((trapTurn false).cluster 0).cache 1).getD [] = [] ++ [0x100200, 0x100280] ∧
    (Assoc.get ((trapTurn true).cluster 0).cache 0).getD [] = [] ∧ ((trapTurn true).tenant 0).arena = none ∧
    ((trapTurn true).cluster 0).reserve = 0x300 :: 0x380 :: [0x400] ∧ (trapTurn true).env? = some e0 := by decide +kernel

theorem witness_TrapsWithoutVector :
    s0.env? = some e0 ∧ e0.book.owner = .l1 e0.u ∧ s0.units.all (fun x => (Assoc.get x.2.holding e0.va).isNone) = true ∧
    (s0.tenant 0).vecEn = false ∧ (s0.tenant 1).vecEn = false ∧ s0.linkUp = true ∧ Turn s0 e0 t [] true := by
  unfold Turn; decide +kernel

/-- A handler's turn whose g0 names a trapped line of its tenant's arena, g1 a new PC, g2 a misaligned one. -/
def rteLine : Line := line #v[0x100100, 0x5000, 0x5002, 0, 0, 0, 0, 0]
def rteTarget : Ctx := ⟨{ line regs with st := .trapped, cause := 3 }, { book with owner := .l1 7 }⟩
def rteTurn : State :=
  { (turn rteLine).setFrozen 0 1 true with
    lines := [(fetchCtx, ⟨rteLine, book⟩), (0x100100, rteTarget)]
    tenants := [(1, { Tenant.reset with arena := some (0x100000, 100) })] }

theorem witness_ReturnFromTrap :
    rteTurn.arenaOf 0x100100 = some 1 ∧ 0x100100 % 128 = 0 ∧ rteTurn.ctx? 0x100100 = some rteTarget ∧
    rteTarget.line.st = .trapped ∧ rteTarget.line.haltReq = false ∧ rteTarget.book.owner = .l1 7 ∧
    Turn rteTurn (env rteLine) t [0] true ∧ Turn rteTurn (env rteLine) t [0, 1] true ∧ Turn rteTurn (env rteLine) t [0, 2] true ∧
    Turn rteTurn (env rteLine) t [1] true ∧ rteTurn.arenaOf 0x5000 = none ∧ (rteLine.reg 1).toNat % 4 = 0 ∧
    (rteLine.reg 2).toNat % 4 ≠ 0 ∧ rteTurn.dirtyLines 0 = [] ∧ rteTurn.releasing 0 = false ∧ ((rteTurn.unit 0).dqRow 1).frozen = true ∧
    ((Assoc.get (rteTurn.cluster (rteTurn.allocCluster 0 0)).cache 1).getD []).length < 63 ∧
    rteLine.join = 0 := by unfold Turn; and_intros <;> decide +kernel

/-- A privileged line whose g0 to g3 are 0, 255, 256, and a write value for tenant 3. -/
def privLine : Line := { line #v[0, 255, 256, 0x0300000001000000, 0x0300000001000001, 0x10000, 0, 0] with priv := true }

theorem witness_RegisterAccess :
    Turn (turn privLine) (env privLine) t [0] true ∧ Turn (turn privLine) (env privLine) t [1] true ∧
    Turn (turn privLine) (env privLine) t [2] true ∧ Turn (cTurn privLine) (cEnv privLine) t [0] true ∧
    (privLine.reg 1).toNat < 256 ∧ 256 ≤ (privLine.reg 2).toNat ∧ (privLine.reg 0).toNat < 2 ∧ (privLine.reg 0).toNat < 64 ∧
    privLine.tenant < 256 ∧ (env privLine).u < 1536 ∧ 1536 ≤ (cEnv privLine).u ∧ privLine.loads < 63 := by
  unfold Turn; decide +kernel

theorem witness_RegisterAccess_write :
    let taken : State := { turn privLine with tenants := [(2, { Tenant.reset with qset := 0x1000000 })] }
    Turn (turn privLine) (env privLine) t [3] true ∧ Turn (turn privLine) (env privLine) t [4] true ∧ privLine.stores < 63 ∧
    (privLine.reg 3).toNat % 2 ^ 56 % 2 ^ 25 ≤ 2 ^ 24 ∧ 2 ^ 24 < (privLine.reg 4).toNat % 2 ^ 56 % 2 ^ 25 ∧
    (turn privLine).queuesTaken 3 0x1000000 = false ∧ taken.queuesTaken 3 0x1000000 = true ∧
    Turn taken (env privLine) t [3] true := by unfold Turn; decide +kernel

/-- An open message of seven words, and of eight. -/
def openBook (n : Nat) : Book := { book with msg := List.replicate n 9 }
def openTurn (n : Nat) : State := (turn openLine).setCtx fetchCtx ⟨openLine, openBook n⟩
def openEnv (n : Nat) : Env := { env openLine with book := openBook n }

theorem witness_MessagesAndSettings_messages :
    Turn s0 e0 t [0] true ∧ e0.line.openMsg = false ∧ s0.linkUp = true ∧ Turn (openTurn 7) (openEnv 7) t [0] true ∧
    (openEnv 7).line.openMsg = true ∧ (openEnv 7).book.msg.length < 8 ∧ Turn (openTurn 8) (openEnv 8) t [0] true ∧
    8 ≤ (openEnv 8).book.msg.length := by unfold Turn; decide +kernel

theorem witness_MessagesAndSettings_settings :
    let l := { line #v[0x1040, 0x0100000700000009, 0, 0, 0, 0, 0, 0] with priv := true }
    let q : State := { turn l with quarantine := [(0x41, (1, true))] }
    Turn (turn l) (env l) t [0] true ∧ Assoc.get (turn l).quarantine (0x1040 / 64) = none ∧ Turn q (env l) t [0] true ∧
    Assoc.get q.quarantine (0x1040 / 64) = some (1, true) ∧ (∀ k, k < 8 → q.deferredAt (0x41 * 64 + 8 * k) = []) ∧
    Turn (turn l) (env l) t [1] true ∧ l.priv = true ∧ (env l).u < 1536 :=
  ⟨by unfold Turn; decide +kernel, by decide +kernel, by unfold Turn; decide +kernel, by decide +kernel, fun _ _ => rfl,
    by unfold Turn; decide +kernel⟩

/-- A turn with a line of the tenant's arena in a state. -/
def debugState (st : CtxState) (hr : Bool) (cause : Byte) : State :=
  { turn rteLine with
    lines := [(fetchCtx, ⟨rteLine, book⟩),
      (0x100100, ⟨{ line regs with st := st, haltReq := hr, cause := cause }, { book with owner := .l1 7 }⟩)]
    tenants := [(1, { Tenant.reset with arena := some (0x100000, 100) })] }

/-- What DebugInstructions asks of every state of the target. -/
def Debugs (st : CtxState) (hr : Bool) (cause : Byte) : Prop :=
  let s := debugState st hr cause
  Turn s (env rteLine) t [2, 0] true ∧ rteLine.loads < 63 ∧ s.arenaOf 0x100100 = some rteLine.tenant ∧
  s.ctx? 0x100100 = some ⟨{ line regs with st := st, haltReq := hr, cause := cause }, { book with owner := .l1 7 }⟩

theorem witness_DebugInstructions :
    Debugs .ready false 0 ∧ Debugs .waiting false 0 ∧ Debugs .trapped false 3 ∧ Debugs .done false 0 ∧ Debugs .free false 0 ∧
    Debugs .halted true 0 ∧ Debugs .trapped false 0x14 ∧ Debugs .trapped false 0x15 ∧ Debugs .waiting true 0 := by
  unfold Debugs Turn; dsimp only; and_intros <;> decide +kernel

/-- A turn whose g0 names an entry's image, g1 this unit, and g2 a unit that does not exist. -/
def tlbLine : Line := { line #v[0x1000, 0, 2047, 0, 0, 0, 0, 0] with priv := true }
def tlbTurn (w3 : W64) : State :=
  { turn tlbLine with mem := Memory.writeRange [] 0x1000 (wordsBytes [0x1230100, 0x2000100, 0x300000107, w3]) }

theorem witness_TranslationEntries :
    (∃ p, (tlbTurn 0).issueBytes (env tlbLine) 0x1000 32 = .ok p) ∧ Turn (tlbTurn 0) (env tlbLine) t [3, 0, 1] false ∧
    Turn (tlbTurn 0) (env tlbLine) t [3, 0, 2] false ∧ tlbLine.priv = true ∧ tlbLine.loads < 63 ∧ (0x1000 : Nat) % 32 = 0 ∧
    (tlbLine.reg 1).getLsbD 16 = false ∧ (tlbLine.reg 2).getLsbD 16 = false ∧ (tlbTurn 0).unitUp 0 = true ∧
    (tlbTurn 0).unitUp 2047 = false ∧ (tlbTurn 0).imageFits 0x1230100 0x2000100 0x300000107 0 = true ∧
    (tlbTurn 0).imageFits 0x1230100 0x2000100 0x300000107 1 = false ∧ ((tlbTurn 0).unit 0).dl1 = [] ∧
    ((tlbTurn 0).tenant 1).pins = [] ∧ SlicesSound (tlbTurn 0) :=
  ⟨exists_ok (by decide +kernel), by unfold Turn SlicesSound Intact; decide +kernel⟩

theorem witness_TranslationEntries_intact : NothingToRepair (tlbTurn 0) := State.nothingToRepair _ rfl rfl

/-- Values for SLOT.SET and ARENA.SET: a legal rotation and an illegal one, tables 0 and 3 of unit 0, an arena. -/
def setLine : Line :=
  { line #v[0xFEDCBA9876543210, 0, 3, 0x0000001000000103, 0x200000, 0x0000000100000103, 0, 0] with priv := true }

theorem witness_PrivilegedSettings :
    Turn (turn setLine) (env setLine) t [6, 0, 1] false ∧ Turn (turn setLine) (env setLine) t [6, 0] false ∧
    Turn (turn setLine) (env setLine) t [0, 1] false ∧ Turn (turn setLine) (env setLine) t [6, 3, 4] false ∧
    Turn (turn setLine) (env setLine) t [6, 5, 4] false ∧ rotLegal (setLine.reg 0) = true ∧ rotLegal (setLine.reg 1) = false ∧
    (setLine.reg 2).toNat % 4 = 3 ∧ (turn setLine).unitUp 0 = true ∧ (turn setLine).arenaRefused 3 0x200000 16 = false ∧
    (turn setLine).arenaRefused 3 0x200000 1 = true ∧ (setLine.reg 3).getLsbD 8 = true ∧
    (turn setLine).clusters.all (fun c => (Assoc.get c.2.cache 3).isNone) = true ∧ setLine.loads < 63 ∧ setLine.stores < 63 := by
  unfold Turn; and_intros <;> decide +kernel

/-! ### Deliveries, waits, lines that move -/

/-- The context that messages name, in a state, with a wait. -/
def lineVa : Nat := 0x100100
def ctxOf (st : CtxState) (w : Wait) (o : Owner) : Ctx :=
  ⟨{ line regs with st := st, wait := w, pend := 0xFF, loads := 5, stores := 6 }, { book with owner := o }⟩

/-- A state with that context and one message under way, number 5. -/
def wireState (c : Ctx) (m : Msg) : State := { s0 with lines := [(lineVa, c)], wire := [(5, m)], nextId := 9 }

theorem witness_DeliveriesAndArrivals :
    let c := ctxOf .ready .none (.l1 0)
    let s3 := wireState c (.ustore lineVa 0 attr ⟨0, false⟩ 0x1010 0x1010 [1, 2])
    let s4 := wireState c (.writeBack 0 (some lineVa) attr ⟨0, false⟩ [(0x1010, 9), (0x1013, 0)])
    s3.ctx? lineVa = some c ∧ (wireState c (.load lineVa 7 0x77 false)).msg? 5 = some (.load lineVa 7 0x77 false) ∧
    (wireState c (.error lineVa 0 5 8 false)).msg? 5 = some (.error lineVa 0 5 8 false) ∧
    (wireState c (.ack lineVa)).msg? 5 = some (.ack lineVa) ∧
    s3.msg? 5 = some (.ustore lineVa 0 attr ⟨0, false⟩ 0x1010 0x1010 [1, 2]) ∧ s3.behind 5 0 0x1010 = false ∧
    attr.trace = false ∧ Intact s3 0x1010 1 ∧ SlicesSound s3 ∧ SlicesSound s4 ∧
    s4.msg? 5 = some (.writeBack 0 (some lineVa) attr ⟨0, false⟩ [(0x1010, 9), (0x1013, 0)]) ∧
    s4.behind 5 0 0x1010 = false ∧ Intact s4 0x1010 1 := by
  unfold SlicesSound Intact; dsimp only; and_intros <;> decide +kernel

theorem witness_DeliveriesAndArrivals_served :
    let c := ctxOf .waiting (.word 0x1010) (.l1 0)
    let s := (wireState c (.served lineVa none 7 false)).modUnit 0 (fun x => { x with
      dl1 := [(0x1014, ⟨0x55, false, attr, ⟨0, false⟩⟩), (0x2000, ⟨0x66, true, attr, ⟨0, false⟩⟩)] })
    s.msg? 5 = some (.served lineVa none 7 false) ∧ c.line.st = .waiting ∧ c.line.haltReq = false ∧
    (wireState c (.served lineVa (some 3) 7 false)).msg? 5 = some (.served lineVa (some 3) 7 false) ∧
    (wireState (ctxOf .transit .none (.l1 0)) (.load lineVa 3 7 false)).msg? 5 = some (.load lineVa 3 7 false) ∧
    (s.unit 0).dl1.any (fun b => b.1 / 64 == 0x40) = true ∧ (s.dirtyLines 0).contains 0x40 = false ∧
    (s.unit 0).dl1.all (fun b => !(b.1 / 64 == 0x40 && b.2.dirty)) = true := by dsimp only; and_intros <;> decide +kernel

/-- A synchronizing request of a context, and the state in which unit 0 has come to a cycle. -/
def reqOf (va : Nat) : SyncReq := ⟨va, 0, attr, .take, 0x1010, 0x1010, 3, 0, .device, 5⟩
def atCycle (s : State) (n : Nat) : State := s.modUnit 0 (fun x => { x with cycle := n })
def awaitMsg : Msg := .awaitRefused lineVa 0 attr 0x1020 0x1020 3 100
def missReq : MissReq := ⟨.ctx lineVa, 0, 0, 1, 0x1010, 0, 0⟩

theorem witness_WaitsThatEnd_resend :
    let c := ctxOf .waiting (.word 0x1010) (.l2 3)
    (wireState c (.syncRefused (reqOf lineVa) 100)).msg? 5 = some (.syncRefused (reqOf lineVa) 100) ∧
    100 ≤ ((atCycle (wireState c (.syncRefused (reqOf lineVa) 100)) 100).unit 0).cycle ∧
    ((atCycle (wireState c (.syncRefused (reqOf lineVa) 100)) 99).unit 0).cycle < 100 ∧
    (wireState c awaitMsg).msg? 5 = some awaitMsg ∧ (wireState c (.missRefused missReq 100)).msg? 5 = some (.missRefused missReq 100) ∧
    100 ≤ ((atCycle (wireState c awaitMsg) 100).unit 0).cycle := by dsimp only; and_intros <;> decide +kernel

/-- A wait at a home whose timer ends at cycle 7, and one without a home. -/
def timed (w : Wait) : Ctx := { ctxOf .waiting w (.l2 3) with book := { book with owner := .l2 3, timer := some (0, 7) } }

theorem witness_WaitsThatEnd_limit :
    let s := atCycle (wireState (timed (.frame 0x1020)) (.cancel lineVa (.frame 0x1020) 0)) 7
    let served : State := { s with wire := s.wire ++ [(6, .served lineVa none 0 false)] }
    s.ctx? lineVa = some (timed (.frame 0x1020)) ∧ (Wait.frame 0x1020).atHome = true ∧ (Wait.queue 2).atHome = false ∧
    (s.tenant 1).vecEn = false ∧ 7 ≤ (s.unit 0).cycle ∧ s.msg? 5 = some (.cancel lineVa (.frame 0x1020) 0) ∧
    (timed (.frame 0x1020)).book.stamp = 0 ∧ (timed (.frame 0x1020)).line.st = .waiting ∧
    s.accessUnderWay lineVa = false ∧ s.accessServed lineVa (.frame 0x1020) 0 = false ∧
    served.accessServed lineVa (.frame 0x1020) 0 = true ∧ served.accessUnderWay lineVa = false ∧
    served.msg? 5 = some (.cancel lineVa (.frame 0x1020) 0) := by dsimp only; and_intros <;> decide +kernel

theorem witness_WaitsThatEnd_open :
    let c : Ctx := ⟨{ line regs with st := .issuing, openMsg := true }, { book with msg := [3], msgStart := 7 }⟩
    let s := (atCycle (wireState c (.ack 9)) 72).modUnit 0 (fun x => { x with slots := setNth x.slots 8 ⟨none, some lineVa, 0⟩ })
    s.turnDue 0 = true ∧ rotSlot (s.unit 0).rot ((s.unit 0).cycle % 16) = 8 ∧
    s.ctx? lineVa = some c ∧ (s.slot 0 8).occ = some lineVa ∧ c.book.owner = .l1 0 ∧ 7 + 64 < (s.unit 0).cycle ∧
    (s.tenant 1).vecEn = false ∧ s.units.all (fun x => (Assoc.get x.2.holding lineVa).isNone) = true := by
  dsimp only; and_intros <;> decide +kernel

/-- A line without stores outstanding, its OSEQ at the top of its range. -/
def quiet (st : CtxState) (o : Owner) : Ctx :=
  ⟨{ line regs with st := st, oseq := 65535 }, { book with owner := o, lastUnit := none, take := none }⟩

/-- No delivery to the line is under way, a message being the one on the wire. -/
theorem nothing_held (c : Ctx) (m : Msg) (h : ∀ r v i x f, m ≠ .load lineVa r v i ∧ m ≠ .error lineVa r x f i)
    (k : ∀ v d a w0 w1 x, m ≠ .stealResult lineVa v d a w0 w1 x) :
    ¬ ∃ n ∈ (wireState c m).wire, (∃ r v i, n.2 = .load lineVa r v i) ∨ (∃ r x f i, n.2 = .error lineVa r x f i) ∨
      ∃ v d a w0 w1 x, n.2 = .stealResult lineVa v d a w0 w1 x := by
  rintro ⟨n, hn, h1⟩
  have : n = (5, m) := by simpa [wireState] using hn
  subst this
  rcases h1 with ⟨r, v, i, h1⟩ | ⟨r, x, f, i, h1⟩ | ⟨v, d, a, w0, w1, x, h1⟩
  · exact (h r v i 0 0).1 h1
  · exact (h r 0 i x f).2 h1
  · exact k v d a w0 w1 x h1

theorem witness_LinesMove_held (dev : Nat) (o : Owner) (c : Ctx) :
    ¬ ∃ n ∈ (wireState c (.comet lineVa dev o)).wire, (∃ r v i, n.2 = .load lineVa r v i) ∨
      (∃ r x f i, n.2 = .error lineVa r x f i) ∨ ∃ v d a w0 w1 x, n.2 = .stealResult lineVa v d a w0 w1 x :=
  nothing_held c _ (fun _ _ _ _ _ => ⟨by simp, by simp⟩) (fun _ _ _ _ _ _ => by simp)

theorem witness_LinesMove_comet :
    let s := wireState (quiet .transit (.l1 0)) (.comet lineVa 3 (.l1 7))
    s.ctx? lineVa = some (quiet .transit (.l1 0)) ∧ s.msg? 5 = some (.comet lineVa 3 (.l1 7)) ∧ s.released 0 5 = true ∧
    3 ≠ s.device ∧ (wireState (quiet .transit (.l1 0)) (.comet lineVa 0 (.l2 7))).msg? 5 = some (.comet lineVa 0 (.l2 7)) ∧
    0 = s.device ∧ s.l1Count 7 < 256 ∧ s.l2Count 7 < 65536 ∧ (quiet .transit (.l1 0)).line.stores = 0 ∧
    (quiet .transit (.l1 0)).line.haltReq = false ∧ (wireState (quiet .transit (.l1 0)) (.comet lineVa 0 (.l2 7))).released 0 5 = true := by
  dsimp only; and_intros <;> decide +kernel

/-- A line claimed by unit 7 and on its way to it. -/
def taken (o : Owner) : Ctx := { quiet .ready o with book := { (quiet .ready o).book with take := some 7 } }
def slotState (s : State) : State :=
  { s.modUnit 7 (fun x => { x with slots := setNth x.slots 4 ⟨none, some lineVa, 0⟩ }) with
    tenants := [(1, { Tenant.reset with qset := 1 })] }

theorem witness_LinesMove_claims :
    let refill := wireState (quiet .ready (.l2 4)) (.claim lineVa (.l1 7) .refill 65535)
    let take := wireState (taken (.l2 4)) (.claim lineVa (.l1 7) .take 65535)
    let arrive := slotState (wireState (taken (.l1 7)) (.lineMove lineVa 7 none))
    refill.msg? 5 = some (.claim lineVa (.l1 7) .refill 65535) ∧ refill.ctx? lineVa = some (quiet .ready (.l2 4)) ∧
    refill.claimReleased (quiet .ready (.l2 4)) 5 = true ∧ take.claimReleased (taken (.l2 4)) 5 = true ∧
    refill.l1Count 7 < 256 ∧ (∀ k ∈ (refill.unit 7).slots, k.occ ≠ some lineVa) ∧
    (wireState (quiet .ready (.l2 4)) (.claim lineVa (.l1 7) .refill 65534)).msg? 5 =
      some (.claim lineVa (.l1 7) .refill 65534) ∧
    take.msg? 5 = some (.claim lineVa (.l1 7) .take 65535) ∧ take.ctx? lineVa = some (taken (.l2 4)) ∧
    arrive.msg? 5 = some (.lineMove lineVa 7 none) ∧ arrive.ctx? lineVa = some (taken (.l1 7)) ∧ arrive.l1Count 7 < 256 ∧
    (arrive.unit 7).slots.findIdx? (fun x => x.occ == some lineVa) = some 4 ∧ arrive.queueOk 1 0 = true ∧
    ({ s0 with
      lines := [(0x2000, quiet .ready (.l2 4))]
      tenants := [(1, { Tenant.reset with arena := some (0x1000, 0x100) })] } : State).victimL2 4 = some 0x2000 := by dsimp only; and_intros <;> decide +kernel

/-- A line on its way down from unit 0's L1, and from the L2 of cluster 4. -/
def parting (o : Owner) : Ctx := { quiet .ready o with book := { (quiet .ready o).book with leaving := true } }

theorem witness_LinesMove_evictions :
    let l1 := wireState (parting (.l1 0)) (.claim lineVa (.l2 0) .evict 65535)
    let l2 := wireState (parting (.l2 4)) (.claim lineVa (.hbm 4) .evict 65535)
    l1.msg? 5 = some (.claim lineVa (.l2 0) .evict 65535) ∧ l1.ctx? lineVa = some (parting (.l1 0)) ∧
    l1.claimReleased (parting (.l1 0)) 5 = true ∧ l1.l2Count 0 < 65536 ∧
    l2.msg? 5 = some (.claim lineVa (.hbm 4) .evict 65535) ∧ l2.ctx? lineVa = some (parting (.l2 4)) ∧
    l2.claimReleased (parting (.l2 4)) 5 = true ∧ (parting (.l2 4)).line.oseq = 65535 := by
  dsimp only; and_intros <;> decide +kernel

/-! ### Ring and tile operations, matrix steps -/

/-- A ring operation of the context on the ring of two FP32 tiles. -/
def ringReq (push stage : Bool) : RingReq :=
  ⟨.ctx lineVa, 0, push, stage, tileRef 22, if stage then none else some (tileRef 7), 0x77, 3, .device, 5⟩

/-- The ring with its two positions, and the operation under way. -/
def ringState (head tail : Nat) (push stage : Bool) : State :=
  { tileTurn engLine with
    lines := [(lineVa, ctxOf .waiting (.ring 22) (.l1 0))]
    mem := Memory.writeRange (tileTurn engLine).mem ((tileRef 22).entry + 16) (bytesOf (head + 65536 * tail) 8)
    wire := [(5, .ringOp (ringReq push stage))], nextId := 9 }

/-- What RingAndTileOperations asks of every ring operation. -/
def RingReady (s : State) : Prop :=
  Intact s (tileRef 22).entry (tileRef 22).kslot ∧ s.ringList (tileRef 22).entry = [] ∧ s.released 0 5 = true ∧
  (tileRef 22).entry % 64 ≤ 32

theorem witness_RingAndTileOperations_ring :
    (∀ p g, (ringState 0 0 p g).msg? 5 = some (.ringOp (ringReq p g)) ∧ RingReady (ringState 0 0 p g)) ∧
    (ringState 0 0 true false).ringBlocked (ringReq true false) = false ∧
    (ringState 0 0 false false).ringBlocked (ringReq false false) = false ∧
    (ringState 0 0 true false).ringCount (tileRef 22) < (tileRef 22).slots ∧
    0 < (ringState 0 2 false false).ringCount (tileRef 22) ∧ (ringState 0 2 false false).ringBlocked (ringReq false false) = false ∧
    RingReady (ringState 0 2 false false) ∧ (tileRef 22).slots ≤ (ringState 0 2 true false).ringCount (tileRef 22) ∧
    (ringState 0 2 true false).ringBlocked (ringReq true false) = false := by
  unfold RingReady Intact; and_intros <;> decide +kernel

/-- A tile operation of a READY context with six operations outstanding. -/
def tileOpState (k : TileKind) : State :=
  { tileTurn engLine with
    lines := [(lineVa, ⟨{ line regs with st := .ready, tiles := 6, pend := 0xFF }, book⟩)]
    tileOps := [⟨5, lineVa, 0, 0, 1, .rne, k, []⟩] }

/-- What RingAndTileOperations asks of every tile operation. -/
def OpReady (k : TileKind) : Prop :=
  (tileOpState k).tileOp? 5 = some ⟨5, lineVa, 0, 0, 1, .rne, k, []⟩ ∧
  (tileOpState k).tileBlocked ⟨5, lineVa, 0, 0, 1, .rne, k, []⟩ = false ∧
  (tileOpState k).storesBefore ⟨5, lineVa, 0, 0, 1, .rne, k, []⟩ = true ∧
  (tileOpState k).ctx? lineVa = some ⟨{ line regs with st := .ready, tiles := 6, pend := 0xFF }, book⟩

theorem witness_RingAndTileOperations_tile :
    OpReady (.get 3 (tileRef 7) 511) ∧ OpReady (.set (tileRef 7) 511 9) ∧ OpReady (.fill (tileRef 7) 0x3F800000) ∧
    OpReady .accZ := by unfold OpReady; and_intros <;> decide +kernel

/-- A unit at the start of matrix period 15 with a step of the operation in the latch of the slot of that period. -/
def mmaState : State :=
  (tileOpState (.mma true .f16 32 [tileRef 1] [tileRef 2] [])).modUnit 0 (fun x => { x with
    cycle := 240, periodDone := false, latch := [(rotSlot x.mrot 15, ⟨5, 2⟩)] })

theorem witness_MatrixStepsAndCommits_step :
    let op : TileOp := ⟨5, lineVa, 0, 0, 1, .rne, .mma true .f16 32 [tileRef 1] [tileRef 2] [], []⟩
    mmaState.unitUp 0 = true ∧ mmaState.faulted = false ∧ (mmaState.unit 0).cycle % 16 = 0 ∧
    (mmaState.unit 0).periodDone = false ∧ (mmaState.unit 0).running = none ∧ (mmaState.unit 0).cycle / 16 % 16 = 15 ∧
    (mmaState.unit 0).level ≤ rev4 15 ∧ (mmaState.unit 0).mrotv.getLsbD 15 = true ∧
    Assoc.get (mmaState.unit 0).latch (rotSlot (mmaState.unit 0).mrot 15) = some ⟨5, 2⟩ ∧ mmaState.tileOp? 5 = some op ∧
    mmaState.tileBlocked op = false ∧ mmaState.storesBefore op = true := by dsimp only; and_intros <;> decide +kernel

theorem witness_MatrixStepsAndCommits_done :
    let op : TileOp := ⟨5, lineVa, 0, 0, 1, .rne, .mma true .f16 32 [tileRef 1] [tileRef 2] [], []⟩
    let s := (tileOpState op.kind).modUnit 0 (fun x => { x with cycle := 16, running := some (5, 16) })
    (s.unit 0).running = some (5, 16) ∧ 16 ≤ (s.unit 0).cycle ∧ s.tileOp? 5 = some op ∧
    s.ctx? lineVa = some ⟨{ line regs with st := .ready, tiles := 6, pend := 0xFF }, book⟩ ∧
    (∀ x ∈ (s.unit 0).latch, x.2.op ≠ 5) ∧ s.lines.all (fun x => x.2.line.wait != .acc 0) = true := by
  dsimp only; and_intros <;> decide +kernel

/-- An ATTN.CLOSE whose stage tile holds no page, and one whose slot holds page 0x4000. -/
def closeState (w2 : Nat) : State :=
  { tileOpState (.attnClose (tileRef 7) [tileRef 8] 0 0) with
    scratch := Memory.writeRange [] ((tileRef 7).base 0 + 4 * (32 * 1 + 2)) (bytesOf w2 4) }

theorem witness_MatrixStepsAndCommits_close :
    let op : TileOp := ⟨5, lineVa, 0, 0, 1, .rne, .attnClose (tileRef 7) [tileRef 8] 0 0, []⟩
    (∀ w, w = 0 ∨ w = 0x4000 → (closeState w).tileOp? 5 = some op ∧ (closeState w).tileBlocked op = false ∧
      (closeState w).storesBefore op = true ∧ (closeState w).at' (tileRef 7) 1 2 = w ∧
      (closeState w).at' (tileRef 7) 1 3 = 0) ∧
    (∃ ms, (closeState 0x4000).spansAt 0 1 accRmw 3 0x4000 pageBytes = .ok ms) ∧ (0x4000, 1) ∉ (closeState 0x4000).pagesUnder ∧
    (closeState 0x4000).spansAt 0 1 accRmw 3 (addVa 0x4000 0x4000) 256 = .ok [⟨addVa 0x4000 0x4000, 0x8000, 256, attr⟩] ∧
    (∀ k, k < 4 → Intact (closeState 0x4000) (0x8000 + 64 * k) attr.kslot) ∧ SlicesSound (closeState 0x4000) := by
  refine ⟨fun w h => ?_, exists_ok (by decide +kernel), by decide +kernel, of_okOf (by decide +kernel), ?_,
    by unfold SlicesSound Intact; decide +kernel⟩
  · rcases h with rfl | rfl <;> (and_intros <;> decide +kernel)
  · intro k h; rcases k with _ | _ | _ | _ | k <;> first | omega | (unfold Intact; and_intros <;> decide +kernel)

/-! ### Collectives, compaction, translation, host, pages, errors, start -/

/-- A member of the collective: one INT32 element at a buffer. -/
def member (id u : Nat) (buf : W64) (rank : Nat) : Cmd :=
  { cmd id .collAr u 4 0 buf 0x100000001 0 .grouped with desc := [0, BitVec.ofNat 64 (rank * 2 ^ 16 + 2)] }

/-- Two members on units 0 and 3, buffers at 0x1010 and 0x1054, for one operation. -/
def groupOf (op : Nat) : Group := ⟨5, 1, 0, 0, 2, 1, 1, op, 0, false, [(0, 5), (1, 6)], []⟩
def groupState (op : Nat) : State :=
  { s0 with
    groups := [groupOf op]
    cmds := [member 5 0 0x1010 0, member 6 3 0x1054 1]
    units := Assoc.set s0.units 3 { Unit.reset with tlb := [fetchPage] }
    mem := Memory.writeRange (Memory.writeRange [] 0x1010 (bytesOf 5 4)) 0x1054 (bytesOf 0xFFFFFFFE 4) }

/-- What CollectivesAndCompaction asks of a member. -/
def Joined (s : State) (k : Cmd) (rank : Nat) : Prop :=
  s.cmd? k.id = some k ∧ k.op = .collAr ∧ k.rank = rank ∧ k.count = 1 ∧ s.missing (.cmd k.id) = false ∧
  k.b.toNat % 4 = 0 ∧ s.xlate k.unit k.tenant (k.b.toNat % 2 ^ 56) accRmw = .ok fetchPage ∧
  Intact s (fetchPage.addr (k.b.toNat % 2 ^ 56)) fetchPage.kslot ∧
  (s.pageRec (fetchPage.addr (k.b.toNat % 2 ^ 56) / 65536)).moved = false ∧ fetchPage.trace = false ∧
  fetchPage.addr (k.b.toNat % 2 ^ 56) % 4 = 0

/-- Sum, maximum and minimum. -/
theorem witness_CollectivesAndCompaction_group :
    (groupOf 0).op = 0 ∧ (groupOf 1).op = 1 ∧ (groupOf 2).op = 2 ∧ (groupState 0).groups = [groupOf 0] ∧
    (groupOf 2).members = [(0, (member 5 0 0x1010 0).id), (1, (member 6 3 0x1054 1).id)] ∧
    (groupState 0).faulted = false ∧ (groupOf 2).p = 2 ∧ (groupOf 2).n = 1 ∧ (groupOf 2).guests = [] ∧ SlicesSound (groupState 0) ∧ (groupOf 2).fmt = 1 ∧ (groupOf 2).bc = false ∧
    Joined (groupState 0) (member 5 0 0x1010 0) 0 ∧ Joined (groupState 0) (member 6 3 0x1054 1) 1 ∧
    Joined (groupState 1) (member 5 0 0x1010 0) 0 ∧ Joined (groupState 2) (member 6 3 0x1054 1) 1 ∧
    fetchPage.addr 0x1010 / 64 ≠ fetchPage.addr 0x1054 / 64 := by
  unfold Joined SlicesSound Intact; and_intros <;> decide +kernel

/-- A compaction of two pages with a number of live tokens. -/
def evictCmd : Cmd := cmd 5 .kvEvict 0 5 0x1040 7 0 0 .queued
def evictState (live : Nat) : State :=
  { s0 with
    cmds := [evictCmd]
    mem := Memory.writeRange (Memory.writeRange [] 0x1040
      (wordsBytes [0x8000, 0x1100, 0x1200, BitVec.ofNat 64 live, 2, 0, 0, 0])) 0x1100 (bytesOf 3 4 ++ bytesOf 1 4) }

/-- An access of an engine that went through. -/
def throughOk : Access (List Byte) → Option (State × List Byte)
  | .ok s bs => some (s, bs)
  | _ => none

theorem witness_CollectivesAndCompaction_evict :
    (evictState 65).cmd? 5 = some evictCmd ∧ (evictState 65).canRun evictCmd = true ∧ (evictState 64).canRun evictCmd = true ∧
    okOf ((evictState 64).engAt evictCmd 0x1040 accRead) = some (fetchPage, 0x1040, attr) ∧
    (evictState 64).compactorFree 5 (dieOfStack (stackOf 0x1040)) = true ∧
    (throughOk ((evictState 64).engRead evictCmd 0x1040 64)).map (fun r =>
      (ofBytes ((r.2.drop 24).take 8), (throughOk (r.1.engRead evictCmd 0x1100 8)).isSome)) = some (64, true) ∧
    (throughOk ((evictState 65).engRead evictCmd 0x1040 64)).map (fun r => ofBytes ((r.2.drop 24).take 8)) = some 65 := by
  and_intros <;> decide +kernel

/-- A compaction with one write left. -/
def moveCmd : Cmd := { evictCmd with phase := .moving, plan := [(0x1061, [1, 2, 0])], c := 0x99 }
theorem witness_CollectivesAndCompaction_move :
    let s : State := { s0 with cmds := [moveCmd] }
    s.cmd? 5 = some moveCmd ∧ s.faulted = false ∧ s.missing (.cmd 5) = false ∧ 0x1061 % 64 + 3 ≤ 64 ∧
    s.xlate 0 1 0x1061 accWrite = .ok fetchPage ∧ fetchPage.addr 0x1061 % 64 = 0x1061 % 64 ∧
    Intact s (fetchPage.addr 0x1061) fetchPage.kslot ∧ (s.pageRec (fetchPage.addr 0x1061 / 65536)).moved = false ∧
    fetchPage.trace = false ∧ SlicesSound s := by unfold SlicesSound Intact; and_intros <;> decide +kernel

/-- A replay without a match, at its limit and one cycle before it. -/
theorem witness_CollectivesAndCompaction_replay :
    let at' (n : Nat) := atCycle (s0.modUnit 0 (fun x => { x with alog := { x.alog with mode := 2, since := 7 } })) n
    ((at' 0).alog (.slice 0)).mode = 2 ∧ ((at' 1048583).alog (.slice 0)).since + 1048576 ≤ (at' 1048583).portCycle (.slice 0) ∧
    (at' 1048582).portCycle (.slice 0) < ((at' 1048582).alog (.slice 0)).since + 1048576 := by and_intros <;> decide +kernel

/-- A miss with a walk of its page under way or none. -/
def walkState (ws : List Walk) : State :=
  { wireState (ctxOf .waiting (.translation 0x1010) (.l1 0)) (.miss missReq) with
    clusters := [(0, { Cluster.reset with tsu := ws })] }

theorem witness_TranslationService :
    let full := walkState (List.replicate 4096 ⟨4, [{ missReq with tenant := 2 }]⟩)
    let s := walkState [⟨4, [missReq]⟩]
    let c := ctxOf .waiting (.translation 0x1010) (.l1 0)
    (walkState []).msg? 5 = some (.miss missReq) ∧ ((walkState []).cluster 0).tsu = [] ∧
    (s.cluster 0).tsu = [⟨4, [missReq]⟩] ∧ (⟨4, [missReq]⟩ : Walk).joins missReq = true ∧
    4096 ≤ (full.cluster 0).tsu.length ∧ (full.cluster 0).tsu.any (fun k => k.joins missReq) = false ∧
    s.walk? 4 = some (0, ⟨4, [missReq]⟩) ∧ s.ctx? lineVa = some c ∧ c.line.st = .waiting ∧
    c.line.wait = .translation missReq.va ∧ c.book.stamp = missReq.tag ∧ c.line.haltReq = false ∧ decode c.book.word = none ∧ (s.unit 0).tlb.any (fun t => t.covers 1 0x1010) = true ∧
    s.units.all (fun x => (Assoc.get x.2.holding lineVa).isNone) = true ∧ (s.tenant 1).vecEn = false ∧
    (s.tenant 0).vecEn = false ∧ 0 < (s.unit 0).tlb.length ∧ s.unitUp 0 = true := by dsimp only; and_intros <;> decide +kernel

theorem witness_TranslationService_statuses :
    let c := ctxOf .ready .none (.l1 0)
    let inv := wireState c (.tlbInv lineVa 3 1 [])
    let key := { wireState c (.keyChange lineVa 3 9 (some 77)) with keyStore := [(77, (5, 7))] }
    inv.msg? 5 = some (.tlbInv lineVa 3 1 []) ∧ c.line.st ≠ .transit ∧
    key.msg? 5 = some (.keyChange lineVa 3 9 (some 77)) ∧ Assoc.get key.keyStore 77 = some (5, 7) ∧
    Assoc.get (wireState c (.keyChange lineVa 3 9 (some 77))).keyStore 77 = none ∧
    (wireState c (.keyChange lineVa 3 9 none)).msg? 5 = some (.keyChange lineVa 3 9 none) ∧
    key.wire.any (fun m => decide (m.1 < 5) && (match m.2 with | .keyChange _ _ _ _ => true | _ => false)) = false := by
  dsimp only; and_intros <;> decide +kernel

/-- A state with one page of the tenant, a queue of it and cached context lines on cluster 3. -/
def hostState : State :=
  { s0 with
    pageRecs := [(0, { PageRec.reset with kslot := 1, tenant := 1, valid := true, w := true, r := true })]
    tenants := [(1, { Tenant.reset with qset := 2 })]
    clusters := [(3, { Cluster.reset with cache := [(1, [0x100100, 0x100180])] })] }
def spawnWords : List W64 := [0x7000, 0x0000000300770201, 1, 2, 3, 4, 5, 6, 7, 8]

theorem witness_HostRequests_spawn :
    hostState.linkUp = true ∧ hostState.faulted = false ∧ spawnWords.length = 10 ∧ rootInvalid spawnWords = false ∧
    rootInvalid (0x7002 :: spawnWords.drop 1) = true ∧ (hostState.tenant 1).qset.getLsbD 1 = true ∧
    (hostState.tenant 2).qset.getLsbD 1 = false ∧ (nth spawnWords 1 0).toNat % 64 = 1 ∧
    (nth spawnWords 1 0).toNat / 2 ^ 32 % 2 ^ 8 = 3 ∧ hostState.clusterUp 3 = true ∧
    (hostState.allocFrom (3 * 96) 3 1).map (fun p => (p.1, decide (p.2.l2Count 3 < 65536))) = some (0x100180, true) ∧
    hostState.wire = [] := by and_intros <;> decide +kernel

/-- Each size, at the last place of the page that it fits; a page of another tenant. -/
theorem witness_HostRequests_access :
    (∀ p ∈ [((0 : Nat), (1 : Nat)), (1, 2), (2, 4), (3, 8), (6, 64)],
      let w : W64 := BitVec.ofNat 64 (p.1 * 2 ^ 60 + 65536 - p.2)
      w.toNat / 2 ^ 60 % 2 ^ 3 = p.1 ∧ w.toNat % 2 ^ 52 = 65536 - p.2 ∧ (65536 - p.2) % p.2 = 0 ∧
      isStack (65536 - p.2) = true ∧ hostState.inbound 1 (65536 - p.2) false = none ∧
      hostState.inbound 1 (65536 - p.2) true = none) ∧
    Intact hostState 0xFFC0 (hostState.inboundAttr 0xFFC0).kslot ∧ Intact hostState 0xFFFF (hostState.inboundAttr 0xFFFF).kslot ∧
    (hostState.inboundAttr 0xFFC0).trace = false ∧ hostState.fenced 0xFFC0 = false ∧ hostState.fenced 0xFFFF = false ∧
    hostState.fenced 0x1000 = false ∧ SlicesSound hostState ∧ hostState.inbound 2 0x1000 false = some 0x05 ∧ 3 < 64 ∧
    3 ≠ hostState.device ∧ hostState.wire = [] := by unfold SlicesSound Intact; and_intros <;> decide +kernel

theorem witness_PagesAndManagement :
    let w : W64 := BitVec.ofNat 64 (2 ^ 63)
    (s0.linkUp = true ∧ s0.faulted = false ∧ s0.cmds = [] ∧ Assoc.sorted s0.pageRecs = true ∧ [w, 1].length = 2 ∧
      [w, 65536].length = 2) ∧ isStack 0x10000 = true ∧ 3 ≠ s0.device ∧ (s0.pageRec 1).moved = false ∧
    (s0.pageRec 1).peerpin = false ∧
    (({ s0 with pageRecs := [(1, { PageRec.reset with peerpin := true })] } : State).pageRec 1).peerpin = true ∧
    ({ s0 with deviceSet := false } : State).starting = none ∧ s0.deviceSet = true ∧ (nth [(1 : W64), 1, 0x103] 2 0).getLsbD 8 = true ∧ (3 : Nat) ≠ s0.device ∧
    SlicesSound s0 ∧ s0.wire = [] ∧ (∀ k, k < 7 → (nth [BitVec.ofNat 64 k] 0 0).toNat % 2 ^ 8 = k) := by
  unfold SlicesSound Intact; dsimp only; and_intros <;> decide +kernel

theorem witness_SoftErrors_accumulator :
    let s : State := { wireState (ctxOf .ready .none (.l1 7)) (.ack 9) with
      units := [(0, { s0.unit 0 with accOwn := lineVa, acc := [(3, 5)] })] }
    s.unitUp 0 = true ∧ (s.unit 0).latch = [] ∧ s.lines.all (fun x => x.2.line.wait != .acc 0) = true ∧
    s.ctx? (s.unit 0).accOwn = some (ctxOf .ready .none (.l1 7)) ∧ (s.unit 0).accOwn ≠ 0 ∧
    s.units.all (fun x => (Assoc.get x.2.holding lineVa).isNone) = true ∧ (s.tenant 0).vecEn = false ∧
    (ctxOf .ready .none (.l1 7)).moving = false ∧ s0.unitUp 1535 = true := by dsimp only; and_intros <;> decide +kernel

theorem witness_SoftErrors_lost :
    let s := s0.modUnit 0 (fun x => { x with dl1 := [(0x1014, ⟨0x55, true, attr, ⟨0, false⟩⟩)], deque := [entry 1 0x40 7] })
    isStack (0x40 * 64) = true ∧ s.hostBias (0x40 * 64) = false ∧ Assoc.get s.quarantine 0x40 = none ∧
    s.quarCount (dieOfStack (stackOf (0x40 * 64))) < 1024 ∧
    (s.unit 0).dl1.find? (fun b => b.1 / 64 == 0x40 && b.2.dirty) = some (0x1014, ⟨0x55, true, attr, ⟨0, false⟩⟩) ∧
    (s.unit 0).deque[0]? = some (entry 1 0x40 7) := by dsimp only; and_intros <;> decide +kernel

theorem witness_SoftErrors_tile :
    let s := tileTurn engLine
    s.units.findSome? (fun x => (s.entryAt x.1 1 0 7 none [1, 2]).toOption) = some { tileRef 7 with handle := 0 } ∧ (tileRef 7).kind = 1 ∧
    (tileRef 7).entry % 32 = 0 ∧ Intact s (tileRef 7).entry (tileRef 7).kslot ∧ s.ringList (tileRef 7).entry = [] := by
  unfold Intact; dsimp only; and_intros <;> decide +kernel

theorem witness_SoftErrors_patrol :
    let s := ({ s0 with blockTag := [(805306367, (1, (0, 0)))] } : State).modStack 0 (fun x => { x with patrol := 805306367 })
    s.stackUp 0 = true ∧ s.faulted = false ∧ (s.stack 0).patrol = 805306367 ∧
    Assoc.get s.quarantine 805306367 = none ∧ Assoc.get s.blockTag 805306367 = some (1, (0, 0)) ∧
    s.hostBias (805306367 * 64) = false ∧ (Assoc.get s.keys 1).isSome = true ∧ isStack (805306367 * 64) = true ∧
    s.quarCount (dieOfStack (stackOf (805306367 * 64))) < 1024 ∧ s.lineCached 805306367 1 = false ∧
    Assoc.get s.keys 1 = some (0, 0) ∧ Assoc.get (s.upset 0 []).damage 805306367 = none ∧
    Assoc.get (s.upset 0 [(805306367, 71, 1)]).damage 805306367 ≠ none := by
  dsimp only; and_intros <;> decide +kernel

/-- Every element of the start passes: with outcomes named and with none. -/
theorem witness_StartBringsUp :
    (∀ o ∈ [StartOutcome.mk true 3 1 5, StartOutcome.mk true 0 3 6], o.passed = true ∧ o.mask &&& 0x0003 ≠ 0) ∧
    (∀ o ∈ [StartOutcome.mk true 3 1 5, StartOutcome.mk true 0 3 6], o.number ≠ 0) ∧
    State.reset.minVersion ≤ State.reset.startVersion true ∧ [(1 : W64), 3, 0x100].length ≤ 255 ∧
    (nth [(1 : W64), 3, 0x100] 0 0).toNat % 2 ^ 8 = 1 ∧ State.reset.units = [] ∧ State.reset.hstacks = [] :=
  ⟨by decide, by decide, Nat.zero_le _, by decide, by decide, rfl, rfl⟩

/-- A start of images below the fused minimum. -/
theorem witness_StartBringsUp_refused :
    let s : State := { State.reset with minVersion := State.reset.startVersion false + 1 }
    s.startVersion false < s.minVersion := Nat.lt_succ_self _

/-- A unit whose cycle begins a period, its boundary made and not, and one in the middle of it. -/
theorem witness_CyclesAndBoundaries :
    let at' (n : Nat) (b : Bool) := State.reset.modUnit 0 (fun x => { x with cycle := n, boundaryDone := b })
    (at' 32 true).unitUp 0 = true ∧ (at' 32 true).faulted = false ∧
    ((at' 32 true).slot 0 (rotSlot ((at' 32 true).unit 0).rot 0)).occ = none ∧ ((at' 32 true).unit 0).boundaryDone = true ∧
    ((at' 32 false).unit 0).boundaryDone = false ∧ ((at' 32 false).unit 0).cycle % 16 = 0 ∧
    ((at' 47 false).unit 0).cycle % 16 ≠ 0 ∧ (at' 47 false).unitUp 1631 = true ∧
    (at' 47 false).fifoHead 0 none = none ∧ (at' 32 true).fifoHead 0 none = none ∧
    ((at' 47 false).slot 0 (rotSlot ((at' 47 false).unit 0).rot 15)).occ = none := by dsimp only; and_intros <;> decide +kernel

/-! ### Further clauses -/

/-- The fourth turn that a pending register wastes (O7), and that a full TILES wastes (O35). -/
theorem witness_TurnsWithoutEffect_fourth :
    let l := (line regs).setPend 1
    let b := { book with wasted := 3 }
    let s := (turn l).setCtx fetchCtx ⟨l, b⟩
    let e := { env l with book := b }
    s.env? = some e ∧ e.line.guard t = true ∧ e.line.pending 1 = true ∧ e.line.pending 2 = false ∧ e.line.pending 0 = false ∧
    e.book.wasted = 3 ∧ CanPark s e ∧ (∀ m ∈ s.wire, m.2.pair e.va = 0) := by unfold CanPark; dsimp only; and_intros <;> decide +kernel

theorem witness_TileChecksTrap_full :
    let l := { tileLine 7 8 9 22 with tiles := 63 }
    let b := { book with wasted := 3 }
    let s := (tileTurn l).setCtx fetchCtx ⟨l, b⟩
    let e := { env l with book := b }
    s.handleAt e (e.line.reg 0) [1] = .ok (tileRef 7) ∧ s.handleAt e (e.line.reg 3) [2] = .ok (tileRef 22) ∧
    s.handleAt e (e.line.reg 0) [1, 2, 3] = .ok (tileRef 7) ∧ Turn s e t [0, 1] false ∧ Turn s e t [1, 0, 2] false ∧
    Turn s e t [1, 3] false ∧ Turn s e t [0] false ∧ Turn s e t [3, 0] false ∧ Turn s e t [0, 3] false ∧
    (tileRef 7).dim = (tileRef 22).dim ∧ (tileRef 7).fmt = (tileRef 22).fmt ∧ e.line.tiles = 63 ∧ e.book.wasted = 3 ∧ CanPark s e ∧
    Turn (tileTurn l) (env l) t [0, 1] false ∧ (env l).book.wasted < 3 :=
  ⟨of_okOf (by decide +kernel), of_okOf (by decide +kernel), of_okOf (by decide +kernel),
    by unfold Turn CanPark; dsimp only; and_intros <;> decide +kernel⟩

/-- Quiet NaNs, a number, and an infinity that meets a zero (O14, O16). -/
theorem witness_FloatValueRules_values :
    fp32.unpack 0x7FC00000 = .nan false ∧ FV.nan false ≠ .nan true ∧ (fp32.unpack 0x7FC00000).isNan = true ∧
    (fp32.unpack 0x3F800000).isNan = false ∧ fp32.unpack 0x7F800000 = .inf false ∧ fp32.unpack 0 = .fin false 0 (-149) := by
  decide +kernel

/-! #### Loads and stores that leave the data L1 -/

/-- A turn whose g0 is an address, under some translations. -/
def paged (a : W64) (tlb : List TlbEntry) : State := (turn (line #v[a, 0, 0, 0, 0, 0, 0, 0])).modUnit 0 (fun x => { x with tlb := tlb })
def pagedEnv (a : W64) : Env := env (line #v[a, 0, 0, 0, 0, 0, 0, 0])

/-- The turn of a load or a store of g0's doubleword, and its address. -/
def AtWord (s : State) (e : Env) (va : Nat) : Prop :=
  Turn s e t [2, 0] true ∧ (va : Int) = ((e.line.reg 0).toNat + (0 : BitVec 14).toInt * 8) % 2 ^ 56 ∧ va % 8 = 0

theorem AtWord.load {s : State} {e : Env} {va : Nat} (h : AtWord s e va) : LoadOf s e (.ld t 2 0 .d ⟨0, false⟩ 0) 2 .d ⟨0, false⟩ va :=
  .inl ⟨t, 0, 0, rfl, h.1, h.2.1⟩

theorem AtWord.store {s : State} {e : Env} {va : Nat} (h : AtWord s e va) : StoreOf s e (.st t 2 0 .d ⟨0, false⟩ 0) 2 .d ⟨0, false⟩ va :=
  .inl ⟨t, 0, 0, rfl, h.1, h.2.1⟩

/-- The turn at a doubleword of a context line of an arena of a tenant, the line in a state in unit 7's L1. -/
def lineTurn (own : Nat) (st : CtxState) : State :=
  { paged 0x100108 [fetchPage, { fetchPage with va := 0x100000, pa := 0x100000 }] with
    lines := [(fetchCtx, ⟨line #v[0x100108, 0, 0, 0, 0, 0, 0, 0], book⟩),
      (0x100100, ⟨{ line regs with st := st }, { book with owner := .l1 7 }⟩)]
    tenants := [(own, { Tenant.reset with arena := some (0x100000, 100) })] }

theorem witness_LoadsIssue_line (st : CtxState) (h : st = .trapped ∨ st = .halted ∨ st = .ready) :
    let s := lineTurn 1 st
    let e := pagedEnv 0x100108
    AtWord s e 0x100108 ∧ s.acquireMask e.va = 0 ∧ s.fillPending e.va = false ∧ s.arenaOf 0x100108 = some 1 ∧
    okOf (s.xlate e.u 1 0x100108 accRead) = some { fetchPage with va := 0x100000, pa := 0x100000 } ∧
    okOf (s.xlate e.u 1 0x100108 accWrite) = some { fetchPage with va := 0x100000, pa := 0x100000 } ∧
    s.ctx? (0x100108 / 128 * 128) = some ⟨{ line regs with st := st }, { book with owner := .l1 7 }⟩ ∧
    (∀ cl, (Owner.l1 7) ≠ .hbm cl) ∧ 0x100108 / 128 * 128 ≠ e.va ∧ e.line.loads < 63 ∧ e.line.stores < 63 := by
  rcases h with rfl | rfl | rfl <;>
    exact ⟨by unfold AtWord Turn; decide +kernel, by decide +kernel, by decide +kernel, by decide +kernel, by decide +kernel,
      by decide +kernel, by decide +kernel, fun _ => Owner.noConfusion, by decide +kernel, by decide, by decide⟩

theorem witness_LoadsIssue_foreign :
    AtWord (lineTurn 2 .ready) (pagedEnv 0x100108) 0x100108 ∧ (lineTurn 2 .ready).arenaOf 0x100108 = some 2 ∧
    (2 ≠ (pagedEnv 0x100108).line.tenant) ∧ (pagedEnv 0x100108).line.priv = false := by unfold AtWord Turn; decide +kernel

/-- An entry that is missing, one without the permission, a TRANSFORMED one, and one whose key slot is empty. -/
theorem witness_LoadsIssue_faults :
    let e := pagedEnv 0x1018
    let miss := paged 0x200000 [fetchPage]
    let f (y : TlbEntry) : Prop := AtWord (paged 0x1018 [y]) e 0x1018 ∧ (paged 0x1018 [y]).arenaOf 0x1018 = none ∧
      ((paged 0x1018 [y]).unit e.u).tlb.find? (fun y => y.covers e.line.tenant 0x1018) = some y ∧ isWindow 0x1018 = false
    AtWord miss (pagedEnv 0x200000) 0x200000 ∧ miss.arenaOf 0x200000 = none ∧ miss.xlate 0 1 0x200000 accRead = .error .miss ∧
    miss.xlate 0 1 0x200000 accWrite = .error .miss ∧ CanPark miss (pagedEnv 0x200000) ∧
    f { fetchPage with r := false } ∧ f { fetchPage with w := false } ∧ f { fetchPage with transformed := true } ∧ f fetchPage ∧
    ({ paged 0x1018 [fetchPage] with keys := [] } : State).keyOk 1 fetchPage.kslot = false ∧ isStack (fetchPage.addr 0x1018) = true ∧
    ({ paged 0x1018 [fetchPage] with keys := [] } : State).hostBias (fetchPage.addr 0x1018) = false := by
  unfold AtWord Turn CanPark; dsimp only; and_intros <;> decide +kernel

/-- A page at the host, at device 3, at the host's bias, moved, and under a flip that was placed before. -/
def hostPage : TlbEntry := { fetchPage with pa := 0x10000000000 }
def peerPage : TlbEntry := { fetchPage with pa := 0x1030000000000 }
def recorded (r : PageRec) : State := { paged 0x1018 [fetchPage] with pageRecs := [(0, r)] }
def flipping : State :=
  { paged 0x1018 [fetchPage] with wire := [(0, .inbound (.biasFlip 3 1 [0x8000000000000000, 1]))], nextId := 9 }

theorem witness_LoadsIssue_places :
    let e := pagedEnv 0x1018
    let ok (s : State) (x : TlbEntry) : Prop := AtWord s e 0x1018 ∧ s.arenaOf 0x1018 = none ∧ s.acquireMask e.va = 0 ∧
      s.fillPending e.va = false ∧ okOf (s.xlate 0 1 0x1018 accRead) = some x ∧ okOf (s.xlate 0 1 0x1018 accWrite) = some x
    let moved := recorded { PageRec.reset with moved := true, dest := 2, dclu := 5 }
    ok (paged 0x1018 [hostPage]) hostPage ∧ isStack (hostPage.addr 0x1018) = false ∧ peerOf (hostPage.addr 0x1018) = none ∧
    ok (recorded { PageRec.reset with bias := true }) fetchPage ∧
    (recorded { PageRec.reset with bias := true }).hostBias (fetchPage.addr 0x1018) = true ∧
    (paged 0x1018 [hostPage]).pagesHeld 9 (hostPage.addr 0x1018 / 65536) 1 = false ∧
    ok (paged 0x1018 [peerPage]) peerPage ∧ peerOf (peerPage.addr 0x1018) = some (3, 0x1018) ∧ 3 ≠ (paged 0x1018 [peerPage]).device ∧
    ok moved fetchPage ∧ isStack (fetchPage.addr 0x1018) = true ∧ moved.hostBias (fetchPage.addr 0x1018) = false ∧
    (moved.pageRec (fetchPage.addr 0x1018 / 65536)).moved = true ∧ e.line.openMsg = false ∧ e.book.owner = .l1 e.u ∧
    ok flipping fetchPage ∧ flipping.present 0 0x1018 8 = false ∧ flipping.pagesHeld flipping.nextId (0x1018 / 65536) 1 = true ∧
    (flipping.pageRec 0).moved = false := by
  unfold AtWord Turn; dsimp only; and_intros <;> decide +kernel

/-- An access that changes no L2 slice: one that no slice serves. -/
theorem witness_LoadsIssue_untouched :
    (paged 0x1018 [hostPage]).l2Access ((paged 0x1018 [hostPage]).homeNow hostPage.attr (hostPage.addr 0x1018)) (hostPage.addr 0x1018)
      hostPage.kslot hostPage.tenant ⟨0, false⟩ = paged 0x1018 [hostPage] := by decide +kernel

/-- The same access on a CIU, and with a full counter on a third and a fourth wasted turn. -/
theorem witness_LoadsIssue_ciu :
    let l := line #v[0x1018, 0, 0, 0, 0, 0, 0, 0]
    let s : State := { cTurn l with pageRecs := [(0, { PageRec.reset with bias := true })] }
    AtWord s (cEnv l) 0x1018 ∧ s.arenaOf 0x1018 = none ∧ okOf (s.xlate 1536 1 0x1018 accRead) = some fetchPage ∧
    s.hostBias (fetchPage.addr 0x1018) = true ∧ 1536 ≤ (cEnv l).u ∧ (cEnv l).line.openMsg = false ∧ (cEnv l).book.owner = .l1 (cEnv l).u := by
  unfold AtWord Turn; dsimp only; and_intros <;> decide +kernel

theorem witness_LoadsIssue_full (n : Nat) (h : n = 2 ∨ n = 3) :
    let l := { line #v[0x1018, 0, 0, 0, 0, 0, 0, 0] with loads := 63, stores := 63 }
    let b := { book with wasted := n }
    let s : State := { (turn l).setCtx fetchCtx ⟨l, b⟩ with pageRecs := [(0, { PageRec.reset with bias := true })] }
    let e := { env l with book := b }
    AtWord s e 0x1018 ∧ AtWord ((turn l).setCtx fetchCtx ⟨l, b⟩) e 0x1018 ∧ s.arenaOf 0x1018 = none ∧ CanPark s e ∧
    okOf (s.xlate 0 1 0x1018 accWrite) = some fetchPage ∧ s.hostBias (fetchPage.addr 0x1018) = true ∧ e.line.loads = 63 ∧
    e.line.stores = 63 ∧ e.book.wasted = n ∧ (s.pageRec 0).moved = false := by
  rcases h with rfl | rfl <;> (unfold AtWord Turn CanPark; dsimp only; and_intros <;> decide +kernel)

/-- A prefetch held for a flip, and an access through the device's own aperture (O22, O23). -/
theorem witness_ResidencyInstructions_held :
    Turn flipping (pagedEnv 0x1018) t [0] false ∧ flipping.xlate 0 1 0x1018 accRead = .ok fetchPage ∧
    flipping.pagesHeld flipping.nextId (0x1000 / 65536) 1 = true :=
  ⟨by unfold Turn; decide +kernel, of_okOf (by decide +kernel), by decide +kernel⟩

theorem witness_SyncIssue_aperture :
    let x := { fetchPage with pa := 0x1000000000000 }
    let s : State := { paged 0x1018 [x] with pageRecs := [(0, { PageRec.reset with kslot := 1, tenant := 1, valid := true, w := true, r := true })] }
    s.syncTarget (pagedEnv 0x1018) 0x1018 = .ok (x, 0, 0x1018) ∧ s.homeAttr x 0x1018 = s.inboundAttr 0x1018 ∧
    Turn s (pagedEnv 0x1018) t [2, 0] true ∧ CanPark s (pagedEnv 0x1018) :=
  ⟨of_okOf (by decide +kernel), by unfold Turn CanPark; dsimp only; and_intros <;> decide +kernel⟩

/-- An RTE that would complete during an open message (O28). -/
theorem witness_SpawnAndOpenMessageTraps_return :
    let l := { rteLine with openMsg := true }
    let s : State := { (turn l).setFrozen 0 1 true with
      lines := [(fetchCtx, ⟨l, book⟩), (0x100100, rteTarget)]
      tenants := [(1, { Tenant.reset with arena := some (0x100000, 100) })] }
    Turn s (env l) t [0] true ∧ Turn s (env l) t [0, 1] true ∧ (l.reg 1).toNat % 4 = 0 ∧ s.dirtyLines 0 = [] ∧ s.releasing 0 = false ∧
    l.join = 0 ∧ s.arenaOf 0x100100 = some 1 ∧ 0x100100 % 128 = 0 ∧ s.ctx? 0x100100 = some rteTarget ∧ rteTarget.line.st = .trapped := by
  unfold Turn; dsimp only; and_intros <;> decide +kernel

theorem witness_Steals_boundary : ((stealState [] false []).unit 3).boundaryDone = false := by decide +kernel

/-! #### Tiles, engines -/

/-- HND.NEW with an empty free list, and with entry 24, the last of a longer table, at its head. -/
theorem witness_TileInstructionsIssue_new :
    let l := tileLine 20 7 16 17
    let s := tileTurn l
    let u : State := { s with tenants := [(1, { Tenant.reset with htab := 0x2000, hlen := 25, hfree := 24 })] }
    (okOf (s.freeEntry (env l))).isSome = true ∧ ((okOf (s.freeEntry (env l))).bind (fun p => p.2)).isNone = true ∧
    ((okOf (u.freeEntry (env l))).bind (fun p => p.2)).isSome = true ∧ Turn u (env l) t [0, 1, 2] false ∧ NothingToRepair u :=
  ⟨by decide +kernel, by decide +kernel, by decide +kernel, by unfold Turn; decide +kernel, State.nothingToRepair _ rfl rfl⟩

/-- An accumulator operation of the context that has not taken effect, and none (O34, O36). -/
theorem witness_MatrixInstructionsIssue_pending :
    let l := { line regs with priv := true }
    let s : State := { accTurn l fetchCtx with tileOps := [⟨4, fetchCtx, 0, 0, 1, .rne, .accZ, []⟩] }
    Turn s (env l) t [0] false ∧ (env l).line.priv = true ∧ (s.unit 0).matrixIdle = true ∧ (s.unit 0).accHold = [] ∧
    (TileKind.accZ).touches.acc = true ∧ (accTurn l fetchCtx).tileOps = [] ∧
    ((accTurn l fetchCtx).modUnit 0 (fun x => { x with latch := [(3, ⟨1, 1⟩)] })).env? = some (env l) ∧
    (((accTurn l fetchCtx).modUnit 0 (fun x => { x with latch := [(3, ⟨1, 1⟩)] })).unit 0).matrixIdle = false := by
  unfold Turn; dsimp only; and_intros <;> decide +kernel

/-- The reads of a KV.MAP whose token lives. -/
theorem witness_AttentionInstructionsIssue_remap :
    let e := tileEnv 1 5 7 8
    ((okOf (mapTurn.issueBytes e 0x1000 64)).bind (fun p => (okOf (p.1.issueBytes e 0x1100 4)).bind (fun q =>
      (okOf (q.1.issueBytes e (addVa 0x1200 (4 * 2)) 4)).bind (fun r =>
        (okOf (r.1.issueBytes e (addVa 0x4000 (0x4080)) 4)).map (fun z => (ofBytes q.2, ofBytes r.2, ofBytes z.2)))))) = some (0, 0, 0) ∧
    (addVa 0x4000 0, 1) ∉ mapTurn.pagesUnder := by decide +kernel

/-- A fence that names a command of another device (O38, O39). -/
theorem witness_EnginePushes_far :
    let l := engLine
    let far : Env := { env l with book := { book with fences := [(0x7F, [2 ^ 48])] } }
    let near : Env := { env l with book := { book with fences := [(0x7F, [2 ^ 48 - 1])] } }
    Turn ((turn l).setCtx fetchCtx ⟨l, far.book⟩) far t [0, 1, 2, 3] false ∧
    (∃ f ∈ far.book.fences, f.1.getLsbD 0 = true ∧ ∃ n ∈ f.2, 2 ^ 48 ≤ n) ∧
    (∀ f ∈ near.book.fences, f.1.getLsbD 0 = true → ∀ n ∈ f.2, n < 2 ^ 48) := by
  unfold Turn; dsimp only; and_intros <;> decide +kernel

/-! #### Lines sent away -/

/-- A turn whose g0 names a line of its tenant's arena that was sent to device 3 (O43, O46). -/
def awayTurn : State :=
  { (turn rteLine).setFrozen 0 1 true with
    lines := [(fetchCtx, ⟨rteLine, book⟩)], abroad := [(0x100100, 3)]
    tenants := [(1, { Tenant.reset with arena := some (0x100000, 100) })] }

theorem witness_ReturnFromTrap_abroad :
    Turn awayTurn (env rteLine) t [0] true ∧ Turn awayTurn (env rteLine) t [0, 1] true ∧ Turn awayTurn (env rteLine) t [2, 0] true ∧
    awayTurn.arenaOf 0x100100 = some 1 ∧ awayTurn.ctx? 0x100100 = none ∧ Assoc.get awayTurn.abroad 0x100100 = some 3 ∧
    0x100100 / 128 * 128 = 0x100100 ∧ awayTurn.dirtyLines 0 = [] ∧ awayTurn.releasing 0 = false ∧ rteLine.join = 0 ∧
    ((awayTurn.unit 0).dqRow 1).frozen = true ∧
    ((Assoc.get (awayTurn.cluster (awayTurn.allocCluster 0 0)).cache 1).getD []).length < 63 ∧ rteLine.loads < 63 := by
  unfold Turn; and_intros <;> decide +kernel

/-- TLB.I of every unit, and of one (O47). -/
theorem witness_TranslationEntries_invalidate :
    let l := { line #v[0x0000000000000100, 0x10000, 0, 2047, 0, 0, 0, 0] with priv := true }
    Turn (turn l) (env l) t [4, 0, 1] false ∧ (l.reg 1).getLsbD 16 = true ∧ Turn (turn l) (env l) t [4, 0, 2] false ∧
    (l.reg 2).getLsbD 16 = false ∧ (turn l).unitUp 0 = true ∧ Turn (turn l) (env l) t [4, 0, 3] false ∧ (turn l).unitUp 2047 = false ∧
    SlicesSound (turn l) ∧ l.loads < 63 ∧ (tlbTurn 0).pagesHeld (tlbTurn 0).nextId 0x200 1 = false ∧
    ((turn l).unit 0).tlb.filter (fun x => removes (l.reg 0) x) = [fetchPage] := by
  unfold Turn SlicesSound Intact; dsimp only; and_intros <;> decide +kernel

/-- Accesses of another device, sent again at once (O50), and a line that another claim names first or not (O51). -/
theorem witness_LinesMove_order :
    let s := wireState (quiet .ready (.l2 4)) (.claim lineVa (.l1 7) .refill 65535)
    s.claimedBefore lineVa 5 = false ∧ 4096 ≤ ({ reqOf lineVa with unit := 4096 } : SyncReq).unit ∧ (quiet .ready (.l2 4)).book.traps = [] ∧
    (quiet .ready (.l2 4)).book.haltDue = [] ∧
    ({ wireState (parting (.l2 4)) (.claim lineVa (.hbm 4) .evict 65535) with
      units := [(0, { Unit.reset with tlb := [{ fetchPage with va := 0x100000, pa := 0x100000 }] })]
      tenants := [(1, { Tenant.reset with arena := some (0x100000, 100) })] } : State).canEvictL2 lineVa = true := by decide +kernel

/-! #### Rings whose handle has gone, empty and full rings, the governor -/

/-- The ring state with the entry's generation changed. -/
def lostRing (push stage : Bool) : State :=
  { ringState 0 0 push stage with
    mem := Memory.writeRange (ringState 0 0 push stage).mem ((tileRef 22).entry + 6) [6, 0] }

theorem witness_RingAndTileOperations_lost :
    let gen (s : State) : Nat := (s.readEntry (tileRef 22) 0).toNat / 2 ^ 48
    gen (ringState 0 0 true false) = (tileRef 22).handle.toNat % 2 ^ 16 ∧ ((ringState 0 0 true false).readEntry (tileRef 22) 0).toNat % 4 = 2 ∧
    gen (lostRing true false) ≠ (tileRef 22).handle.toNat % 2 ^ 16 ∧ (lostRing true false).ringBlocked (ringReq true false) = false ∧
    (lostRing true true).released 0 5 = true ∧ (lostRing true true).msg? 5 = some (.ringOp (ringReq true true)) ∧
    (ringState 0 0 false false).ringCount (tileRef 22) = 0 ∧ (ringState 0 0 false true).ringCount (tileRef 22) = 0 ∧
    (tileRef 22).slots ≤ (ringState 0 2 true true).ringCount (tileRef 22) ∧ (ringState 0 2 true true).released 0 5 = true := by
  dsimp only; and_intros <;> decide +kernel

/-- A cluster whose governor binds the ring of the table, two contexts in each of its queues on unit 0, and two slots' worth of
operations. -/
def govState (head tail : Nat) : State :=
  let c (q : Nat) : Ctx := ⟨{ line regs with st := .ready, queue := q }, { book with owner := .l1 0 }⟩
  { ringState head tail true false with
    lines := [(0x100100, c 2), (0x100180, c 2), (0x100200, c 3), (0x100280, c 3)]
    qwt := []
    units := [(0, { ((tileTurn engLine).unit 0) with level := 13 })]
    tenants := [(1, { Tenant.reset with htab := 0x2000, hlen := 24, qset := 0xC })] }
def gov : Gov := ⟨(hnd 22).toNat, 3, 2, 1, 1, 0, 2⟩

theorem witness_CyclesAndBoundaries_governor :
    (govState 0 2).govRing 0 gov = some { tileRef 22 with word10 := 0x20000 } ∧ gov.aph < (govState 0 2).ringCount (tileRef 22) ∧ (tileRef 22).slots ≤ gov.ops ∧
    (govState 0 0).govRing 0 gov = some (tileRef 22) ∧ (govState 0 0).ringCount (tileRef 22) < gov.per ∧
    (govState 0 1).govRing 0 gov = some { tileRef 22 with word10 := 0x10000 } ∧ gov.per ≤ (govState 0 1).ringCount (tileRef 22) ∧
    (govState 0 1).ringCount (tileRef 22) ≤ gov.aph ∧ ({ gov with ops := 1 } : Gov).ops < (tileRef 22).slots := by
  and_intros <;> decide +kernel

/-- Grants of an IU that the adjustment changes, so that the entry moves. -/
theorem witness_CyclesAndBoundaries_shift :
    ((govState 0 2).clusterGrants ((tileRef 22).iu / 96)).map (fun bs => bs.map (fun b => (b.q, b.n, b.demand))) = [[(2, 2, 2), (3, 1, 2)]] ∧
    adjusted 1 2 2 2 1 = (2, 1) ∧ adjusted 1 2 2 2 0 = (1, 2) := by decide +kernel

/-! #### Translation, hosts, errors -/

/-- A TLB.I with a store of its tenant under way through an entry that it removed, with a tile operation, and with a compaction. -/
theorem witness_TranslationService_rest :
    let c := ctxOf .ready .none (.l1 0)
    let base := wireState c (.tlbInv lineVa 3 1 [(0, 0, 65536)])
    let s : State := { base with wire := (4, .ustore lineVa 0 attr ⟨0, false⟩ 0x1010 0x1010 [1]) :: base.wire }
    base.msg? 5 = some (.tlbInv lineVa 3 1 [(0, 0, 65536)]) ∧ base.accesses.length = 0 ∧ base.tileOps = [] ∧ base.cmds = [] ∧
    s.msg? 5 = some (.tlbInv lineVa 3 1 [(0, 0, 65536)]) ∧ 0 < s.accesses.length ∧ attr.tenant = 1 ∧ SlicesSound base := by
  unfold SlicesSound Intact; dsimp only; and_intros <;> decide +kernel

theorem witness_HostRequests_lengths :
    let load : W64 := 0x0000000700020003
    let spawn : W64 := 0x0000000700020001
    load.toNat / 2 ^ 16 % 2 ^ 8 = 2 ∧ load.toNat % 2 ^ 8 = 0x03 ∧ spawn.toNat % 2 ^ 8 = 0x01 ∧ s0.linkUp = true ∧
    (∃ p, p < 18 ∧ s0.start.ports.getLsbD p = true) ∧ (PeerRequest.mk s0.device 3 0 1 (.load 0x1000 8 7)).dest = s0.device ∧
    (PeerRequest.mk s0.device 3 0 1 (.store 0x1000 8 [5] 7)).peer ≠ s0.device := by
  dsimp only; exact ⟨by decide, by decide, by decide, by decide +kernel, ⟨0, by decide +kernel⟩, rfl, by decide +kernel⟩

/-- A line of an L2 slice, dirty or clean, whose data are lost. -/
theorem witness_SoftErrors_slice :
    let l (d : List (Nat × Byte)) : L2Line := ⟨0x40, 1, 1, ⟨0, false⟩, d, [], ⟨0, false⟩⟩
    let s (d : List (Nat × Byte)) := s0.modUnit 0 (fun x => { x with l2 := [l d] })
    ((s [(0x1000, 7)]).unit 0).l2.find? (fun l => l.line == 0x40) = some (l [(0x1000, 7)]) ∧
    ((s []).unit 0).l2.find? (fun l => l.line == 0x40) = some (l []) ∧ Assoc.get (s []).quarantine 0x40 = none ∧
    (s []).hostBias (0x40 * 64) = false ∧ (s []).quarCount (dieOfStack (stackOf (0x40 * 64))) < 1024 ∧
    (s0.stack 0).patrolAt ≤ s0.stackCycle 0 := by dsimp only; and_intros <;> decide +kernel

/-- R143, R169: a RING.PUSH that issues parks its context and counts in TILES. -/
theorem test_ring_push_counts :
    let l := tileLine 22 7 1 1
    (match exec (.ringPush t 0 1) (tileTurn l) with
      | .next s => (s.ctx? fetchCtx).map (fun c => (c.line.st, c.line.tiles)) | _ => none) = some (.waiting, l.tiles + 1) := by
  decide +kernel

/-- R169: its end makes the context READY at the next instruction and counts TILES down. -/
theorem test_ring_end_counts :
    let c := { ctxOf .waiting (.ring 22) (.l1 0) with line := { (ctxOf .waiting (.ring 22) (.l1 0)).line with tiles := 3 } }
    (match exec (.loadDelivery 5) (wireState c (.served lineVa none 0 false)) with
      | .next s => (s.ctx? lineVa).map (fun d => (d.line.st, d.line.tiles)) | _ => none) = some (.ready, 2) := by
  decide +kernel

/-- R236, R237 (log 68): of thirteen lines of a page present in one set, PIN pins twelve, in whatever way they stand. -/
theorem test_pin_present :
    let ls (p : Bool) : List MscLine := (List.range 13).map (fun i => ⟨i, 5, 0, p && decide (i < 12), 1, []⟩)
    ((State.reset.modStack 0 (fun k => { k with msc := [(5, ls false)] })).pinPresent 0).hstacks.map (fun k => k.2.msc) =
      [[(5, ls true)]] := by decide +kernel

/-- A flip of page 0 behind command 5, which may touch it, takes its place in the order; a command pushed later cannot start (R396
steps 1 and 2). -/
theorem test_flip_waits :
    let event : Instr := .biasFlip 3 1 [0x8000000000000000, 1]
    let s : State := { copyState with nextId := 9, pageRecs := [(0, { PageRec.reset with valid := true })] }
    (match exec event s with
    | .next t => t.wire == [(9, .inbound event)] && !(t.pageRec 0).bias && t.canRun copyCmd &&
        !(t.canRun { copyCmd with id := 12 }) && t.behind 12 0 0x1010
    | _ => false) = true := by decide +kernel

/-- Bytes written as one number, the first highest. -/
def hexBytes (n k : Nat) : List Byte := (bytesOf n k).reverse

/-- FIPS 197 appendix C.3: AES-256, both ways. -/
theorem test_aes256 :
    let ks := roundKeys (hexBytes 0x000102030405060708090A0B0C0D0E0F101112131415161718191A1B1C1D1E1F 32)
    aesEncrypt ks (hexBytes 0x00112233445566778899AABBCCDDEEFF 16) = hexBytes 0x8EA2B7CA516745BFEAFC49904B496089 16 ∧
    aesDecrypt ks (hexBytes 0x8EA2B7CA516745BFEAFC49904B496089 16) = hexBytes 0x00112233445566778899AABBCCDDEEFF 16 := by
  decide +kernel

/-- RFC 4493 section 4, example 2: AES-128-CMAC of one block. -/
theorem test_cmac : cmac (hexBytes 0x2B7E151628AED2A6ABF7158809CF4F3C 16) 1 (hexBytes 0x6BC1BEE22E409F96E93D7E117393172A 16) =
    hexBytes 0x070A16B46B4D4144F79BDD9DD04A287C 16 := by decide +kernel

/-- IEEE 1619 annex B, vector 10: the first 64 bytes of AES-256-XTS of data unit 0xFF, and back (R362). -/
theorem test_xts :
    let k : KeyMat := (BitVec.ofNat 512 (ofBytes (hexBytes 0x2718281828459045235360287471352662497757247093699959574966967627 32 ++
      hexBytes 0x3141592653589793238462643383279502884197169399375105820974944592 32)), 0)
    let plain := (List.range 64).map (BitVec.ofNat 8)
    let cipher := hexBytes 0x1C3B3A102F770386E4836C99E370CF9BEA00803F5E482357A4AE12D414A3E63B5D31E276F8FE4A8D66B317F9AC683F44680A86AC35ADFC3345BEFECB4BB188FD 64
    xtsEncrypt k 0xFF plain = cipher ∧ xtsDecrypt k 0xFF cipher = plain := by decide +kernel

/-- FIPS 180, SHA-384 of "abc" (R371). -/
theorem test_sha384 : sha384 [0x61, 0x62, 0x63] =
    hexBytes 0xCB00753F45A35E8BB5A03D699AC65007272C32AB0EDED1631A8B605A43FF5BED8086072BA1E7CC2358BAECA134C825A7 48 := by
  decide +kernel

end Sys2Proof.Tests
end

section
/-! PROOFS. The hints of major 0x05 (R57): how their words decode, and that a hint's turn only moves CTX.PC on. -/

namespace Sys2Proof.Hints

open Sys2Proof.Machine Sys2Proof.Safety

/-! ## The words of major 0x05 -/

@[simp] theorem hintWord_major (g : Guard) (body : BitVec 20) : wMajor (0x05#6 ++ g.bits ++ body) = 0x05#6 :=
  calc wMajor (0x05#6 ++ g.bits ++ body)
      = (0x05#6 ++ g.bits).extractLsb' 6 6 := extract_append_high _ body 26 6 (by omega)
    _ = (0x05#6).extractLsb' 0 6 := extract_append_high _ g.bits 6 6 (by omega)
    _ = 0x05#6 := by decide

/-- The guard's six bits stand above the body: a field at offset k of them is the field at offset 20 + k of the word. -/
theorem hintWord_guardBits (g : Guard) (body : BitVec 20) (k l : Nat) (h : k + l ≤ 6) :
    BitVec.extractLsb' (n := 32) (20 + k) l (0x05#6 ++ g.bits ++ body) = g.bits.extractLsb' k l :=
  calc BitVec.extractLsb' (n := 32) (20 + k) l (0x05#6 ++ g.bits ++ body)
      = (0x05#6 ++ g.bits).extractLsb' (20 + k - 20) l := extract_append_high _ body (20 + k) l (by omega)
    _ = (0x05#6 ++ g.bits).extractLsb' k l := by rw [Nat.add_sub_cancel_left]
    _ = g.bits.extractLsb' k l := extract_append_low _ g.bits k l h

@[simp] theorem hintWord_guard (g : Guard) (body : BitVec 20) : wGuard (0x05#6 ++ g.bits ++ body) = g := by
  unfold wGuard
  rw [hintWord_guardBits g body 5 1 (by omega), hintWord_guardBits g body 0 5 (by omega)]
  exact g.of_bits

@[simp] theorem hintWord_body (g : Guard) (body : BitVec 20) :
    BitVec.extractLsb' (n := 32) 0 20 (0x05#6 ++ g.bits ++ body) = body := by
  rw [extract_append_low _ body 0 20 (by omega)]
  exact BitVec.extractLsb'_eq_self

/-- Words of major 0x05: every guard and body is legal (R57). -/
theorem decode_major_05 {w : W32} (h : wMajor w = 0x05#6) :
    decode w = some (if wGuard w = Guard.always ∧ w.extractLsb' 0 20 = 0#20 then .nop
      else .hint (wGuard w) (w.extractLsb' 0 20)) := by
  unfold decode
  rw [h]
  exact (apply_ite some _ _ _).symm

theorem decode_hintWord (g : Guard) (body : BitVec 20) :
    decode (0x05#6 ++ g.bits ++ body) = some (if g = Guard.always ∧ body = 0 then .nop else .hint g body) := by
  rw [decode_major_05 (hintWord_major g body), hintWord_guard, hintWord_body]
  rfl

/-- The word of NOP is that of the hint with no guard and body 0. -/
theorem decode_nopWord : decode 0x15F00000 = some .nop :=
  calc decode 0x15F00000
      = decode (0x05#6 ++ Guard.always.bits ++ 0#20) := congrArg decode (by decide)
    _ = some .nop := (decode_hintWord Guard.always 0).trans (congrArg some (if_pos ⟨rfl, rfl⟩))

/-! ## The turn of a hint -/

/-- An instruction that uses no register and only advances its line does so whether its guard holds or not (R49, R50), on any unit. -/
theorem issueLine_advance (s : State) (e : Env) (g : Guard) (h : s.env? = some e) :
    s.issueLine g [] (fun l => .ok l.advance) = retired s e e.line.advance := by
  cases hg : e.line.guard g with
  | true =>
    have hturn : Turn s e g [] true := ⟨h, hg, .inl rfl, by simp⟩
    exact State.issueLine_turn s e g [] _ _ hturn rfl
  | false => exact State.issueWith_off s e g [] false true _ h hg (by simp)

theorem exec_nop (s : State) (e : Env) (h : s.env? = some e) : exec .nop s = .next (retired s e e.line.advance) :=
  congrArg Host.Outcome.next (issueLine_advance s e Guard.always h)

theorem exec_hint (s : State) (e : Env) (g : Guard) (body : BitVec 20) (h : s.env? = some e) :
    exec (.hint g body) s = .next (retired s e e.line.advance) :=
  congrArg Host.Outcome.next (issueLine_advance s e g h)

/-- Settles O13: the decoder reads the guard and the body back from every word of major 0x05, and a hint's turn is the same whether
its guard holds or not. -/
theorem hintsDoNothing : Obligations.HintsDoNothing :=
  ⟨decode_hintWord, decode_nopWord, fun s e h => ⟨exec_nop s e h, fun g body => exec_hint s e g body h⟩⟩

end Sys2Proof.Hints
end

section
/-! PROOFS. Counts of bits, the byte swap and bit fields (R121, R122): what each value is bit by bit, the turns that write it, and
the words of major 0x0F. -/

namespace Sys2Proof.BitFields

open Sys2Proof.Machine Sys2Proof.Safety

/-! ## Counts of bits (R121) -/

/-- No bit of a number stands at its length or above. -/
theorem testBit_of_bitLen_le (v i : Nat) (h : bitLen v ≤ i) : v.testBit i = false := by
  unfold bitLen at h
  split at h
  case isTrue h0 => rw [h0, Nat.zero_testBit]
  case isFalse => exact Nat.testBit_lt_two_pow (Nat.lt_log2_self.trans_le (Nat.pow_le_pow_right (by omega) h))

/-- The highest bit of a number is one. -/
theorem testBit_bitLen_sub_one (v : Nat) (h : bitLen v ≠ 0) : v.testBit (bitLen v - 1) = true := by
  unfold bitLen at h ⊢
  split at h
  case isTrue => exact absurd rfl h
  case isFalse h0 => rw [if_neg h0]; exact Nat.testBit_log2 h0

theorem bitLen_le (x : W64) : bitLen x.toNat ≤ 64 := by
  unfold bitLen
  split
  case isTrue => omega
  case isFalse h0 => exact (Nat.log2_lt h0).mpr x.isLt

/-- The leading zeros of a doubleword: bits from 64 less their number are zero, and the one below them is one. -/
theorem leadingZeros_bits (x : W64) :
    (∀ i, 64 - (64 - bitLen x.toNat) ≤ i → x.getLsbD i = false) ∧
    (64 - bitLen x.toNat < 64 → x.getLsbD (63 - (64 - bitLen x.toNat)) = true) := by
  have hle := bitLen_le x
  refine ⟨fun i hi => testBit_of_bitLen_le _ i (by omega), fun h => ?_⟩
  have hidx : 63 - (64 - bitLen x.toNat) = bitLen x.toNat - 1 := by omega
  rw [hidx]
  exact testBit_bitLen_sub_one _ (by omega)

theorem trailingZeros_le (v n : Nat) : trailingZeros v n ≤ n := by
  induction n generalizing v with
  | zero => exact Nat.le_refl 0
  | succ n ih =>
    unfold trailingZeros
    split
    · omega
    · exact Nat.succ_le_succ (ih _)

theorem testBit_of_lt_trailingZeros (v n i : Nat) (h : i < trailingZeros v n) : v.testBit i = false := by
  induction n generalizing v i with
  | zero => exact absurd h (Nat.not_lt_zero i)
  | succ n ih =>
    unfold trailingZeros at h
    split at h
    case isTrue => exact absurd h (Nat.not_lt_zero i)
    case isFalse hodd =>
      cases i with
      | zero => simpa [Nat.testBit_zero] using hodd
      | succ i => rw [Nat.testBit_succ]; exact ih _ i (by omega)

theorem testBit_trailingZeros (v n : Nat) (h : trailingZeros v n < n) : v.testBit (trailingZeros v n) = true := by
  induction n generalizing v with
  | zero => exact absurd h (Nat.not_lt_zero _)
  | succ n ih =>
    unfold trailingZeros at h ⊢
    split
    case isTrue hodd => simpa [Nat.testBit_zero] using hodd
    case isFalse hodd =>
      rw [if_neg hodd] at h
      rw [Nat.testBit_succ]
      exact ih _ (by omega)

/-- The one bits counted are the places below n where the number has a one. -/
theorem oneBits_eq_length (v n : Nat) : oneBits v n = ((List.range n).filter v.testBit).length := by
  induction n generalizing v with
  | zero => rfl
  | succ n ih =>
    have htail : ((List.range n).filter (v.testBit ∘ Nat.succ)).length = oneBits (v / 2) n := by
      rw [ih]
      exact congrArg (fun p => ((List.range n).filter p).length) (funext fun i => Nat.testBit_succ v i)
    rw [oneBits, List.range_succ_eq_map, List.filter_cons, List.filter_map, Nat.testBit_zero]
    rcases Nat.mod_two_eq_zero_or_one v with h | h <;> simp [h, htail, Nat.add_comm]

/-! ## The byte swap (R121) -/

@[simp] theorem bytesOf_length (v n : Nat) : (bytesOf v n).length = n := by
  induction n generalizing v with
  | zero => rfl
  | succ n ih => rw [bytesOf, List.length_cons, ih]

/-- Byte k of a number's bytes, lowest first. -/
theorem bytesOf_getElem (v n k : Nat) (h : k < (bytesOf v n).length) : (bytesOf v n)[k] = byteOf v k := by
  induction n generalizing v k with
  | zero => exact absurd h (Nat.not_lt_zero k)
  | succ n ih =>
    cases k with
    | zero => simp [bytesOf, byteOf]
    | succ k => simp only [bytesOf, List.getElem_cons_succ, ih, byteOf, Nat.div_div_eq_div_mul, Nat.pow_succ']

/-- Byte k of the number that a list of bytes stands for. -/
theorem ofBytes_byte (bs : List Byte) (k : Nat) (h : k < bs.length) : ofBytes bs / 256 ^ k % 256 = bs[k].toNat := by
  induction bs generalizing k with
  | nil => exact absurd h (Nat.not_lt_zero k)
  | cons b bs ih =>
    have hb : b.toNat < 256 := b.isLt
    cases k with
    | zero => simp only [ofBytes, List.getElem_cons_zero, Nat.pow_zero, Nat.div_one]; omega
    | succ k =>
      have hdiv : (b.toNat + 256 * ofBytes bs) / 256 = ofBytes bs := by omega
      rw [ofBytes, Nat.pow_succ', ← Nat.div_div_eq_div_mul, hdiv, List.getElem_cons_succ]
      exact ih k (by simpa using h)

theorem ofBytes_lt (bs : List Byte) : ofBytes bs < 256 ^ bs.length := by
  induction bs with
  | nil => exact Nat.one_pos
  | cons b bs ih =>
    have hb : b.toNat < 256 := b.isLt
    rw [ofBytes, List.length_cons, Nat.pow_succ']
    omega

/-- An eight-bit lane is a byte. -/
theorem lane_eight (x : W64) (k : Nat) : lane x 8 k = x.toNat / 256 ^ k % 256 :=
  congrArg (fun n => x.toNat / n % 256) (Nat.pow_mul 2 8 k)

/-- The bytes of a doubleword in reverse order. -/
theorem lane_byteSwap (x : W64) (k : Nat) (h : k < 8) :
    lane (w64 (ofBytes (bytesOf x.toNat 8).reverse)) 8 k = lane x 8 (7 - k) := by
  have hlt : ofBytes (bytesOf x.toNat 8).reverse < 2 ^ 64 := by
    simpa using ofBytes_lt (bytesOf x.toNat 8).reverse
  calc lane (w64 (ofBytes (bytesOf x.toNat 8).reverse)) 8 k
      = ofBytes (bytesOf x.toNat 8).reverse / 256 ^ k % 256 := by
        rw [lane_eight, w64, BitVec.toNat_ofNat, Nat.mod_eq_of_lt hlt]
    _ = ((bytesOf x.toNat 8).reverse[k]'(by simpa using h)).toNat := ofBytes_byte _ k _
    _ = (byteOf x.toNat (7 - k)).toNat := by
        simp only [List.getElem_reverse, bytesOf_length, bytesOf_getElem, Nat.reduceSub]
    _ = lane x 8 (7 - k) := by rw [lane_eight, byteOf, BitVec.toNat_ofNat]

/-! ## Bit fields (R122) -/

/-- The length of a field descriptor, at most 64. -/
def fieldLen (b : W64) : Nat := min (b.toNat % 2 ^ 7) 64

theorem fieldMask_eq (b : W64) : fieldMask b = 2 ^ fieldLen b - 1 := by
  rw [fieldMask, bits, Nat.pow_zero, Nat.div_one, fieldLen]

/-- The mask of a length has ones below it. -/
theorem fieldMask_getLsbD (b : W64) (i : Nat) (h : i < 64) : (w64 (fieldMask b)).getLsbD i = decide (i < fieldLen b) := by
  rw [w64, BitVec.getLsbD_ofNat, fieldMask_eq, Nat.testBit_two_pow_sub_one, decide_eq_true h, Bool.true_and]

/-- Bit i of a field taken out is bit pos + i of the operand, where the field reaches that far. -/
theorem extracted_getLsbD (x b : W64) (i : Nat) (h : i < 64) :
    ((x >>> fieldPos b) &&& w64 (fieldMask b)).getLsbD i = (decide (i < fieldLen b) && x.getLsbD (fieldPos b + i)) := by
  rw [BitVec.getLsbD_and, BitVec.getLsbD_ushiftRight, fieldMask_getLsbD b i h, Bool.and_comm]

/-- Bit i of a doubleword with a field put in: inside the field a bit of the operand, outside it the bit that stood there. -/
theorem inserted_getLsbD (z x b : W64) (i : Nat) (h : i < 64) :
    ((z &&& ~~~(w64 (fieldMask b) <<< fieldPos b)) ||| ((x &&& w64 (fieldMask b)) <<< fieldPos b)).getLsbD i =
      if fieldPos b ≤ i ∧ i < fieldPos b + fieldLen b then x.getLsbD (i - fieldPos b) else z.getLsbD i := by
  have hmask := fieldMask_getLsbD b (i - fieldPos b) (by omega)
  simp only [BitVec.getLsbD_or, BitVec.getLsbD_and, BitVec.getLsbD_not, BitVec.getLsbD_shiftLeft, hmask, h]
  by_cases hlow : i < fieldPos b
  · simp [hlow, Nat.not_le.mpr hlow]
  · by_cases hin : i - fieldPos b < fieldLen b
    · have hfield : fieldPos b ≤ i ∧ i < fieldPos b + fieldLen b := by omega
      simp [hlow, hin, hfield]
    · have hfield : ¬ (fieldPos b ≤ i ∧ i < fieldPos b + fieldLen b) := by omega
      simp [hlow, hin, hfield]

/-! ## The turns -/

section
variable (s : State) (e : Env) (g : Guard) (d a b : Reg)

/-- The turn of an instruction that writes a value into gd and goes on. -/
def wrote (v : W64) : Out := .next (retired s e (e.line.setReg d v).advance)

theorem exec_clz (h : Turn s e g [d, a] true) :
    exec (.clz g d a) s = wrote s e d (w64 (64 - bitLen (e.line.reg a).toNat)) :=
  congrArg Host.Outcome.next (State.issueReg_turn s e g _ d _ h)

theorem exec_ctz (h : Turn s e g [d, a] true) :
    exec (.ctz g d a) s = wrote s e d (w64 (trailingZeros (e.line.reg a).toNat 64)) :=
  congrArg Host.Outcome.next (State.issueReg_turn s e g _ d _ h)

theorem exec_popc (h : Turn s e g [d, a] true) :
    exec (.popc g d a) s = wrote s e d (w64 (oneBits (e.line.reg a).toNat 64)) :=
  congrArg Host.Outcome.next (State.issueReg_turn s e g _ d _ h)

theorem exec_bswap (h : Turn s e g [d, a] true) :
    exec (.bswap g d a) s = wrote s e d (w64 (ofBytes (bytesOf (e.line.reg a).toNat 8).reverse)) :=
  congrArg Host.Outcome.next (State.issueReg_turn s e g _ d _ h)

theorem exec_bext (h : Turn s e g [d, a, b] true) :
    exec (.bext g d a b) s =
      wrote s e d ((e.line.reg a >>> fieldPos (e.line.reg b)) &&& w64 (fieldMask (e.line.reg b))) :=
  congrArg Host.Outcome.next (State.issueReg_turn s e g _ d _ h)

theorem exec_bins (h : Turn s e g [d, a, b] true) :
    exec (.bins g d a b) s =
      wrote s e d ((e.line.reg d &&& ~~~(w64 (fieldMask (e.line.reg b)) <<< fieldPos (e.line.reg b))) |||
        ((e.line.reg a &&& w64 (fieldMask (e.line.reg b))) <<< fieldPos (e.line.reg b))) :=
  congrArg Host.Outcome.next (State.issueReg_turn s e g _ d _ h)

end

/-! ## The words of major 0x0F -/

/-- The eleven low bits of the R format. -/
@[simp] theorem encR_func (m : BitVec 6) (g : Guard) (d a b : Reg) (f : BitVec 11) :
    (encR m g d a b f).extractLsb' 0 11 = f := by
  rw [encR_low _ _ _ _ _ _ 0 11 (by omega), BitVec.extractLsb'_eq_self]

/-- A word of major 0x0F, in the R format. -/
theorem decode_word (g : Guard) (d a b : Reg) (f : BitVec 11) :
    decode (encR 0x0F#6 g d a b f) = decodeMulBits (encR 0x0F#6 g d a b f) g := by
  rw [decode_major_0F (encR_major ..), encR_guard]

/-- An instruction that names no b has the one word of its func whose b is zero. -/
theorem decode_oneRegister (g : Guard) (d a b : Reg) :
    decode (encR 0x0F#6 g d a b 0) = accept (b == 0#3) (.clz g d a) ∧
    decode (encR 0x0F#6 g d a b 1) = accept (b == 0#3) (.ctz g d a) ∧
    decode (encR 0x0F#6 g d a b 2) = accept (b == 0#3) (.popc g d a) ∧
    decode (encR 0x0F#6 g d a b 3) = accept (b == 0#3) (.bswap g d a) := by
  simp only [decode_word, decodeMulBits, encR_major, encR_func, encR_fd, encR_fa, encR_fb]
  exact ⟨rfl, rfl, rfl, rfl⟩

theorem decode_fields (g : Guard) (d a b : Reg) :
    decode (encR 0x0F#6 g d a b 4) = some (.bext g d a b) ∧
    decode (encR 0x0F#6 g d a b 5) = some (.bins g d a b) := by
  simp only [decode_word, decodeMulBits, encR_major, encR_func, encR_fd, encR_fa, encR_fb]
  exact ⟨rfl, rfl⟩

/-! ## The obligation -/

/-- Settles O11: each turn writes the value that the model computes, which the lemmas above read bit by bit; the words are those of
the R format. -/
theorem bitFieldResults : Obligations.BitFieldResults := by
  refine ⟨fun s e g d a => ⟨fun h => ⟨?clz, ?ctz, ?popc, ?bswap⟩, fun b h => ⟨?bext, ?bins⟩⟩,
    fun g d a b => ⟨?accepted, ?reserved, decode_fields g d a b⟩⟩
  case clz =>
    obtain ⟨hzero, hone⟩ := leadingZeros_bits (e.line.reg a)
    exact ⟨_, exec_clz s e g d a h, Nat.sub_le .., hzero, hone⟩
  case ctz =>
    exact ⟨_, exec_ctz s e g d a h, trailingZeros_le _ 64, fun i => testBit_of_lt_trailingZeros _ 64 i,
      testBit_trailingZeros _ 64⟩
  case popc => exact (exec_popc s e g d a h).trans (congrArg (wrote s e d ∘ w64) (oneBits_eq_length _ 64))
  case bswap => exact ⟨_, exec_bswap s e g d a h, lane_byteSwap _⟩
  case bext => exact ⟨_, exec_bext s e g d a b h, extracted_getLsbD _ _⟩
  case bins => exact ⟨_, exec_bins s e g d a b h, inserted_getLsbD _ _ _⟩
  case accepted =>
    rintro rfl
    exact decode_oneRegister g d a 0
  case reserved =>
    intro hb f hf
    obtain ⟨h0, h1, h2, h3⟩ := decode_oneRegister g d a b
    have hnone (i : Instr) : accept (b == 0#3) i = none := if_neg (by simpa using hb)
    simp only [List.mem_cons, List.not_mem_nil, or_false] at hf
    rcases hf with rfl | rfl | rfl | rfl
    · exact h0.trans (hnone _)
    · exact h1.trans (hnone _)
    · exact h2.trans (hnone _)
    · exact h3.trans (hnone _)

end Sys2Proof.BitFields
end

section
/-! PROOFS. Predicate logic and the predicate word (R113, R114): what a write of a predicate leaves, the turns, and the words of the
P format that its fields accept and refuse. -/

namespace Sys2Proof.PredLogic

open Sys2Proof.Machine Sys2Proof.Safety

/-! ## A predicate written (R17) -/

/-- Bit i of a predicate word with bit k written. -/
theorem getLsbD_writeBit (x : W32) (v : Bool) (k i : Nat) (hk : k < 32) (hi : i < 32) :
    (if v then x ||| (1#32 <<< k) else x &&& ~~~(1#32 <<< k)).getLsbD i = if i = k then v else x.getLsbD i := by
  have hone : (1#32 <<< k).getLsbD i = decide (i = k) := by
    rw [← BitVec.twoPow_eq, BitVec.getLsbD_twoPow, decide_eq_true hk, Bool.true_and]
    exact decide_eq_decide.mpr eq_comm
  cases v
  case true =>
    rw [if_pos rfl, BitVec.getLsbD_or, hone]
    by_cases h : i = k <;> simp [h]
  case false =>
    rw [if_neg Bool.false_ne_true, BitVec.getLsbD_and, BitVec.getLsbD_not, hone, decide_eq_true hi]
    by_cases h : i = k <;> simp [h]

/-- A write of a predicate reaches that predicate alone, and p31 not at all. -/
theorem p_setP (l : Line) (pd : Pred) (v : Bool) (q : Pred) :
    (l.setP pd v).p q = if q = 31 then true else if q = pd then v else l.p q := by
  by_cases hq : q = 31#5
  · simp [Line.p, hq]
  · by_cases hpd : pd = 31#5
    · have hne : q ≠ pd := fun h => hq (h.trans hpd)
      simp [Line.setP, hpd, hq]
    · have hbit : (q.toNat = pd.toNat) ↔ q = pd := BitVec.toNat_inj
      simp only [Line.p, Line.setP, hpd, if_false, getLsbD_writeBit _ _ _ _ pd.isLt q.isLt, hbit]
      by_cases hqp : q = pd <;> simp [hq, hqp, hpd]

/-- The predicate word that PSET writes: the low 31 bits of a register with bit 31 one. -/
theorem setBit31_eq (x : W64) : x.setWidth 32 ||| 0x80000000#32 = BitVec.ofNat 32 (x.toNat % 2 ^ 31 + 2 ^ 31) := by
  have hlow : x.toNat % 2 ^ 31 < 2 ^ 31 := Nat.mod_lt _ (Nat.two_pow_pos 31)
  have hsum : x.toNat % 2 ^ 31 + 2 ^ 31 = x.toNat % 2 ^ 31 ||| 2 ^ 31 := by
    rw [Nat.add_comm, Nat.or_comm]
    exact Nat.two_pow_add_eq_or_of_lt hlow 1
  apply BitVec.eq_of_getLsbD_eq
  intro i hi
  have htop : (0x80000000#32).getLsbD i = decide (31 = i) :=
    (BitVec.getLsbD_twoPow (w := 32) 31 i).trans (Bool.true_and _)
  rw [hsum, BitVec.getLsbD_or, htop, BitVec.getLsbD_setWidth, BitVec.getLsbD_ofNat, Nat.testBit_or, Nat.testBit_two_pow,
    Nat.testBit_mod_two_pow, BitVec.testBit_toNat]
  by_cases h : 31 = i
  · simp [h, hi]
  · have hi31 : i < 31 := by omega
    simp [hi, hi31]

/-! ## The turns -/

section
variable (s : State) (e : Env) (g : Guard)

/-- An instruction that writes one predicate from predicates. -/
theorem predOp_turn (pd : Pred) (f : Line → Bool) (h : Turn s e g [] true) :
    predOp g pd f s = retired s e (e.line.setP pd (f e.line)).advance :=
  State.issueLine_turn s e g [] _ _ h rfl

theorem exec_logic (pd qa qb : Pred) (h : Turn s e g [] true) :
    let out : Bool → Out := fun v => .next (retired s e (e.line.setP pd v).advance)
    exec (.pand g pd qa qb) s = out (e.line.p qa && e.line.p qb) ∧
    exec (.por g pd qa qb) s = out (e.line.p qa || e.line.p qb) ∧
    exec (.pxor g pd qa qb) s = out (e.line.p qa != e.line.p qb) ∧
    exec (.pnot g pd qa) s = out (!(e.line.p qa)) ∧
    exec (.pmov g pd qa) s = out (e.line.p qa) :=
  have next (f : Line → Bool) : Host.Outcome.next (predOp g pd f s) =
      (.next (retired s e (e.line.setP pd (f e.line)).advance) : Out) := congrArg _ (predOp_turn s e g pd f h)
  ⟨next _, next _, next _, next _, next _⟩

theorem exec_pget (d : Reg) (h : Turn s e g [d] true) :
    exec (.pget g d) s =
      .next (retired s e (e.line.setReg d (BitVec.ofNat 64 (e.line.pred ||| 0x80000000).toNat)).advance) := by
  rw [BitVec.ofNat_toNat]
  exact congrArg Host.Outcome.next (State.issueReg_turn s e g _ d _ h)

theorem exec_pset (a : Reg) (h : Turn s e g [a] true) :
    exec (.pset g a) s =
      .next (retired s e { e.line with pred := BitVec.ofNat 32 ((e.line.reg a).toNat % 2 ^ 31 + 2 ^ 31) }.advance) := by
  rw [← setBit31_eq]
  exact congrArg Host.Outcome.next (State.issueLine_turn s e g _ _ _ h rfl)

end

/-! ## The words of the P format -/

/-- The logic layout, whatever bit 9 holds. -/
def logicWord (g : Guard) (pd qa : Pred) (x : BitVec 1) (qb : Pred) (f : BitVec 4) : W32 :=
  0x03#6 ++ g.bits ++ pd ++ qa ++ x ++ qb ++ f

section
variable (g : Guard) (pd qa : Pred) (x : BitVec 1) (qb : Pred) (f : BitVec 4)

/-- The logic layout is decoded by the fields that it was laid out from. -/
theorem logicWord_fields :
    wMajor (logicWord g pd qa x qb f) = 0x03#6 ∧ wGuard (logicWord g pd qa x qb f) = g ∧
    (logicWord g pd qa x qb f).extractLsb' 15 5 = pd ∧ (logicWord g pd qa x qb f).extractLsb' 10 5 = qa ∧
    (logicWord g pd qa x qb f).extractLsb' 9 1 = x ∧ (logicWord g pd qa x qb f).extractLsb' 4 5 = qb ∧
    (logicWord g pd qa x qb f).extractLsb' 0 4 = f := by
  simp (disch := omega) only [wMajor, wGuard, logicWord, extract_append_high, extract_append_low, Nat.reduceSub,
    BitVec.extractLsb'_eq_self, Guard.of_bits, and_self]

theorem decode_logicWord :
    decode (logicWord g pd qa x qb 2) = accept (x == 0#1) (.pand g pd qa qb) ∧
    decode (logicWord g pd qa x qb 3) = accept (x == 0#1) (.por g pd qa qb) ∧
    decode (logicWord g pd qa x qb 4) = accept (x == 0#1) (.pxor g pd qa qb) ∧
    decode (logicWord g pd qa x qb 5) = accept (x == 0#1 && qb == 0#5) (.pnot g pd qa) ∧
    decode (logicWord g pd qa x qb 6) = accept (x == 0#1 && qb == 0#5) (.pmov g pd qa) := by
  have func (f : BitVec 4) : decode (logicWord g pd qa x qb f) = decodePred (logicWord g pd qa x qb f) g := by
    obtain ⟨hmajor, hguard, -⟩ := logicWord_fields g pd qa x qb f
    rw [decode_major_03 hmajor, hguard]
  simp only [func, decodePred, logicWord_fields]
  exact ⟨rfl, rfl, rfl, rfl, rfl⟩

end

/-- The layout of PGET and PSET, whatever its two unused fields hold. -/
def wholeWord (g : Guard) (z : BitVec 5) (r : Reg) (y : BitVec 8) (f : BitVec 4) : W32 := 0x03#6 ++ g.bits ++ z ++ r ++ y ++ f

section
variable (g : Guard) (z : BitVec 5) (r : Reg) (y : BitVec 8) (f : BitVec 4)

theorem wholeWord_fields :
    wMajor (wholeWord g z r y f) = 0x03#6 ∧ wGuard (wholeWord g z r y f) = g ∧
    (wholeWord g z r y f).extractLsb' 15 5 = z ∧ (wholeWord g z r y f).extractLsb' 12 3 = r ∧
    (wholeWord g z r y f).extractLsb' 4 8 = y ∧ (wholeWord g z r y f).extractLsb' 0 4 = f := by
  simp (disch := omega) only [wMajor, wGuard, wholeWord, extract_append_high, extract_append_low, Nat.reduceSub,
    BitVec.extractLsb'_eq_self, Guard.of_bits, and_self]

theorem decode_wholeWord :
    decode (wholeWord g z r y 7) = accept (z == 0#5 && y == 0#8) (.pget g r) ∧
    decode (wholeWord g z r y 8) = accept (z == 0#5 && y == 0#8) (.pset g r) := by
  have func (f : BitVec 4) : decode (wholeWord g z r y f) = decodePred (wholeWord g z r y f) g := by
    obtain ⟨hmajor, hguard, -⟩ := wholeWord_fields g z r y f
    rw [decode_major_03 hmajor, hguard]
  simp only [func, decodePred, wholeWord_fields]
  exact ⟨rfl, rfl⟩

end

/-! ## The obligation -/

/-- Settles O15: the turns write what the model computes from the line before, and each layout is decoded to an instruction exactly
where its unused fields are zero. -/
theorem predicateLogic : Obligations.PredicateLogic := by
  intro s e g
  refine ⟨fun pd qa qb => exec_logic s e g pd qa qb, p_setP e.line,
    fun r h => ⟨exec_pget s e g r h, exec_pset s e g r h⟩,
    fun pd qa qb x => ⟨?accepted, ?bit9, ?qb⟩, fun z r y => ⟨?whole, ?unused⟩⟩
  case accepted =>
    rintro rfl
    obtain ⟨hand, hor, hxor, -, -⟩ := decode_logicWord g pd qa 0 qb
    obtain ⟨-, -, -, hnot, hmov⟩ := decode_logicWord g pd qa 0 0
    exact ⟨hand, hor, hxor, hnot, hmov⟩
  case bit9 =>
    rintro rfl f hf
    obtain ⟨hand, hor, hxor, hnot, hmov⟩ := decode_logicWord g pd qa 1 qb
    simp only [List.mem_cons, List.not_mem_nil, or_false] at hf
    rcases hf with rfl | rfl | rfl | rfl | rfl
    · exact hand
    · exact hor
    · exact hxor
    · exact hnot
    · exact hmov
  case qb =>
    intro hqb
    obtain ⟨-, -, -, hnot, hmov⟩ := decode_logicWord g pd qa x qb
    have hnone (i : Instr) : accept (x == 0#1 && qb == 0#5) i = none := if_neg (by simpa using fun _ => hqb)
    exact ⟨hnot.trans (hnone _), hmov.trans (hnone _)⟩
  case whole =>
    rintro rfl rfl
    exact decode_wholeWord g 0 r 0
  case unused =>
    intro hzy
    obtain ⟨hget, hset⟩ := decode_wholeWord g z r y
    have hnone (i : Instr) : accept (z == 0#5 && y == 0#8) i = none := if_neg (by simpa [← not_and_or] using hzy)
    exact ⟨hget.trans (hnone _), hset.trans (hnone _)⟩

end Sys2Proof.PredLogic
end
